-- ==== Sys2Proof/Word.lean ====
section
/-!
DEFINITION. The word types of the PX-880 and their plainest arithmetic (spec/00 R1, spec/03 R40).
-/
namespace Sys2Proof

/-- R40: an instruction word, and the width of a register. -/
abbrev Word := BitVec 32

/-- R46, R47: a register pair or a latch. -/
abbrev DWord := BitVec 64

/-- R1: a byte of memory. -/
abbrev Byte := BitVec 8

end Sys2Proof
end

