-- ==== Sys2Proof/Config.lean ====
section
/-!
DEFINITION. What an implementation fixes and the spec leaves open: constants without a body, so that no proof can
lean on a value (notes/assumptions/5 and 12).
-/
namespace Sys2Proof

/-- A free value: what the spec leaves undefined, one for each value of the state's counter. -/
opaque Config.freeValue : Nat → DWord

/-- R387: the measurement of the boot ROM. -/
opaque Config.romMeasure : BitVec 384

/-- R179: the special functions of the PX-880 at `.f32` are fixed functions of the operand's bits; the spec gives
only bounds. The model uses the value of one of these where it lies within the bound. -/
opaque Config.frsq : Word → Word
/-- R179: as `Config.frsq`, for `FEXP2`. -/
opaque Config.fexp2 : Word → Word
/-- R179: as `Config.frsq`, for `FLOG2`. -/
opaque Config.flog2 : Word → Word
/-- R179: as `Config.frsq`, for `FSIN`. -/
opaque Config.fsin : Word → Word
/-- R179: as `Config.frsq`, for `FCOS`. -/
opaque Config.fcos : Word → Word
/-- R179: as `Config.frsq`, for `FTANH`. -/
opaque Config.ftanh : Word → Word

end Sys2Proof
end

