-- ==== Sys2Proof/Syntax.lean ====
section
/-!
DEFINITION. The syntax of the PX-880: one constructor of `Instr` for each row of spec/opcode_table.json.
An instruction with words carries the fields of its row at their widths and, where a prefix may stand before
it (R50), its prefix words `Mods`; a row without words is a step of another agent (spec/95) and carries the
choices and inputs that the spec leaves to that agent (notes/assumptions/3, 14, 15).
-/
namespace Sys2Proof

/-- R52: the `REP` prefix word. `cnt` is the repeat count less 1; the steps are step codes. -/
structure Rep where
  cnt : BitVec 6
  dStep : BitVec 2
  aStep : BitVec 2
  bStep : BitVec 2
  deriving DecidableEq, Repr

/-- R53: the `EXT` prefix word: guard and modifiers. -/
structure Ext where
  ge : Bool
  gn : Bool
  gp : BitVec 4
  scope : BitVec 3
  vol : Bool
  rnd : BitVec 3
  sat : Bool
  ty : BitVec 5
  md : BitVec 5
  deriving DecidableEq, Repr

/-- R53: an instruction without `EXT` behaves as if every field were zero. -/
def Ext.zero : Ext :=
  { ge := false, gn := false, gp := 0, scope := 0, vol := false, rnd := 0, sat := false, ty := 0, md := 0 }

/-- R50: the prefix words that stand before an instruction, other than `STR`. -/
structure Mods where
  rep : Option Rep
  ext : Option Ext
  limm : Option (BitVec 24)
  deriving DecidableEq, Repr

/-- No prefix word. -/
def Mods.none : Mods := { rep := .none, ext := .none, limm := .none }

/-- R103, R116: a gate as the loader writes it: table slot, block set, offset in the code area, code words. -/
structure GateImage where
  slot : Nat
  mask : BitVec 64
  off : Nat
  code : List Word
  deriving DecidableEq, Repr

/-- A place in a module's code that a symbol's value is written into by the loader (R333, R362, R384): the immediate of a
`UMOVI` word, and for a kernel's name the `LIMM` word before it as well. -/
structure Reloc where
  kernel : Nat
  block : Nat
  word : Nat
  toKernel : Bool
  index : Nat
  deriving DecidableEq, Repr

/-- R26, R63: one kernel of a module. `hints` are the `.gate` lines as block sets. -/
structure KernelImage where
  entry : Nat
  regs : Nat
  uregs : Nat
  acc : Nat
  scratch : Nat
  crew : Nat
  blocks : List (List Word)
  hints : List (BitVec 64)
  deriving DecidableEq, Repr

/-- R388, R299, R63: a `.const` or `.data` item, stored as its bytes, with its element count and its `.align`. -/
structure DataItem where
  align : Nat
  readOnly : Bool
  ty : BitVec 5
  count : Nat
  bytes : List (BitVec 8)
  deriving DecidableEq, Repr

/-- A module image: the contents of a `.glx` file, which has no byte layout in the spec. -/
structure ModuleImage where
  name : Nat
  version : Nat
  kernels : List KernelImage
  resSyms : Nat
  items : List DataItem
  relocs : List Reloc
  deriving DecidableEq, Repr

/-- The loader's choices for one kernel (R103, R105, R384): handle, address of the gate table, base of the code
area, gates built. -/
structure KernelPlan where
  handle : Word
  gateTable : Nat
  codeBase : Nat
  gates : List GateImage
  deriving DecidableEq, Repr

/-- A page that the loader maps: virtual address, frame set, flags. -/
structure PagePlan where
  va : Nat
  fset : Nat
  w : Bool
  pin : Bool
  big : Bool
  deriving DecidableEq, Repr

/-- The loader's choices for a `LOAD` (R382 to R384): module id, pages it maps with frame sets for new tables,
the kernels, the entry index and binding token of each resource symbol (one that no `RES` names gets an entry of
kind 0 with the token), the index and address of each data item, the IOVA of the host's buffer for the kernel handles
(R369). -/
structure LoadPlan where
  modId : Nat
  buffer : Nat
  pages : List PagePlan
  tables : List Nat
  kernels : List KernelPlan
  syms : List (Nat × Option Word)
  items : List (Nat × Nat)
  deriving DecidableEq, Repr

/-- The loader's choices for a `CREATE` (R375): pages and table frames, the registers of R340 it sets, the frames
it puts into the frame pool, and the plan for the supervisor module, with the kernel of it that is the fault handler, if it has
one (R333). -/
structure CreatePlan where
  pages : List PagePlan
  tables : List Nat
  ptbase : Nat
  rtbase : Nat
  rtcnt : Nat
  hotbase : Nat
  fpool : Nat
  poolHdr : Nat
  poolRing : Nat
  poolCap : Nat
  poolFrames : List Nat
  hbase : Nat
  vwbase : Nat
  fzbase : Nat
  svbase : Nat
  erbase : Nat
  mrbase : Nat
  fqbase : Nat
  fltKernel : Option Nat
  load : LoadPlan
  deriving DecidableEq, Repr

/-- R386: a firmware image as fetched: whether both signatures verify, its security version, and the measurements
of its firmware and of its loader (R387). -/
structure FirmwareImage where
  ecdsaOk : Bool
  lmsOk : Bool
  version : Nat
  measure : BitVec 384
  loaderMeasure : BitVec 384
  deriving DecidableEq, Repr

/-- R344, R348: on-chip state hit by an uncorrectable error. -/
inductive OnChip where
  | groupState (g : Nat)
  | shared
  | modifiedLine (va : Nat)
  deriving DecidableEq, Repr

/-- R256, R287: an access by a peer device. -/
inductive PeerOp where
  | read (len : Nat)
  | write (bytes : List (BitVec 8))
  | add (value : Word)
  deriving DecidableEq, Repr

/-- R198, R205: a turn of a core's matrix engine; `errors` are the rows whose metadata word storage cannot give. -/
structure EngineTurn where
  core : Nat
  errors : List Nat
  deriving DecidableEq, Repr

/-- R22: the readings of a microsecond in microjoules, by unit: clusters without their cores, cores without their matrix
engines, the engines, home slices, channels with their groomers, the I/O die with the links. -/
structure EnergyReading where
  clusters : List (Nat × Nat)
  cores : List (Nat × Nat)
  engines : List (Nat × Nat)
  slices : List (Nat × Nat)
  channels : List (Nat × Nat)
  io : Nat
  deriving DecidableEq, Repr

/-- R367: a message's function, slot and tag; `rsvd` says that a reserved bit of its header or body is set. -/
structure Msg where
  fn : Nat
  slot : Nat
  tag : Word
  rsvd : Bool
  deriving DecidableEq, Repr

/-- One constructor for each row of spec/opcode_table.json, in the table's order. -/
inductive Instr where
  | br (t : BitVec 6)
  | brc (p : BitVec 4) (a : BitVec 6) (b : BitVec 6)
  | brx (a : BitVec 8)
  | brl (d : BitVec 8) (a : BitVec 6) (b : BitVec 6)
  | exit
  | gend
  | yield (m : Mods)
  | nop (m : Mods)
  | win (i : BitVec 16) (m : Mods)
  | winOperand (a : BitVec 8) (m : Mods)
  | uwin (i : BitVec 16) (m : Mods)
  | uwinOperand (a : BitVec 8) (m : Mods)
  | brk (c : BitVec 16) (m : Mods)
  | trap (c : BitVec 16) (m : Mods)
  | launch (d : BitVec 7) (a : BitVec 8) (b : BitVec 8) (m : Mods)
  | ill (pre : List Word) (i : BitVec 24)
  | illFf (pre : List Word) (i : BitVec 24)
  | unassignedOpcode (pre : List Word) (w : Word)
  | str (b : BitVec 6) (l : BitVec 6)
  | add (d : BitVec 8) (a : BitVec 8) (b : BitVec 8) (m : Mods)
  | sub (d : BitVec 8) (a : BitVec 8) (b : BitVec 8) (m : Mods)
  | mul (d : BitVec 8) (a : BitVec 8) (b : BitVec 8) (m : Mods)
  | mulh (d : BitVec 8) (a : BitVec 8) (b : BitVec 8) (m : Mods)
  | mad (d : BitVec 8) (a : BitVec 8) (b : BitVec 8) (m : Mods)
  | min (d : BitVec 8) (a : BitVec 8) (b : BitVec 8) (m : Mods)
  | max (d : BitVec 8) (a : BitVec 8) (b : BitVec 8) (m : Mods)
  | abs (d : BitVec 8) (a : BitVec 8) (m : Mods)
  | neg (d : BitVec 8) (a : BitVec 8) (m : Mods)
  | and (d : BitVec 8) (a : BitVec 8) (b : BitVec 8) (m : Mods)
  | or (d : BitVec 8) (a : BitVec 8) (b : BitVec 8) (m : Mods)
  | xor (d : BitVec 8) (a : BitVec 8) (b : BitVec 8) (m : Mods)
  | andn (d : BitVec 8) (a : BitVec 8) (b : BitVec 8) (m : Mods)
  | not (d : BitVec 8) (a : BitVec 8) (m : Mods)
  | shl (d : BitVec 8) (a : BitVec 8) (b : BitVec 8) (m : Mods)
  | shr (d : BitVec 8) (a : BitVec 8) (b : BitVec 8) (m : Mods)
  | sar (d : BitVec 8) (a : BitVec 8) (b : BitVec 8) (m : Mods)
  | rot (d : BitVec 8) (a : BitVec 8) (b : BitVec 8) (m : Mods)
  | clz (d : BitVec 8) (a : BitVec 8) (m : Mods)
  | popc (d : BitVec 8) (a : BitVec 8) (m : Mods)
  | brev (d : BitVec 8) (a : BitVec 8) (m : Mods)
  | addw (d : BitVec 8) (a : BitVec 8) (b : BitVec 8) (m : Mods)
  | subw (d : BitVec 8) (a : BitVec 8) (b : BitVec 8) (m : Mods)
  | mov (d : BitVec 8) (a : BitVec 8) (m : Mods)
  | movi (d : BitVec 8) (i : BitVec 16) (m : Mods)
  | sel (d : BitVec 8) (a : BitVec 8) (b : BitVec 8) (m : Mods)
  | icmpEq (c : BitVec 3) (q : BitVec 4) (a : BitVec 8) (b : BitVec 8) (m : Mods)
  | icmpNe (c : BitVec 3) (q : BitVec 4) (a : BitVec 8) (b : BitVec 8) (m : Mods)
  | icmpLt (c : BitVec 3) (q : BitVec 4) (a : BitVec 8) (b : BitVec 8) (m : Mods)
  | icmpLe (c : BitVec 3) (q : BitVec 4) (a : BitVec 8) (b : BitVec 8) (m : Mods)
  | icmpGt (c : BitVec 3) (q : BitVec 4) (a : BitVec 8) (b : BitVec 8) (m : Mods)
  | icmpGe (c : BitVec 3) (q : BitVec 4) (a : BitVec 8) (b : BitVec 8) (m : Mods)
  | rget (d : BitVec 8) (a : BitVec 8) (m : Mods)
  | rput (a : BitVec 8) (b : BitVec 8) (m : Mods)
  | shfl (d : BitVec 8) (a : BitVec 8) (b : BitVec 8) (m : Mods)
  | shflx (d : BitVec 8) (a : BitVec 8) (b : BitVec 8) (m : Mods)
  | shfld (d : BitVec 8) (a : BitVec 8) (b : BitVec 8) (m : Mods)
  | shfln (d : BitVec 8) (a : BitVec 8) (b : BitVec 8) (m : Mods)
  | vote (d : BitVec 8) (a : BitVec 8) (m : Mods)
  | redadd (d : BitVec 8) (a : BitVec 8) (m : Mods)
  | redmin (d : BitVec 8) (a : BitVec 8) (m : Mods)
  | redmax (d : BitVec 8) (a : BitVec 8) (m : Mods)
  | scanadd (d : BitVec 8) (a : BitVec 8) (m : Mods)
  | rdlane (d : BitVec 8) (a : BitVec 8) (b : BitVec 8) (m : Mods)
  | sample (d : BitVec 8) (a : BitVec 8) (b : BitVec 8) (m : Mods)
  | vconf (d : BitVec 8) (a : BitVec 8) (m : Mods)
  | segsum (d : BitVec 8) (a : BitVec 8) (b : BitVec 8) (m : Mods)
  | fadd (d : BitVec 8) (a : BitVec 8) (b : BitVec 8) (m : Mods)
  | fsub (d : BitVec 8) (a : BitVec 8) (b : BitVec 8) (m : Mods)
  | fmul (d : BitVec 8) (a : BitVec 8) (b : BitVec 8) (m : Mods)
  | ffma (d : BitVec 8) (a : BitVec 8) (b : BitVec 8) (m : Mods)
  | fmin (d : BitVec 8) (a : BitVec 8) (b : BitVec 8) (m : Mods)
  | fmax (d : BitVec 8) (a : BitVec 8) (b : BitVec 8) (m : Mods)
  | fabs (d : BitVec 8) (a : BitVec 8) (m : Mods)
  | fneg (d : BitVec 8) (a : BitVec 8) (m : Mods)
  | fcmpEq (c : BitVec 3) (q : BitVec 4) (a : BitVec 8) (b : BitVec 8) (m : Mods)
  | fcmpNe (c : BitVec 3) (q : BitVec 4) (a : BitVec 8) (b : BitVec 8) (m : Mods)
  | fcmpLt (c : BitVec 3) (q : BitVec 4) (a : BitVec 8) (b : BitVec 8) (m : Mods)
  | fcmpLe (c : BitVec 3) (q : BitVec 4) (a : BitVec 8) (b : BitVec 8) (m : Mods)
  | fcmpGt (c : BitVec 3) (q : BitVec 4) (a : BitVec 8) (b : BitVec 8) (m : Mods)
  | fcmpGe (c : BitVec 3) (q : BitVec 4) (a : BitVec 8) (b : BitVec 8) (m : Mods)
  | frcp (d : BitVec 8) (a : BitVec 8) (m : Mods)
  | frsq (d : BitVec 8) (a : BitVec 8) (m : Mods)
  | fsqrt (d : BitVec 8) (a : BitVec 8) (m : Mods)
  | fexp2 (d : BitVec 8) (a : BitVec 8) (m : Mods)
  | flog2 (d : BitVec 8) (a : BitVec 8) (m : Mods)
  | fsin (d : BitVec 8) (a : BitVec 8) (m : Mods)
  | fcos (d : BitVec 8) (a : BitVec 8) (m : Mods)
  | ftanh (d : BitVec 8) (a : BitVec 8) (m : Mods)
  | fcvt (d : BitVec 8) (a : BitVec 8) (m : Mods)
  | hadd2 (d : BitVec 8) (a : BitVec 8) (b : BitVec 8) (m : Mods)
  | hmul2 (d : BitVec 8) (a : BitVec 8) (b : BitVec 8) (m : Mods)
  | hfma2 (d : BitVec 8) (a : BitVec 8) (b : BitVec 8) (m : Mods)
  | hcmp2Eq (c : BitVec 3) (q : BitVec 4) (a : BitVec 8) (b : BitVec 8) (m : Mods)
  | hcmp2Ne (c : BitVec 3) (q : BitVec 4) (a : BitVec 8) (b : BitVec 8) (m : Mods)
  | hcmp2Lt (c : BitVec 3) (q : BitVec 4) (a : BitVec 8) (b : BitVec 8) (m : Mods)
  | hcmp2Le (c : BitVec 3) (q : BitVec 4) (a : BitVec 8) (b : BitVec 8) (m : Mods)
  | hcmp2Gt (c : BitVec 3) (q : BitVec 4) (a : BitVec 8) (b : BitVec 8) (m : Mods)
  | hcmp2Ge (c : BitVec 3) (q : BitVec 4) (a : BitVec 8) (b : BitVec 8) (m : Mods)
  | bmm8 (d : BitVec 8) (a : BitVec 8) (b : BitVec 8) (m : Mods)
  | bmmor (d : BitVec 8) (a : BitVec 8) (b : BitVec 8) (m : Mods)
  | bsprd (d : BitVec 8) (a : BitVec 8) (b : BitVec 8) (m : Mods)
  | bgath (d : BitVec 8) (a : BitVec 8) (b : BitVec 8) (m : Mods)
  | bperm (d : BitVec 8) (a : BitVec 8) (t : BitVec 2) (m : Mods)
  | bpld (t : BitVec 2) (a : BitVec 8) (m : Mods)
  | uadd (d : BitVec 7) (a : BitVec 8) (b : BitVec 8) (m : Mods)
  | usub (d : BitVec 7) (a : BitVec 8) (b : BitVec 8) (m : Mods)
  | umul (d : BitVec 7) (a : BitVec 8) (b : BitVec 8) (m : Mods)
  | uand (d : BitVec 7) (a : BitVec 8) (b : BitVec 8) (m : Mods)
  | uor (d : BitVec 7) (a : BitVec 8) (b : BitVec 8) (m : Mods)
  | uxor (d : BitVec 7) (a : BitVec 8) (b : BitVec 8) (m : Mods)
  | ushl (d : BitVec 7) (a : BitVec 8) (b : BitVec 8) (m : Mods)
  | ushr (d : BitVec 7) (a : BitVec 8) (b : BitVec 8) (m : Mods)
  | umov (d : BitVec 7) (a : BitVec 8) (m : Mods)
  | umovi (d : BitVec 7) (i : BitVec 16) (m : Mods)
  | ucmpEq (c : BitVec 3) (q : BitVec 4) (a : BitVec 8) (b : BitVec 8) (m : Mods)
  | ucmpNe (c : BitVec 3) (q : BitVec 4) (a : BitVec 8) (b : BitVec 8) (m : Mods)
  | ucmpLt (c : BitVec 3) (q : BitVec 4) (a : BitVec 8) (b : BitVec 8) (m : Mods)
  | ucmpLe (c : BitVec 3) (q : BitVec 4) (a : BitVec 8) (b : BitVec 8) (m : Mods)
  | ucmpGt (c : BitVec 3) (q : BitVec 4) (a : BitVec 8) (b : BitVec 8) (m : Mods)
  | ucmpGe (c : BitVec 3) (q : BitVec 4) (a : BitVec 8) (b : BitVec 8) (m : Mods)
  | usel (d : BitVec 7) (a : BitVec 8) (b : BitVec 8) (m : Mods)
  | uld (d : BitVec 7) (a : BitVec 8) (b : BitVec 8) (m : Mods)
  | ust (d : BitVec 7) (a : BitVec 8) (b : BitVec 8) (m : Mods)
  | ld (d : BitVec 8) (a : BitVec 8) (b : BitVec 8) (m : Mods)
  | st (d : BitVec 7) (a : BitVec 8) (b : BitVec 8) (m : Mods)
  | ldt (d : BitVec 8) (a : BitVec 8) (b : BitVec 8) (m : Mods)
  | stt (d : BitVec 7) (a : BitVec 8) (b : BitVec 8) (m : Mods)
  | lds (d : BitVec 8) (a : BitVec 8) (b : BitVec 8) (m : Mods)
  | sts (d : BitVec 7) (a : BitVec 8) (b : BitVec 8) (m : Mods)
  | ldc (d : BitVec 8) (a : BitVec 8) (b : BitVec 8) (m : Mods)
  | stc (d : BitVec 7) (a : BitVec 8) (b : BitVec 8) (m : Mods)
  | cpy (d : BitVec 8) (a : BitVec 8) (b : BitVec 8) (m : Mods)
  | cpys (d : BitVec 8) (a : BitVec 8) (b : BitVec 8) (m : Mods)
  | batch (d : BitVec 7) (m : Mods)
  | waitb (a : BitVec 8) (m : Mods)
  | pref (d : BitVec 8) (a : BitVec 8) (b : BitVec 8) (m : Mods)
  | fence (m : Mods)
  | atom (d : BitVec 7) (a : BitVec 8) (b : BitVec 8) (m : Mods)
  | uatom (d : BitVec 7) (a : BitVec 8) (b : BitVec 8) (m : Mods)
  | wlpush (d : BitVec 7) (a : BitVec 8) (b : BitVec 8) (m : Mods)
  | wlpop (d : BitVec 7) (a : BitVec 8) (b : BitVec 8) (m : Mods)
  | wlins (d : BitVec 7) (a : BitVec 8) (b : BitVec 8) (m : Mods)
  | wlbind (d : BitVec 7) (a : BitVec 8) (b : BitVec 8) (m : Mods)
  | wlcnt (d : BitVec 7) (a : BitVec 8) (m : Mods)
  | bara (n : BitVec 4) (a : BitVec 8) (m : Mods)
  | barw (n : BitVec 4) (a : BitVec 8) (m : Mods)
  | baraw (n : BitVec 4) (a : BitVec 8) (m : Mods)
  | gath (d : BitVec 8) (a : BitVec 8) (b : BitVec 8) (m : Mods)
  | scat (d : BitVec 7) (a : BitVec 8) (b : BitVec 8) (m : Mods)
  | scatadd (d : BitVec 7) (a : BitVec 8) (b : BitVec 8) (m : Mods)
  | lgath (d : BitVec 8) (a : BitVec 8) (b : BitVec 8) (m : Mods)
  | lscat (d : BitVec 8) (a : BitVec 8) (b : BitVec 8) (m : Mods)
  | setshape (k : BitVec 5) (z : BitVec 3) (a : BitVec 8) (b : BitVec 8) (m : Mods)
  | getshape (d : BitVec 7) (z : BitVec 3) (s : BitVec 1) (m : Mods)
  | mma (z : BitVec 3) (t : BitVec 4) (a : BitVec 8) (b : BitVec 8) (m : Mods)
  | mmas (z : BitVec 3) (t : BitVec 4) (a : BitVec 8) (b : BitVec 8) (m : Mods)
  | mmabx (z : BitVec 3) (t : BitVec 4) (a : BitVec 8) (b : BitVec 8) (m : Mods)
  | scacc (z : BitVec 3) (t : BitVec 4) (p : BitVec 4) (m : Mods)
  | accz (t : BitVec 4) (m : Mods)
  | accld (z : BitVec 3) (t : BitVec 4) (a : BitVec 8) (f : BitVec 1) (m : Mods)
  | accst (z : BitVec 3) (t : BitVec 4) (a : BitVec 8) (f : BitVec 1) (m : Mods)
  | accrd (d : BitVec 7) (t : BitVec 4) (z : BitVec 3) (m : Mods)
  | gload (s : BitVec 3) (a : BitVec 8) (b : BitVec 8) (m : Mods)
  | gjob (d : BitVec 7) (a : BitVec 8) (b : BitVec 8) (m : Mods)
  | gstat (d : BitVec 7) (b : BitVec 8) (m : Mods)
  | lattach (d : BitVec 7) (a : BitVec 8) (b : BitVec 8) (m : Mods)
  | lfree (b : BitVec 8) (m : Mods)
  | gfold (d : BitVec 7) (b : BitVec 8) (m : Mods)
  | sysrd (d : BitVec 8) (a : BitVec 8) (m : Mods)
  | syswr (a : BitVec 8) (b : BitVec 8) (m : Mods)
  | rtrap (f : BitVec 2) (a : BitVec 8) (m : Mods)
  | rflt (m : Mods)
  | mapf (d : BitVec 7) (a : BitVec 8) (b : BitVec 8) (m : Mods)
  | tlbinv (f : BitVec 1) (a : BitVec 8) (m : Mods)
  | ctxsv (d : BitVec 7) (a : BitVec 8) (b : BitVec 8) (m : Mods)
  | ctxld (a : BitVec 8) (b : BitVec 8) (m : Mods)
  | park (c : BitVec 16) (m : Mods)
  | laneReplay (g : Nat)
  | entryBind (part res : Nat) (entry : Option (BitVec 512))
  | gateInstall (part handle : Nat) (gate : GateImage)
  | launchDequeue (launch : Nat)
  | signalWordRead (launch : Nat)
  | waitPollTimer (launch : Nat)
  | clusterSetPlace (launch cluster : Nat) (cores : List Nat)
  | preemptTimeout (g : Nat)
  | chairGroupStart (chair core : Nat)
  | chairTimerExpiry (chair : Nat)
  | completionAdd (launch : Nat)
  | engineRun (turn : EngineTurn)
  | copyTransfer (item : Nat)
  | listTransfer (item : Nat)
  | batchComplete (owner batch : Nat)
  | gatherPartServe (req home : Nat)
  | homeSliceAtomic (req : Nat)
  | channelRequest (req lane : Nat)
  | writeStreamGraph (req lane : Nat)
  | jobRowStep (item channel : Nat)
  | jobSuspend (item channel : Nat)
  | jobResume (item channel : Nat)
  | gloadCommit (item : Nat)
  | lattachFreeze (item : Nat)
  | lfreeRelease (item : Nat)
  | channelFailed (channel : Nat)
  | criticalTemperature (stack : Nat)
  | selfRefreshExit (stack : Nat)
  | refreshTakeover (stack : Nat)
  | onchipUncorrectable (part : Nat) (what : OnChip)
  | energySample (pkg : Nat) (r : EnergyReading) (w : List (Nat × Nat))
  | clockStepDown (watts : Nat)
  | clockStepUp (watts : Nat)
  | rateInject (req : Nat)
  | peerRequest (part va : Nat) (op : PeerOp)
  | apertureRead (fn off len : Nat)
  | apertureWrite (fn off : Nat) (bytes : List (BitVec 8))
  | bar0RegisterWrite (fn off : Nat) (value : BitVec 64)
  | load (h : Msg) (sigOk : Bool) (img : ModuleImage) (plan : LoadPlan)
  | unload (h : Msg) (modId : Nat)
  | moduleRetire (part modId : Nat)
  | map (h : Msg) (va pages : Nat) (w pin big : Bool) (frames : List Nat)
  | res (h : Msg) (index : Nat) (entry : BitVec 512)
  | queueCreate (h : Msg) (queue : Nat) (cls : BitVec 8)
  | queueDestroy (h : Msg) (queue : Nat) (cls : BitVec 8)
  | launchMessage (h : Msg) (queue : Nat) (lrec : BitVec 1024)
  | signal (h : Msg) (va : BitVec 64) (value : BitVec 32)
  | release (h : Msg) (lid : BitVec 64) (code : BitVec 16) (any : Bool)
  | key (h : Msg) (key : BitVec 768)
  | create (h : Msg) (sigOk : Bool) (body : BitVec 1984) (img : ModuleImage) (plan : CreatePlan)
  | resize (h : Msg) (part : Nat) (clusters slices : BitVec 128) (groups : BitVec 16) (lines : List Nat)
  | sliceLineMove (part va : Nat)
  | pageRestripe (part va : Nat)
  | destroy (h : Msg) (part : Nat)
  | ratio (h : Msg) (channels : BitVec 128) (code : Nat)
  | ratioQuiesceEnd (channel : Nat)
  | rate (h : Msg) (part limit : Nat)
  | peer (h : Msg) (part base size device peerPart : Nat)
  | power (h : Msg) (watts : Nat)
  | svn (h : Msg) (value : Nat)
  | mreset (h : Msg) (stack : Nat)
  | measurements (fn : Nat)
  | deviceReset (image : FirmwareImage)
  | bootRetry (image : FirmwareImage)
  | accessPerformed (req lane : Nat)
  | unlistedMessageType (h : Msg) (ty : BitVec 8)
  | spdmSession (fn : Nat)
  | matchingPeerMessage (part base : Nat)
  deriving DecidableEq, Repr

end Sys2Proof
end

