-- ==== Sys2Proof/Machine/Shape.lean ====
section
/-!
DEFINITION. The encoding table of the instructions with words: the byte fields of each word (R41, the tables of
each class chapter), and the shape of each instruction: what its D, A and B fields hold, the types it accepts,
the fields of `EXT` it uses, whether its guard is uniform, whether `REP` may step it.
-/
namespace Sys2Proof.Machine

/-- The class of an operand field A or B (R45, R201, R202 and the class tables). -/
inductive FieldClass where
  | unused        -- must be 0 (R44)
  | imm           -- part of an immediate
  | laneSrc       -- a source a lane instruction may name (R45)
  | laneReg       -- a lane register, 0x00-0x7F
  | uniSrc        -- a source a uniform instruction may name (R45)
  | slot          -- a uniform slot, 0xD0-0xFF
  | slotTo (max : BitVec 8)  -- a uniform slot, 0xD0 to max
  | constSlot     -- a constant or a uniform slot
  | laneOrSlot    -- a lane register or a uniform slot (R239)
  | fragOrSlot    -- a fragment or a uniform slot 0xD0-0xFE (R201, R202)
  | accLoc        -- the location slots of ACCLD and ACCST (R215)
  | table         -- a permutation table number, 0-3 (R187, R188)
  | sysReg        -- a system register number (R340)
  | rtrap         -- block operand of RTRAP form 2 (R355)
  | tlbinv        -- slot pair of TLBINV form 0 (R355)
  deriving DecidableEq, Repr

/-- The class of the field D. -/
inductive DestClass where
  | none          -- no destination, or fields of its own
  | lane          -- lane destination of R42
  | laneWb        -- lane destination whose NW must be 0 (R231)
  | lane7         -- a lane register in bits [6:0], bit 7 reserved
  | uni           -- uniform destination of R42
  | uniTo (max : Nat)        -- uniform destination up to slot max (R209)
  | pred          -- predicate destination of R43
  | upred         -- predicate destination of UCMP, q0-q7
  | hpred         -- predicate destination of HCMP2 (R175)
  | slotTo (max : BitVec 8)  -- a uniform slot code, 0xD0 to max
  | table         -- a permutation table number (R187)
  | tier          -- tier of PREF, 0-2 (R243)
  deriving DecidableEq, Repr

/-- When a field names a 64-bit pair (R46). -/
inductive Pairing where
  | never
  | always
  | byType        -- when the instruction's type is 64 bits wide
  | double        -- when the type is 32 bits wide (R144)
  | bySource      -- when the source type of FCVT is 64 bits wide
  | sysReg        -- when the system register named is 64 bits wide (R356)
  deriving DecidableEq, Repr

/-- Which rounding modes `RND` accepts. -/
inductive RoundUse where
  | none
  | any
  | floatOnly     -- a non-zero `RND` on an integer type is an illegal operand (R150)
  deriving DecidableEq, Repr

/-- The shape of one instruction. -/
structure Shape where
  d : DestClass
  dPair : Pairing
  a : FieldClass
  aPair : Pairing
  b : FieldClass
  bPair : Pairing
  types : List (BitVec 5)
  default : BitVec 5
  scopes : List (BitVec 3)
  vol : Bool
  rnd : RoundUse
  sat : Bool
  mods : List (BitVec 5)
  uniGuard : Bool
  selector : Bool
  deriving DecidableEq, Repr

/-- The integer types of R137. -/
def tyInt : List (BitVec 5) := [1, 2, 3, 4, 5, 6, 7, 8]
/-- The types of `ADDW` and `SUBW` (R138). -/
def tyNarrow : List (BitVec 5) := [1, 2, 3, 4, 5, 6]
/-- The types of `RGET` and `RPUT` (R138). -/
def tyWide : List (BitVec 5) := [5, 6, 7, 8]
/-- `.f32 .f16 .bf16`. -/
def tyFlt : List (BitVec 5) := [16, 17, 18]
/-- The types of the packed instructions (R170). -/
def tyHalf : List (BitVec 5) := [17, 18]
/-- Integer types with `.f32 .f16 .bf16`. -/
def tyIntF : List (BitVec 5) := [1, 2, 3, 4, 5, 6, 7, 8, 16, 17, 18]
/-- Every type of R55. -/
def tyAll : List (BitVec 5) := [1, 2, 3, 4, 5, 6, 7, 8, 9, 10, 16, 17, 18, 19, 20, 21, 22]
/-- The types of `ST` (R231). -/
def tyStore : List (BitVec 5) := [1, 2, 3, 4, 5, 6, 7, 8, 9, 10, 16, 17, 18, 19, 20]
/-- The types that some operation of `ATOM` accepts (R262). -/
def tyAtom : List (BitVec 5) := [5, 6, 7, 8, 16, 18]
/-- The 4-byte item types of `WLINS` (R278). -/
def ty4Byte : List (BitVec 5) := [5, 6, 16]
/-- The types of `GATH` (R290). -/
def tyGath : List (BitVec 5) := [1, 2, 3, 4, 5, 6, 7, 8, 16, 17, 18, 19, 20]
/-- The types of `SCATADD` (R290). -/
def tyScatadd : List (BitVec 5) := [5, 6, 7, 8, 16]
/-- The formats of R193. -/
def tyShape : List (BitVec 5) := [1, 2, 9, 10, 17, 18, 19, 20, 21, 22]
/-- The types of `MMA` and `MMAS` (R209). -/
def tyMma : List (BitVec 5) := [1, 2, 9, 10, 17, 18, 19, 20]
/-- The types of `ACCLD`, `ACCST` and `ACCRD` (R209). -/
def tyAcc : List (BitVec 5) := [5, 6, 16, 17, 18]
/-- The scopes of R53 other than the default. -/
def anyScope : List (BitVec 3) := [1, 2, 3, 4, 5]
/-- The modifiers of `ATOM` and `UATOM` (R56). -/
def atomMods : List (BitVec 5) :=
  [0, 1, 2, 3, 4, 5, 6, 7, 8, 9, 10, 16, 17, 18, 19, 20, 21, 22, 23, 24, 25, 26]

/-- A shape that names nothing: control instructions and the like. -/
def Shape.plain : Shape :=
  { d := .none, dPair := .never, a := .unused, aPair := .never, b := .unused, bPair := .never, types := [],
    default := 0, scopes := [], vol := false, rnd := .none, sat := false, mods := [0], uniGuard := false,
    selector := false }

/-- The shape of each instruction with words, from the encoding tables of its class chapter. -/
def shapeOf (i : Instr) : Shape :=
  match i with
  | .exit | .gend | .yield _ | .nop _ | .rflt _ =>
      Shape.plain
  | .br _ | .brc _ _ _ | .win _ _ | .brk _ _ | .trap _ _ | .park _ _ | .ill _ _ | .illFf _ _ | .str _ _ =>
      { Shape.plain with a := .imm, b := .imm }
  | .brx _ =>
      { Shape.plain with a := .laneSrc }
  | .brl _ _ _ =>
      { Shape.plain with d := .lane, a := .imm, b := .imm }
  | .winOperand _ _ =>
      { Shape.plain with b := .laneSrc }
  | .uwin _ _ =>
      { Shape.plain with a := .imm, b := .imm, uniGuard := true }
  | .uwinOperand _ _ =>
      { Shape.plain with b := .constSlot, uniGuard := true }
  | .launch _ _ _ _ =>
      { Shape.plain with d := .uni, a := .slot, b := .constSlot }
  | .add _ _ _ _ | .sub _ _ _ _ | .mul _ _ _ _ | .mad _ _ _ _ =>
      { Shape.plain with d := .lane, dPair := .byType, a := .laneSrc, aPair := .byType, b := .laneSrc, bPair := .byType, types := tyInt, default := 5, sat := true }
  | .mulh _ _ _ _ | .min _ _ _ _ | .max _ _ _ _ | .and _ _ _ _
  | .or _ _ _ _ | .xor _ _ _ _ | .andn _ _ _ _ =>
      { Shape.plain with d := .lane, dPair := .byType, a := .laneSrc, aPair := .byType, b := .laneSrc, bPair := .byType, types := tyInt, default := 5 }
  | .abs _ _ _ | .neg _ _ _ =>
      { Shape.plain with d := .lane, dPair := .byType, a := .laneSrc, aPair := .byType, types := tyInt, default := 5, sat := true }
  | .not _ _ _ | .brev _ _ _ =>
      { Shape.plain with d := .lane, dPair := .byType, a := .laneSrc, aPair := .byType, types := tyInt, default := 5 }
  | .shl _ _ _ _ | .shr _ _ _ _ | .sar _ _ _ _ | .rot _ _ _ _ =>
      { Shape.plain with d := .lane, dPair := .byType, a := .laneSrc, aPair := .byType, b := .laneSrc, types := tyInt, default := 5 }
  | .clz _ _ _ | .popc _ _ _ | .vconf _ _ _ =>
      { Shape.plain with d := .lane, a := .laneSrc, aPair := .byType, types := tyInt, default := 5 }
  | .addw _ _ _ _ | .subw _ _ _ _ =>
      { Shape.plain with d := .lane, dPair := .double, a := .laneSrc, aPair := .byType, b := .laneSrc, bPair := .byType, types := tyNarrow, default := 5 }
  | .mov _ _ _ | .redmin _ _ _ | .redmax _ _ _ =>
      { Shape.plain with d := .lane, dPair := .byType, a := .laneSrc, aPair := .byType, types := tyIntF, default := 5 }
  | .movi _ _ _ =>
      { Shape.plain with d := .lane, dPair := .byType, a := .imm, b := .imm, types := tyIntF, default := 5 }
  | .sel _ _ _ _ =>
      { Shape.plain with d := .lane, dPair := .byType, a := .laneSrc, aPair := .byType, b := .laneSrc, bPair := .byType, types := tyIntF, default := 5, selector := true }
  | .icmpEq _ _ _ _ _ | .icmpNe _ _ _ _ _ | .icmpLt _ _ _ _ _ | .icmpLe _ _ _ _ _
  | .icmpGt _ _ _ _ _ | .icmpGe _ _ _ _ _ =>
      { Shape.plain with d := .pred, a := .laneSrc, aPair := .byType, b := .laneSrc, bPair := .byType, types := tyInt, default := 5 }
  | .rget _ _ _ =>
      { Shape.plain with d := .lane, dPair := .byType, a := .uniSrc, types := tyWide, default := 5 }
  | .rput _ _ _ =>
      { Shape.plain with a := .uniSrc, b := .laneSrc, bPair := .byType, types := tyWide, default := 5 }
  | .shfl _ _ _ _ | .shflx _ _ _ _ | .shfld _ _ _ _ | .shfln _ _ _ _
  | .rdlane _ _ _ _ =>
      { Shape.plain with d := .lane, dPair := .byType, a := .laneReg, aPair := .byType, b := .laneSrc, types := tyIntF, default := 5 }
  | .vote _ _ _ =>
      { Shape.plain with d := .lane, a := .laneSrc, aPair := .byType, types := tyInt, default := 5, mods := [0, 1, 2] }
  | .redadd _ _ _ | .scanadd _ _ _ =>
      { Shape.plain with d := .lane, dPair := .byType, a := .laneSrc, aPair := .byType, types := tyIntF, default := 5, rnd := .floatOnly, sat := true }
  | .sample _ _ _ _ =>
      { Shape.plain with d := .lane, a := .laneSrc, aPair := .byType, b := .laneSrc, bPair := .byType, types := [16, 6], default := 5, rnd := .floatOnly }
  | .segsum _ _ _ _ =>
      { Shape.plain with d := .lane, dPair := .byType, a := .laneSrc, aPair := .byType, b := .laneSrc, types := tyIntF, default := 5, rnd := .floatOnly, sat := true }
  | .fadd _ _ _ _ | .fsub _ _ _ _ | .fmul _ _ _ _ | .ffma _ _ _ _ =>
      { Shape.plain with d := .lane, dPair := .byType, a := .laneSrc, aPair := .byType, b := .laneSrc, bPair := .byType, types := tyFlt, default := 16, rnd := .any, sat := true }
  | .fmin _ _ _ _ | .fmax _ _ _ _ =>
      { Shape.plain with d := .lane, dPair := .byType, a := .laneSrc, aPair := .byType, b := .laneSrc, bPair := .byType, types := tyFlt, default := 16 }
  | .fabs _ _ _ | .fneg _ _ _ =>
      { Shape.plain with d := .lane, dPair := .byType, a := .laneSrc, aPair := .byType, types := tyFlt, default := 16 }
  | .fcmpEq _ _ _ _ _ | .fcmpNe _ _ _ _ _ | .fcmpLt _ _ _ _ _ | .fcmpLe _ _ _ _ _
  | .fcmpGt _ _ _ _ _ | .fcmpGe _ _ _ _ _ =>
      { Shape.plain with d := .pred, a := .laneSrc, aPair := .byType, b := .laneSrc, bPair := .byType, types := tyFlt, default := 16 }
  | .frcp _ _ _ | .fsqrt _ _ _ =>
      { Shape.plain with d := .lane, dPair := .byType, a := .laneSrc, aPair := .byType, types := tyFlt, default := 16, rnd := .any, sat := true }
  | .frsq _ _ _ | .fexp2 _ _ _ | .flog2 _ _ _ | .fsin _ _ _
  | .fcos _ _ _ | .ftanh _ _ _ =>
      { Shape.plain with d := .lane, dPair := .byType, a := .laneSrc, aPair := .byType, types := tyFlt, default := 16, sat := true }
  | .fcvt _ _ _ =>
      { Shape.plain with d := .lane, dPair := .byType, a := .laneSrc, aPair := .bySource, types := tyAll, default := 16, rnd := .any, sat := true, mods := 0 :: tyAll }
  | .hadd2 _ _ _ _ | .hmul2 _ _ _ _ | .hfma2 _ _ _ _ =>
      { Shape.plain with d := .lane, dPair := .byType, a := .laneSrc, aPair := .byType, b := .laneSrc, bPair := .byType, types := tyHalf, default := 17, rnd := .any, sat := true }
  | .hcmp2Eq _ _ _ _ _ | .hcmp2Ne _ _ _ _ _ | .hcmp2Lt _ _ _ _ _ | .hcmp2Le _ _ _ _ _
  | .hcmp2Gt _ _ _ _ _ | .hcmp2Ge _ _ _ _ _ =>
      { Shape.plain with d := .hpred, a := .laneSrc, aPair := .byType, b := .laneSrc, bPair := .byType, types := tyHalf, default := 17 }
  | .bmm8 _ _ _ _ | .bmmor _ _ _ _ =>
      { Shape.plain with d := .lane, dPair := .always, a := .laneSrc, aPair := .always, b := .laneSrc, bPair := .always }
  | .bsprd _ _ _ _ | .bgath _ _ _ _ =>
      { Shape.plain with d := .lane, a := .laneSrc, b := .laneSrc }
  | .bperm _ _ _ _ =>
      { Shape.plain with d := .lane, dPair := .always, a := .laneSrc, aPair := .always, b := .table }
  | .bpld _ _ _ =>
      { Shape.plain with d := .table, a := .slotTo 0xF4, uniGuard := true }
  | .uadd _ _ _ _ | .usub _ _ _ _ | .umul _ _ _ _ =>
      { Shape.plain with d := .uni, dPair := .byType, a := .uniSrc, aPair := .byType, b := .uniSrc, bPair := .byType, types := tyInt, default := 5, sat := true, uniGuard := true }
  | .uand _ _ _ _ | .uor _ _ _ _ | .uxor _ _ _ _ =>
      { Shape.plain with d := .uni, dPair := .byType, a := .uniSrc, aPair := .byType, b := .uniSrc, bPair := .byType, types := tyInt, default := 5, uniGuard := true }
  | .ushl _ _ _ _ | .ushr _ _ _ _ =>
      { Shape.plain with d := .uni, dPair := .byType, a := .uniSrc, aPair := .byType, b := .uniSrc, types := tyInt, default := 5, uniGuard := true }
  | .umov _ _ _ =>
      { Shape.plain with d := .uni, dPair := .byType, a := .uniSrc, aPair := .byType, types := tyIntF, default := 5, uniGuard := true }
  | .umovi _ _ _ =>
      { Shape.plain with d := .uni, dPair := .byType, a := .imm, b := .imm, types := tyIntF, default := 5, uniGuard := true }
  | .ucmpEq _ _ _ _ _ | .ucmpNe _ _ _ _ _ | .ucmpLt _ _ _ _ _ | .ucmpLe _ _ _ _ _
  | .ucmpGt _ _ _ _ _ | .ucmpGe _ _ _ _ _ =>
      { Shape.plain with d := .upred, a := .uniSrc, aPair := .byType, b := .uniSrc, bPair := .byType, types := tyInt, default := 5, uniGuard := true }
  | .usel _ _ _ _ =>
      { Shape.plain with d := .uni, dPair := .byType, a := .uniSrc, aPair := .byType, b := .uniSrc, bPair := .byType, types := tyIntF, default := 5, uniGuard := true, selector := true }
  | .uld _ _ _ _ | .ust _ _ _ _ =>
      { Shape.plain with d := .uni, dPair := .byType, a := .uniSrc, b := .slot, types := tyIntF, default := 6, scopes := anyScope, vol := true, mods := [0, 1], uniGuard := true }
  | .ld _ _ _ _ =>
      { Shape.plain with d := .laneWb, dPair := .byType, a := .laneSrc, b := .slot, types := tyAll, default := 6, scopes := anyScope, vol := true, mods := [0, 1] }
  | .st _ _ _ _ =>
      { Shape.plain with d := .lane7, dPair := .byType, a := .laneSrc, b := .slot, types := tyStore, default := 6, scopes := anyScope, vol := true, mods := [0, 1] }
  | .ldt _ _ _ _ =>
      { Shape.plain with d := .laneWb, dPair := .byType, a := .laneReg, b := .slot, types := tyAll, default := 6, scopes := anyScope, vol := true, mods := [0, 1] }
  | .stt _ _ _ _ =>
      { Shape.plain with d := .lane7, dPair := .byType, a := .laneReg, b := .slot, types := tyStore, default := 6, scopes := anyScope, vol := true, mods := [0, 1] }
  | .lds _ _ _ _ | .ldc _ _ _ _ =>
      { Shape.plain with d := .laneWb, dPair := .byType, a := .laneSrc, b := .slot, types := tyStore, default := 6, vol := true }
  | .sts _ _ _ _ | .stc _ _ _ _ =>
      { Shape.plain with d := .lane7, dPair := .byType, a := .laneSrc, b := .slot, types := tyStore, default := 6, vol := true }
  | .cpy _ _ _ _ | .cpys _ _ _ _ =>
      { Shape.plain with d := .slotTo 0xFD, a := .laneOrSlot, b := .slot, scopes := anyScope }
  | .batch _ _ =>
      { Shape.plain with d := .uni, uniGuard := true }
  | .waitb _ _ =>
      { Shape.plain with a := .constSlot, uniGuard := true }
  | .pref _ _ _ _ =>
      { Shape.plain with d := .tier, a := .laneSrc, b := .slot }
  | .fence _ =>
      { Shape.plain with scopes := anyScope }
  | .atom _ _ _ _ =>
      { Shape.plain with d := .lane7, dPair := .byType, a := .laneSrc, b := .slot, types := tyAtom, default := 6, scopes := anyScope, mods := atomMods }
  | .uatom _ _ _ _ =>
      { Shape.plain with d := .uni, dPair := .byType, a := .uniSrc, b := .slot, types := tyAtom, default := 6, scopes := anyScope, mods := atomMods, uniGuard := true }
  | .wlpush _ _ _ _ | .wlpop _ _ _ _ =>
      { Shape.plain with d := .lane7, dPair := .byType, a := .slot, b := .slot, types := tyAll, default := 6, scopes := anyScope }
  | .wlins _ _ _ _ =>
      { Shape.plain with d := .lane7, dPair := .byType, a := .slot, b := .slot, types := ty4Byte, default := 6, scopes := anyScope }
  | .wlbind _ _ _ _ =>
      { Shape.plain with d := .uni, a := .slotTo 0xFC, b := .slot, uniGuard := true }
  | .wlcnt _ _ _ =>
      { Shape.plain with d := .uni, a := .slot, uniGuard := true }
  | .bara _ _ _ | .barw _ _ _ | .baraw _ _ _ =>
      { Shape.plain with a := .constSlot, scopes := [1, 2], uniGuard := true }
  | .gath _ _ _ _ =>
      { Shape.plain with d := .laneWb, dPair := .byType, a := .laneSrc, b := .slot, types := tyGath, default := 6, scopes := [3, 4, 5] }
  | .scat _ _ _ _ =>
      { Shape.plain with d := .lane7, dPair := .byType, a := .laneSrc, b := .slot, types := tyGath, default := 6, scopes := [3, 4, 5] }
  | .scatadd _ _ _ _ =>
      { Shape.plain with d := .lane7, dPair := .byType, a := .laneSrc, b := .slot, types := tyScatadd, default := 6, scopes := [3, 4, 5] }
  | .lgath _ _ _ _ | .lscat _ _ _ _ =>
      { Shape.plain with d := .slotTo 0xFC, a := .slot, b := .slot, types := tyGath, default := 6, scopes := [3, 4, 5] }
  | .setshape _ _ _ _ _ =>
      { Shape.plain with a := .uniSrc, b := .uniSrc, types := tyShape, default := 18, uniGuard := true }
  | .getshape _ _ _ _ =>
      { Shape.plain with d := .uniTo 45, a := .imm, b := .imm, types := [18], default := 18, uniGuard := true }
  | .mma _ _ _ _ _ | .mmas _ _ _ _ _ =>
      { Shape.plain with a := .fragOrSlot, b := .fragOrSlot, types := tyMma, default := 18, uniGuard := true }
  | .mmabx _ _ _ _ _ =>
      { Shape.plain with a := .fragOrSlot, b := .fragOrSlot, types := [21, 22], default := 21, uniGuard := true }
  | .scacc _ _ _ _ | .accz _ _ =>
      { Shape.plain with a := .imm, types := [16], default := 16, uniGuard := true }
  | .accld _ _ _ _ _ =>
      { Shape.plain with a := .accLoc, b := .imm, types := tyAcc, default := 16, scopes := anyScope, uniGuard := true }
  | .accst _ _ _ _ _ =>
      { Shape.plain with a := .accLoc, b := .imm, types := tyAcc, default := 16, scopes := anyScope, rnd := .any, sat := true, uniGuard := true }
  | .accrd _ _ _ _ =>
      { Shape.plain with d := .lane7, a := .imm, b := .imm, types := tyAcc, default := 16, rnd := .any, sat := true, uniGuard := true }
  | .gload _ _ _ _ =>
      { Shape.plain with a := .constSlot, b := .slot, uniGuard := true }
  | .gjob _ _ _ _ =>
      { Shape.plain with d := .uni, a := .constSlot, b := .slot, uniGuard := true }
  | .gstat _ _ _ | .gfold _ _ _ =>
      { Shape.plain with d := .uni, b := .slot, uniGuard := true }
  | .lattach _ _ _ _ =>
      { Shape.plain with d := .uni, a := .slotTo 0xFE, b := .slot, uniGuard := true }
  | .lfree _ _ =>
      { Shape.plain with b := .slot, uniGuard := true }
  | .sysrd _ _ _ =>
      { Shape.plain with d := .lane, dPair := .sysReg, a := .sysReg }
  | .syswr _ _ _ =>
      { Shape.plain with a := .sysReg, b := .laneSrc, bPair := .sysReg }
  | .rtrap _ _ _ =>
      { Shape.plain with a := .rtrap }
  | .mapf _ _ _ _ =>
      { Shape.plain with d := .lane7, a := .laneReg, aPair := .always, b := .slot }
  | .tlbinv _ _ _ =>
      { Shape.plain with a := .tlbinv }
  | .ctxsv _ _ _ _ =>
      { Shape.plain with d := .uni, a := .slot, b := .slot }
  | .ctxld _ _ _ =>
      { Shape.plain with a := .slot, b := .slot }
  | _ => Shape.plain

/-- The four byte fields of an instruction word (R41). -/
structure Parts where
  op : BitVec 8
  d : BitVec 8
  a : BitVec 8
  b : BitVec 8
  deriving DecidableEq, Repr

/-- The byte fields of each instruction's word, from the encoding tables. A step of another agent has none. -/
def partsOf (i : Instr) : Parts :=
  match i with
  | .br t => { op := 0x01, d := 0, a := 0, b := 0#2 ++ t }
  | .brc p a b => { op := 0x02, d := 0#4 ++ p, a := 0#2 ++ a, b := 0#2 ++ b }
  | .brx a => { op := 0x03, d := 0, a := a, b := 0 }
  | .brl d a b => { op := 0x04, d := d, a := 0#2 ++ a, b := 0#2 ++ b }
  | .exit => { op := 0x05, d := 0, a := 0, b := 0 }
  | .gend => { op := 0x06, d := 0, a := 0, b := 0 }
  | .yield _ => { op := 0x07, d := 0, a := 0, b := 0 }
  | .nop _ => { op := 0x08, d := 0, a := 0, b := 0 }
  | .win i _ => { op := 0x09, d := 0, a := i.extractLsb' 8 8, b := i.extractLsb' 0 8 }
  | .winOperand a _ => { op := 0x09, d := 1, a := 0, b := a }
  | .uwin i _ => { op := 0x0A, d := 0, a := i.extractLsb' 8 8, b := i.extractLsb' 0 8 }
  | .uwinOperand a _ => { op := 0x0A, d := 1, a := 0, b := a }
  | .brk c _ => { op := 0x0B, d := 0, a := c.extractLsb' 8 8, b := c.extractLsb' 0 8 }
  | .trap c _ => { op := 0x0C, d := 0, a := c.extractLsb' 8 8, b := c.extractLsb' 0 8 }
  | .launch d a b _ => { op := 0x0D, d := 0#1 ++ d, a := a, b := b }
  | .ill _ i => { op := 0x00, d := i.extractLsb' 16 8, a := i.extractLsb' 8 8, b := i.extractLsb' 0 8 }
  | .illFf _ i => { op := 0xFF, d := i.extractLsb' 16 8, a := i.extractLsb' 8 8, b := i.extractLsb' 0 8 }
  | .str b l => { op := 0xFB, d := b ++ l.extractLsb' 4 2, a := l.extractLsb' 0 4 ++ 0#4, b := 0 }
  | .add d a b _ => { op := 0x10, d := d, a := a, b := b }
  | .sub d a b _ => { op := 0x11, d := d, a := a, b := b }
  | .mul d a b _ => { op := 0x12, d := d, a := a, b := b }
  | .mulh d a b _ => { op := 0x13, d := d, a := a, b := b }
  | .mad d a b _ => { op := 0x14, d := d, a := a, b := b }
  | .min d a b _ => { op := 0x15, d := d, a := a, b := b }
  | .max d a b _ => { op := 0x16, d := d, a := a, b := b }
  | .abs d a _ => { op := 0x17, d := d, a := a, b := 0 }
  | .neg d a _ => { op := 0x18, d := d, a := a, b := 0 }
  | .and d a b _ => { op := 0x19, d := d, a := a, b := b }
  | .or d a b _ => { op := 0x1A, d := d, a := a, b := b }
  | .xor d a b _ => { op := 0x1B, d := d, a := a, b := b }
  | .andn d a b _ => { op := 0x1C, d := d, a := a, b := b }
  | .not d a _ => { op := 0x1D, d := d, a := a, b := 0 }
  | .shl d a b _ => { op := 0x1E, d := d, a := a, b := b }
  | .shr d a b _ => { op := 0x1F, d := d, a := a, b := b }
  | .sar d a b _ => { op := 0x20, d := d, a := a, b := b }
  | .rot d a b _ => { op := 0x21, d := d, a := a, b := b }
  | .clz d a _ => { op := 0x22, d := d, a := a, b := 0 }
  | .popc d a _ => { op := 0x23, d := d, a := a, b := 0 }
  | .brev d a _ => { op := 0x24, d := d, a := a, b := 0 }
  | .addw d a b _ => { op := 0x25, d := d, a := a, b := b }
  | .subw d a b _ => { op := 0x26, d := d, a := a, b := b }
  | .mov d a _ => { op := 0x27, d := d, a := a, b := 0 }
  | .movi d i _ => { op := 0x28, d := d, a := i.extractLsb' 8 8, b := i.extractLsb' 0 8 }
  | .sel d a b _ => { op := 0x29, d := d, a := a, b := b }
  | .icmpEq c q a b _ => { op := 0x2A, d := c ++ 0#1 ++ q, a := a, b := b }
  | .icmpNe c q a b _ => { op := 0x2B, d := c ++ 0#1 ++ q, a := a, b := b }
  | .icmpLt c q a b _ => { op := 0x2C, d := c ++ 0#1 ++ q, a := a, b := b }
  | .icmpLe c q a b _ => { op := 0x2D, d := c ++ 0#1 ++ q, a := a, b := b }
  | .icmpGt c q a b _ => { op := 0x2E, d := c ++ 0#1 ++ q, a := a, b := b }
  | .icmpGe c q a b _ => { op := 0x2F, d := c ++ 0#1 ++ q, a := a, b := b }
  | .rget d a _ => { op := 0x30, d := d, a := a, b := 0 }
  | .rput a b _ => { op := 0x31, d := 0, a := a, b := b }
  | .shfl d a b _ => { op := 0x32, d := d, a := a, b := b }
  | .shflx d a b _ => { op := 0x33, d := d, a := a, b := b }
  | .shfld d a b _ => { op := 0x34, d := d, a := a, b := b }
  | .shfln d a b _ => { op := 0x35, d := d, a := a, b := b }
  | .vote d a _ => { op := 0x36, d := d, a := a, b := 0 }
  | .redadd d a _ => { op := 0x37, d := d, a := a, b := 0 }
  | .redmin d a _ => { op := 0x38, d := d, a := a, b := 0 }
  | .redmax d a _ => { op := 0x39, d := d, a := a, b := 0 }
  | .scanadd d a _ => { op := 0x3A, d := d, a := a, b := 0 }
  | .rdlane d a b _ => { op := 0x3B, d := d, a := a, b := b }
  | .sample d a b _ => { op := 0x3C, d := d, a := a, b := b }
  | .vconf d a _ => { op := 0x3D, d := d, a := a, b := 0 }
  | .segsum d a b _ => { op := 0x3E, d := d, a := a, b := b }
  | .fadd d a b _ => { op := 0x40, d := d, a := a, b := b }
  | .fsub d a b _ => { op := 0x41, d := d, a := a, b := b }
  | .fmul d a b _ => { op := 0x42, d := d, a := a, b := b }
  | .ffma d a b _ => { op := 0x43, d := d, a := a, b := b }
  | .fmin d a b _ => { op := 0x44, d := d, a := a, b := b }
  | .fmax d a b _ => { op := 0x45, d := d, a := a, b := b }
  | .fabs d a _ => { op := 0x46, d := d, a := a, b := 0 }
  | .fneg d a _ => { op := 0x47, d := d, a := a, b := 0 }
  | .fcmpEq c q a b _ => { op := 0x48, d := c ++ 0#1 ++ q, a := a, b := b }
  | .fcmpNe c q a b _ => { op := 0x49, d := c ++ 0#1 ++ q, a := a, b := b }
  | .fcmpLt c q a b _ => { op := 0x4A, d := c ++ 0#1 ++ q, a := a, b := b }
  | .fcmpLe c q a b _ => { op := 0x4B, d := c ++ 0#1 ++ q, a := a, b := b }
  | .fcmpGt c q a b _ => { op := 0x4C, d := c ++ 0#1 ++ q, a := a, b := b }
  | .fcmpGe c q a b _ => { op := 0x4D, d := c ++ 0#1 ++ q, a := a, b := b }
  | .frcp d a _ => { op := 0x4E, d := d, a := a, b := 0 }
  | .frsq d a _ => { op := 0x4F, d := d, a := a, b := 0 }
  | .fsqrt d a _ => { op := 0x50, d := d, a := a, b := 0 }
  | .fexp2 d a _ => { op := 0x51, d := d, a := a, b := 0 }
  | .flog2 d a _ => { op := 0x52, d := d, a := a, b := 0 }
  | .fsin d a _ => { op := 0x53, d := d, a := a, b := 0 }
  | .fcos d a _ => { op := 0x54, d := d, a := a, b := 0 }
  | .ftanh d a _ => { op := 0x55, d := d, a := a, b := 0 }
  | .fcvt d a _ => { op := 0x56, d := d, a := a, b := 0 }
  | .hadd2 d a b _ => { op := 0x57, d := d, a := a, b := b }
  | .hmul2 d a b _ => { op := 0x58, d := d, a := a, b := b }
  | .hfma2 d a b _ => { op := 0x59, d := d, a := a, b := b }
  | .hcmp2Eq c q a b _ => { op := 0x5A, d := c ++ 0#1 ++ q, a := a, b := b }
  | .hcmp2Ne c q a b _ => { op := 0x5B, d := c ++ 0#1 ++ q, a := a, b := b }
  | .hcmp2Lt c q a b _ => { op := 0x5C, d := c ++ 0#1 ++ q, a := a, b := b }
  | .hcmp2Le c q a b _ => { op := 0x5D, d := c ++ 0#1 ++ q, a := a, b := b }
  | .hcmp2Gt c q a b _ => { op := 0x5E, d := c ++ 0#1 ++ q, a := a, b := b }
  | .hcmp2Ge c q a b _ => { op := 0x5F, d := c ++ 0#1 ++ q, a := a, b := b }
  | .bmm8 d a b _ => { op := 0x60, d := d, a := a, b := b }
  | .bmmor d a b _ => { op := 0x61, d := d, a := a, b := b }
  | .bsprd d a b _ => { op := 0x62, d := d, a := a, b := b }
  | .bgath d a b _ => { op := 0x63, d := d, a := a, b := b }
  | .bperm d a t _ => { op := 0x64, d := d, a := a, b := 0#6 ++ t }
  | .bpld t a _ => { op := 0x65, d := 0#6 ++ t, a := a, b := 0 }
  | .uadd d a b _ => { op := 0x80, d := 0#1 ++ d, a := a, b := b }
  | .usub d a b _ => { op := 0x81, d := 0#1 ++ d, a := a, b := b }
  | .umul d a b _ => { op := 0x82, d := 0#1 ++ d, a := a, b := b }
  | .uand d a b _ => { op := 0x83, d := 0#1 ++ d, a := a, b := b }
  | .uor d a b _ => { op := 0x84, d := 0#1 ++ d, a := a, b := b }
  | .uxor d a b _ => { op := 0x85, d := 0#1 ++ d, a := a, b := b }
  | .ushl d a b _ => { op := 0x86, d := 0#1 ++ d, a := a, b := b }
  | .ushr d a b _ => { op := 0x87, d := 0#1 ++ d, a := a, b := b }
  | .umov d a _ => { op := 0x88, d := 0#1 ++ d, a := a, b := 0 }
  | .umovi d i _ => { op := 0x89, d := 0#1 ++ d, a := i.extractLsb' 8 8, b := i.extractLsb' 0 8 }
  | .ucmpEq c q a b _ => { op := 0x8A, d := c ++ 0#1 ++ q, a := a, b := b }
  | .ucmpNe c q a b _ => { op := 0x8B, d := c ++ 0#1 ++ q, a := a, b := b }
  | .ucmpLt c q a b _ => { op := 0x8C, d := c ++ 0#1 ++ q, a := a, b := b }
  | .ucmpLe c q a b _ => { op := 0x8D, d := c ++ 0#1 ++ q, a := a, b := b }
  | .ucmpGt c q a b _ => { op := 0x8E, d := c ++ 0#1 ++ q, a := a, b := b }
  | .ucmpGe c q a b _ => { op := 0x8F, d := c ++ 0#1 ++ q, a := a, b := b }
  | .usel d a b _ => { op := 0x90, d := 0#1 ++ d, a := a, b := b }
  | .uld d a b _ => { op := 0x91, d := 0#1 ++ d, a := a, b := b }
  | .ust d a b _ => { op := 0x92, d := 0#1 ++ d, a := a, b := b }
  | .ld d a b _ => { op := 0xA0, d := d, a := a, b := b }
  | .st d a b _ => { op := 0xA1, d := 0#1 ++ d, a := a, b := b }
  | .ldt d a b _ => { op := 0xA2, d := d, a := a, b := b }
  | .stt d a b _ => { op := 0xA3, d := 0#1 ++ d, a := a, b := b }
  | .lds d a b _ => { op := 0xA4, d := d, a := a, b := b }
  | .sts d a b _ => { op := 0xA5, d := 0#1 ++ d, a := a, b := b }
  | .ldc d a b _ => { op := 0xA6, d := d, a := a, b := b }
  | .stc d a b _ => { op := 0xA7, d := 0#1 ++ d, a := a, b := b }
  | .cpy d a b _ => { op := 0xA8, d := d, a := a, b := b }
  | .cpys d a b _ => { op := 0xA9, d := d, a := a, b := b }
  | .batch d _ => { op := 0xAA, d := 0#1 ++ d, a := 0, b := 0 }
  | .waitb a _ => { op := 0xAB, d := 0, a := a, b := 0 }
  | .pref d a b _ => { op := 0xAC, d := d, a := a, b := b }
  | .fence _ => { op := 0xAD, d := 0, a := 0, b := 0 }
  | .atom d a b _ => { op := 0xAE, d := 0#1 ++ d, a := a, b := b }
  | .uatom d a b _ => { op := 0xAF, d := 0#1 ++ d, a := a, b := b }
  | .wlpush d a b _ => { op := 0xB8, d := 0#1 ++ d, a := a, b := b }
  | .wlpop d a b _ => { op := 0xB9, d := 0#1 ++ d, a := a, b := b }
  | .wlins d a b _ => { op := 0xBA, d := 0#1 ++ d, a := a, b := b }
  | .wlbind d a b _ => { op := 0xBB, d := 0#1 ++ d, a := a, b := b }
  | .wlcnt d a _ => { op := 0xBC, d := 0#1 ++ d, a := a, b := 0 }
  | .bara n a _ => { op := 0xBD, d := 0#4 ++ n, a := a, b := 0 }
  | .barw n a _ => { op := 0xBE, d := 0#4 ++ n, a := a, b := 0 }
  | .baraw n a _ => { op := 0xBF, d := 0#4 ++ n, a := a, b := 0 }
  | .gath d a b _ => { op := 0xC0, d := d, a := a, b := b }
  | .scat d a b _ => { op := 0xC1, d := 0#1 ++ d, a := a, b := b }
  | .scatadd d a b _ => { op := 0xC2, d := 0#1 ++ d, a := a, b := b }
  | .lgath d a b _ => { op := 0xC3, d := d, a := a, b := b }
  | .lscat d a b _ => { op := 0xC4, d := d, a := a, b := b }
  | .setshape k z a b _ => { op := 0xC6, d := k ++ z, a := a, b := b }
  | .getshape d z s _ => { op := 0xC7, d := 0#1 ++ d, a := 0#5 ++ z, b := 0#7 ++ s }
  | .mma z t a b _ => { op := 0xC8, d := 0#1 ++ z ++ t, a := a, b := b }
  | .mmas z t a b _ => { op := 0xC9, d := 0#1 ++ z ++ t, a := a, b := b }
  | .mmabx z t a b _ => { op := 0xCA, d := 0#1 ++ z ++ t, a := a, b := b }
  | .scacc z t p _ => { op := 0xCB, d := 0#1 ++ z ++ t, a := 0#4 ++ p, b := 0 }
  | .accz t _ => { op := 0xCC, d := 0#4 ++ t, a := 0, b := 0 }
  | .accld z t a f _ => { op := 0xCD, d := 0#1 ++ z ++ t, a := a, b := 0#7 ++ f }
  | .accst z t a f _ => { op := 0xCE, d := 0#1 ++ z ++ t, a := a, b := 0#7 ++ f }
  | .accrd d t z _ => { op := 0xCF, d := 0#1 ++ d, a := 0#4 ++ t, b := 0#5 ++ z }
  | .gload s a b _ => { op := 0xD0, d := 0#5 ++ s, a := a, b := b }
  | .gjob d a b _ => { op := 0xD1, d := 0#1 ++ d, a := a, b := b }
  | .gstat d b _ => { op := 0xD2, d := 0#1 ++ d, a := 0, b := b }
  | .lattach d a b _ => { op := 0xD3, d := 0#1 ++ d, a := a, b := b }
  | .lfree b _ => { op := 0xD4, d := 0, a := 0, b := b }
  | .gfold d b _ => { op := 0xD5, d := 0#1 ++ d, a := 0, b := b }
  | .sysrd d a _ => { op := 0xD8, d := d, a := a, b := 0 }
  | .syswr a b _ => { op := 0xD9, d := 0, a := a, b := b }
  | .rtrap f a _ => { op := 0xDA, d := 0#6 ++ f, a := a, b := 0 }
  | .rflt _ => { op := 0xDB, d := 0, a := 0, b := 0 }
  | .mapf d a b _ => { op := 0xDC, d := 0#1 ++ d, a := a, b := b }
  | .tlbinv f a _ => { op := 0xDD, d := 0#7 ++ f, a := a, b := 0 }
  | .ctxsv d a b _ => { op := 0xDE, d := 0#1 ++ d, a := a, b := b }
  | .ctxld a b _ => { op := 0xDF, d := 0, a := a, b := b }
  | .park c _ => { op := 0xE0, d := 0, a := c.extractLsb' 8 8, b := c.extractLsb' 0 8 }
  | .unassignedOpcode _ w => { op := w.extractLsb' 24 8, d := w.extractLsb' 16 8, a := w.extractLsb' 8 8, b := w.extractLsb' 0 8 }
  | _ => { op := 0, d := 0, a := 0, b := 0 }

/-- The prefix words of an instruction (R50). -/
def modsOf (i : Instr) : Mods :=
  match i with
  | .yield m | .nop m | .win _ m | .winOperand _ m
  | .uwin _ m | .uwinOperand _ m | .brk _ m | .trap _ m
  | .launch _ _ _ m | .add _ _ _ m | .sub _ _ _ m | .mul _ _ _ m
  | .mulh _ _ _ m | .mad _ _ _ m | .min _ _ _ m | .max _ _ _ m
  | .abs _ _ m | .neg _ _ m | .and _ _ _ m | .or _ _ _ m
  | .xor _ _ _ m | .andn _ _ _ m | .not _ _ m | .shl _ _ _ m
  | .shr _ _ _ m | .sar _ _ _ m | .rot _ _ _ m | .clz _ _ m
  | .popc _ _ m | .brev _ _ m | .addw _ _ _ m | .subw _ _ _ m
  | .mov _ _ m | .movi _ _ m | .sel _ _ _ m | .icmpEq _ _ _ _ m
  | .icmpNe _ _ _ _ m | .icmpLt _ _ _ _ m | .icmpLe _ _ _ _ m | .icmpGt _ _ _ _ m
  | .icmpGe _ _ _ _ m | .rget _ _ m | .rput _ _ m | .shfl _ _ _ m
  | .shflx _ _ _ m | .shfld _ _ _ m | .shfln _ _ _ m | .vote _ _ m
  | .redadd _ _ m | .redmin _ _ m | .redmax _ _ m | .scanadd _ _ m
  | .rdlane _ _ _ m | .sample _ _ _ m | .vconf _ _ m | .segsum _ _ _ m
  | .fadd _ _ _ m | .fsub _ _ _ m | .fmul _ _ _ m | .ffma _ _ _ m
  | .fmin _ _ _ m | .fmax _ _ _ m | .fabs _ _ m | .fneg _ _ m
  | .fcmpEq _ _ _ _ m | .fcmpNe _ _ _ _ m | .fcmpLt _ _ _ _ m | .fcmpLe _ _ _ _ m
  | .fcmpGt _ _ _ _ m | .fcmpGe _ _ _ _ m | .frcp _ _ m | .frsq _ _ m
  | .fsqrt _ _ m | .fexp2 _ _ m | .flog2 _ _ m | .fsin _ _ m
  | .fcos _ _ m | .ftanh _ _ m | .fcvt _ _ m | .hadd2 _ _ _ m
  | .hmul2 _ _ _ m | .hfma2 _ _ _ m | .hcmp2Eq _ _ _ _ m | .hcmp2Ne _ _ _ _ m
  | .hcmp2Lt _ _ _ _ m | .hcmp2Le _ _ _ _ m | .hcmp2Gt _ _ _ _ m | .hcmp2Ge _ _ _ _ m
  | .bmm8 _ _ _ m | .bmmor _ _ _ m | .bsprd _ _ _ m | .bgath _ _ _ m
  | .bperm _ _ _ m | .bpld _ _ m | .uadd _ _ _ m | .usub _ _ _ m
  | .umul _ _ _ m | .uand _ _ _ m | .uor _ _ _ m | .uxor _ _ _ m
  | .ushl _ _ _ m | .ushr _ _ _ m | .umov _ _ m | .umovi _ _ m
  | .ucmpEq _ _ _ _ m | .ucmpNe _ _ _ _ m | .ucmpLt _ _ _ _ m | .ucmpLe _ _ _ _ m
  | .ucmpGt _ _ _ _ m | .ucmpGe _ _ _ _ m | .usel _ _ _ m | .uld _ _ _ m
  | .ust _ _ _ m | .ld _ _ _ m | .st _ _ _ m | .ldt _ _ _ m
  | .stt _ _ _ m | .lds _ _ _ m | .sts _ _ _ m | .ldc _ _ _ m
  | .stc _ _ _ m | .cpy _ _ _ m | .cpys _ _ _ m | .batch _ m
  | .waitb _ m | .pref _ _ _ m | .fence m | .atom _ _ _ m
  | .uatom _ _ _ m | .wlpush _ _ _ m | .wlpop _ _ _ m | .wlins _ _ _ m
  | .wlbind _ _ _ m | .wlcnt _ _ m | .bara _ _ m | .barw _ _ m
  | .baraw _ _ m | .gath _ _ _ m | .scat _ _ _ m | .scatadd _ _ _ m
  | .lgath _ _ _ m | .lscat _ _ _ m | .setshape _ _ _ _ m | .getshape _ _ _ m
  | .mma _ _ _ _ m | .mmas _ _ _ _ m | .mmabx _ _ _ _ m | .scacc _ _ _ m
  | .accz _ m | .accld _ _ _ _ m | .accst _ _ _ _ m | .accrd _ _ _ m
  | .gload _ _ _ m | .gjob _ _ _ m | .gstat _ _ m | .lattach _ _ _ m
  | .lfree _ m | .gfold _ _ m | .sysrd _ _ m | .syswr _ _ m
  | .rtrap _ _ m | .rflt m | .mapf _ _ _ m | .tlbinv _ _ m
  | .ctxsv _ _ _ m | .ctxld _ _ m | .park _ m => m
  | _ => Mods.none

end Sys2Proof.Machine
end

