-- ==== Sys2Proof/Machine/Legal.lean ====
section
/-!
DEFINITION. Which encodings are legal: the prefixes an instruction accepts (R50, R121) and the checks that depend
on its words alone (R42 to R46, R53 to R56, R165 and the tables of the class chapters). A failed check is a fault
of the encoding, cause illegal operand (R57). Checks that need the kernel or a run-time value stand with the
meanings.
-/
namespace Sys2Proof.Machine

/-- Opcodes that take `REP` (R50): 0x08, 0x10-0x6F and 0x80-0x9F, but no FI word. -/
def repAccepted (op : Nat) : Bool :=
  (op == 0x08 || (0x10 ≤ op && op ≤ 0x6F) || (0x80 ≤ op && op ≤ 0x9F)) && op != 0x28 && op != 0x89

/-- Opcodes that take `EXT` (R50): every one but the terminators and `GEND`. -/
def extAccepted (op : Nat) : Bool := !(1 ≤ op && op ≤ 6)

/-- Opcodes that take `LIMM` (R50): `MOVI` and `UMOVI`. -/
def limmAccepted (op : Nat) : Bool := op == 0x28 || op == 0x89

/-- R50: every prefix that stands before the word is one that its opcode accepts. -/
def prefixesAccepted (op : BitVec 8) (m : Mods) : Bool :=
  (m.rep.isNone || repAccepted op.toNat) && (m.ext.isNone || extAccepted op.toNat)
    && (m.limm.isNone || limmAccepted op.toNat)

/-- R53: the modifiers in force; an absent `EXT` reads as zeros. -/
def extOf (i : Instr) : Ext := (modsOf i).ext.getD Ext.zero

/-- R55: the type of the instruction: its `TYPE`, or the opcode's default when that is 0. -/
def typeOf (i : Instr) : BitVec 5 :=
  let t := (extOf i).ty
  if t = 0 then (shapeOf i).default else t

/-- R55: a type code of a 64-bit type. -/
def is64 (t : BitVec 5) : Bool := t == 7 || t == 8

/-- R180: the source type of `FCVT`; a `MOD` of 0 means `.f32`. -/
def sourceTypeOf (i : Instr) : BitVec 5 :=
  let t := (extOf i).md
  if t = 0 then 16 else t

/-- R340: the system registers that exist. -/
def sysRegExists (n : BitVec 8) : Bool :=
  let k := n.toNat
  k ≤ 0x1C || (0x20 ≤ k && k ≤ 0x2D)

/-- R340: the system registers of 64 bits. -/
def sysReg64 (n : BitVec 8) : Bool :=
  let k := n.toNat
  k == 2 || k == 5 || k == 7 || (0x0A ≤ k && k ≤ 0x1C) || (0x20 ≤ k && k ≤ 0x2D)

/-- R46: whether a field of this pairing names a pair in the instruction. -/
def pairs (i : Instr) (p : Pairing) : Bool :=
  match p with
  | .never => false
  | .always => true
  | .byType => is64 (typeOf i)
  | .double => typeOf i == 5 || typeOf i == 6
  | .bySource => is64 (sourceTypeOf i)
  | .sysReg => sysReg64 (partsOf i).a

/-- R46: a code that names a register or slot must be even where it names a pair. -/
def pairOk (pair : Bool) (c : BitVec 8) : Bool :=
  !pair || (0x80 ≤ c.toNat && c.toNat < 0xD0) || c.toNat % 2 == 0

/-- R45: codes a lane instruction may name as a source. -/
def laneSrcOk (c : BitVec 8) : Bool := !(0xCC ≤ c.toNat && c.toNat ≤ 0xCF)

/-- R45: codes a uniform instruction may name as a source. -/
def uniSrcOk (c : BitVec 8) : Bool :=
  let k := c.toNat
  (0x80 ≤ k && k ≤ 0xBF) || (0xC5 ≤ k && k ≤ 0xCB) || 0xD0 ≤ k

/-- R45, R46 and the class tables: the code of an operand field is one its class accepts. -/
def fieldOk (i : Instr) (cls : FieldClass) (p : Pairing) (c : BitVec 8) : Bool :=
  let k := c.toNat
  let pair := pairs i p
  match cls with
  | .unused => k == 0
  | .imm => true
  | .laneSrc => laneSrcOk c && pairOk pair c
  | .laneReg => k < 0x80 && pairOk pair c
  | .uniSrc => uniSrcOk c && pairOk pair c
  | .slot => 0xD0 ≤ k
  | .slotTo mx => 0xD0 ≤ k && k ≤ mx.toNat
  | .constSlot => (0x80 ≤ k && k ≤ 0xBF) || 0xD0 ≤ k
  | .laneOrSlot => k < 0x80 || 0xD0 ≤ k
  | .fragOrSlot => k < 0x80 || (0xD0 ≤ k && k ≤ 0xFE)
  | .accLoc => 0xD0 ≤ k && k ≤ (if (partsOf i).b = 0 then 0xFD else 0xFE)
  | .table => k ≤ 3
  | .sysReg => sysRegExists c
  | .rtrap => if (partsOf i).d = 2 then laneSrcOk c else k == 0
  | .tlbinv => if (partsOf i).d = 0 then 0xD0 ≤ k && k ≤ 0xFE && k % 2 == 0 else k == 0

/-- R42, R43, R175, R187, R209, R239, R243: the D field is one its class accepts. -/
def destOk (i : Instr) : Bool :=
  let c := (partsOf i).d
  let k := c.toNat
  let pair := pairs i (shapeOf i).dPair
  match (shapeOf i).d with
  | .none => true
  | .lane => if k < 0x80 then !pair || k % 2 == 0 else k == 0x80
  | .laneWb => k < 0x80 && (!pair || k % 2 == 0)
  | .lane7 => k < 0x80 && (!pair || k % 2 == 0)
  | .uni => k < 48 && (!pair || k % 2 == 0)
  | .uniTo mx => k ≤ mx
  | .pred => true
  | .upred => k % 16 < 8
  | .hpred => k % 2 == 0 && k % 16 ≤ 12
  | .slotTo mx => 0xD0 ≤ k && k ≤ mx.toNat
  | .table => k ≤ 3
  | .tier => k ≤ 2

/-- R52: the step of a step code. -/
def stepOf (c : BitVec 2) : Nat :=
  match c.toNat with
  | 0 => 0
  | 1 => 1
  | 2 => 2
  | _ => 4

/-- R46: a code of a register or a slot; a constant, a latch and a special operand name none, and so no pair. -/
def namesRegister (k : Nat) : Bool := k < 0x80 || 0xD0 ≤ k

/-- R165, R189: a stepped operand field at its last value. -/
def repFieldOk (i : Instr) (cls : FieldClass) (p : Pairing) (c : BitVec 8) (step cnt : Nat) : Bool :=
  let k := c.toNat
  let last := k + cnt * step
  step == 0 ||
    (!(pairs i p && namesRegister k && step == 1) &&
      match cls with
      | .unused => false
      | .imm => false
      | .table => last ≤ 3
      | .slotTo mx => last ≤ mx.toNat
      | .rtrap => false
      | .tlbinv => false
      | .sysReg => false
      | _ =>
        if k < 0x80 then last ≤ 0x7F
        else if k < 0xC0 then last ≤ 0xBF
        else if k < 0xD0 then false
        else last ≤ 0xFF)

/-- R165, R175, R189: a stepped D field at its last value; a `Q` of `HCMP2` that some repeat would find odd is refused
as well (notes/assumptions/29). -/
def repDestOk (i : Instr) (step cnt : Nat) : Bool :=
  let k := (partsOf i).d.toNat
  let last := k + cnt * step
  step == 0 ||
    (!(pairs i (shapeOf i).dPair && step == 1) &&
      match (shapeOf i).d with
      | .lane => k < 0x80 && last ≤ 127
      | .uni => last ≤ 47
      | .pred => k % 16 + cnt * step ≤ 15
      | .upred => k % 16 + cnt * step ≤ 7
      | .hpred => k % 16 + cnt * step ≤ 12 && (cnt == 0 || step % 2 == 0)
      | .table => last ≤ 3
      | _ => false)

/-- R165: every stepped field at its last value. -/
def repOk (i : Instr) : Bool :=
  match (modsOf i).rep with
  | .none => true
  | .some r =>
    let sh := shapeOf i
    let pt := partsOf i
    let n := r.cnt.toNat
    repDestOk i (stepOf r.dStep) n && repFieldOk i sh.a sh.aPair pt.a (stepOf r.aStep) n
      && repFieldOk i sh.b sh.bPair pt.b (stepOf r.bStep) n

/-- R55: the type code is 0 or one that the instruction accepts. -/
def typeOk (i : Instr) : Bool :=
  let sh := shapeOf i
  if sh.types.isEmpty then (extOf i).ty = 0 else sh.types.contains (typeOf i)

/-- R53, R56: the fields of `EXT` other than the type. A `GP` of 8-15 of a uniform instruction is refused whatever
`GE` is; another non-zero `GP` with `GE` 0 is not (notes/assumptions/11). -/
def extOk (i : Instr) : Bool :=
  let sh := shapeOf i
  let e := extOf i
  (e.scope == 0 || sh.scopes.contains e.scope) && (!e.vol || sh.vol)
    && (match sh.rnd with
        | .none => e.rnd == 0
        | .any => e.rnd.toNat ≤ 4
        | .floatOnly => e.rnd == 0 || (e.rnd.toNat ≤ 4 && 16 ≤ (typeOf i).toNat))
    && (!e.sat || sh.sat) && sh.mods.contains e.md
    && (if sh.selector then (e.ge || (!e.gn && e.gp == 0)) else true)
    && (!sh.uniGuard || e.gp.toNat < 8)

/-- R54: the types that an immediate accepts. -/
def limmOk (i : Instr) : Bool :=
  match (modsOf i).limm with
  | .none => true
  | .some l =>
    let t := (typeOf i).toNat
    if t < 16 then true else if t = 16 then l.toNat < 0x10000 else false

/-- R262, R263: the operation of an atomic accepts the type, and the registers it needs beyond D exist. -/
def atomOk (i : Instr) (top : Nat) : Bool :=
  let op := (extOf i).md.toNat % 16
  let t := (typeOf i).toNat
  let d := (partsOf i).d.toNat
  let w := if is64 (typeOf i) then 2 else 1
  let int := t == 5 || t == 6 || t == 7 || t == 8
  (if op = 0 then int || t == 16 || t == 18
   else if op ≤ 2 then int || t == 16
   else if op ≤ 5 then int
   else if op ≤ 7 then int || t == 16
   else t == 6)
    && (if op = 7 then d + 2 * w - 1 ≤ top else if op = 10 then d + 1 ≤ top else d + w - 1 ≤ top)

/-- The checks of single instructions that the shapes do not say. -/
def extraOk (i : Instr) : Bool :=
  let e := extOf i
  match i with
  | .br t => t.toNat < 63
  | .brc _ a b => a.toNat < 63 && b.toNat < 63
  | .brl _ a b => a.toNat < 63 && b.toNat < 63
  | .win b _ => b.toNat % 32 == 0
  | .uwin b _ => b.toNat % 48 == 0 && b.toNat ≤ 336
  | .fcvt _ a _ => !(19 ≤ (sourceTypeOf i).toNat && 0x80 ≤ a.toNat && a.toNat ≤ 0xBF)
  | .atom _ _ _ _ => atomOk i 127
  | .uatom _ _ _ _ => atomOk i 47
  | .bara n _ _ => e.scope.toNat != 2 || n.toNat < 8
  | .barw n _ _ => e.scope.toNat != 2 || n.toNat < 8
  | .baraw n _ _ => e.scope.toNat != 2 || n.toNat < 8
  | .setshape k _ _ _ _ => k.toNat != 0
  | .accld _ _ _ f _ => f == 0 || e.scope == 0
  | .accst _ _ _ f _ => f == 0 || e.scope == 0
  | .rtrap f _ _ => f.toNat != 3
  | _ => true

/-- R57: the instruction raises no fault of the encoding that its words alone decide, other than an illegal
instruction. -/
def legal (i : Instr) : Bool :=
  let sh := shapeOf i
  let pt := partsOf i
  typeOk i && extOk i && destOk i && fieldOk i sh.a sh.aPair pt.a && fieldOk i sh.b sh.bPair pt.b
    && limmOk i && repOk i && extraOk i

end Sys2Proof.Machine
end

