-- ==== Sys2Proof/WellFormed.lean ====
section
/-!
DEFINITION. Well-formed instructions: what the encoding tables of the spec allow to be written.
-/
namespace Sys2Proof

/-- R40, R50: a word that is a prefix of the word after it: `REP`, `EXT`, `LIMM`. `STR` opens a strand run and is
read as a word of its own (R51). -/
def isPrefixWord (w : Word) : Bool :=
  let op := (w.extractLsb' 24 8).toNat
  0xF8 ≤ op && op ≤ 0xFA

/-- R58: an opcode that the map assigns to no instruction. -/
def opcodeUnassigned (op : Nat) : Bool :=
  op == 0x0E || op == 0x0F || op == 0x3F || (0x66 ≤ op && op ≤ 0x7F) || (0x93 ≤ op && op ≤ 0x9F)
    || (0xB0 ≤ op && op ≤ 0xB7) || op == 0xC5 || op == 0xD6 || op == 0xD7 || (0xE1 ≤ op && op ≤ 0xF7)
    || (0xFC ≤ op && op ≤ 0xFE)

/-- The instruction has words that the decoder reads back as it: its prefixes are ones its opcode accepts, a
faulty or unassigned word carries only prefix words before it. A step of another agent has no words. -/
def Instr.encodable (i : Instr) : Bool :=
  match i with
  | .str b _ => b.toNat < 63
  | .ill pre _ => pre.all isPrefixWord && pre.length ≤ 4
  | .illFf pre _ => pre.all isPrefixWord && pre.length ≤ 4
  | .unassignedOpcode pre w =>
    pre.all isPrefixWord && pre.length ≤ 4 && opcodeUnassigned (w.extractLsb' 24 8).toNat
  | i => (Machine.partsOf i).op != 0 && Machine.prefixesAccepted (Machine.partsOf i).op (Machine.modsOf i)

/-- R41 to R56: the instruction is encodable and raises no fault of the encoding by its words alone. -/
def Instr.wf (i : Instr) : Bool := i.encodable && Machine.legal i

end Sys2Proof
end

