-- ==== Sys2Proof/Decode.lean ====
section
/-!
DEFINITION. Decoding instruction words (spec/03 R40 to R59) and, after it, the encoder.
The decoder is total on any list of words. It names what it refuses: an illegal instruction (R50, R51) before an
illegal operand (R57); an unassigned opcode and `ILL` are instructions of the table.
-/
namespace Sys2Proof

/-- Why no instruction is read. -/
inductive DecodeError where
  /-- R57 step 2: a prefix out of order, given twice or not accepted, or an instruction cut off. -/
  | illegalInstruction
  /-- R3, R57 step 3: a reserved bit of the word is set. -/
  | illegalOperand
  deriving DecidableEq, Repr

/-- The outcome of reading one instruction: the words it takes, and the instruction. -/
structure Decoded where
  words : List Word
  result : Except DecodeError Instr
  deriving Repr

/-- The fields of a `REP` word (R52). -/
def repOfWord (w : Word) : Rep :=
  { cnt := w.extractLsb' 18 6, dStep := w.extractLsb' 16 2, aStep := w.extractLsb' 14 2, bStep := w.extractLsb' 12 2 }

/-- The fields of an `EXT` word (R53). -/
def extOfWord (w : Word) : Ext :=
  { ge := w.getLsbD 23, gn := w.getLsbD 22, gp := w.extractLsb' 18 4, scope := w.extractLsb' 15 3, vol := w.getLsbD 14,
    rnd := w.extractLsb' 11 3, sat := w.getLsbD 10, ty := w.extractLsb' 5 5, md := w.extractLsb' 0 5 }

/-- R50: read the prefix words in order. `last` is the rank of the word before. A reserved bit of a `REP` word is
kept for the check of R57 step 3. -/
def readMods (last : Nat) (acc : Mods) (reserved : Bool) (ws : List Word) : Option (Mods × Bool) :=
  match ws with
  | [] => some (acc, reserved)
  | w :: rest =>
    let op := (w.extractLsb' 24 8).toNat
    if op = 0xF8 then
      if last < 1 then
        readMods 1 { acc with rep := some (repOfWord w) } (reserved || w.extractLsb' 0 12 != 0) rest
      else none
    else if op = 0xF9 then
      if last < 2 then readMods 2 { acc with ext := some (extOfWord w) } reserved rest else none
    else if op = 0xFA then
      if last < 3 then readMods 3 { acc with limm := some (w.extractLsb' 0 24) } reserved rest else none
    else none

/-- The words of an instruction that starts a list: its prefix words, and the rest of the list. -/
def splitPrefixes (ws : List Word) : List Word × List Word :=
  match ws with
  | [] => ([], [])
  | w :: rest =>
    if isPrefixWord w then
      let r := splitPrefixes rest
      (w :: r.1, r.2)
    else ([], w :: rest)

/-- A row of the table: the bits outside its fields are the ones the row fixes (R3). -/
def fixedBits (w mask value : Word) : Bool := w &&& mask == value

/-- The instructions of opcodes 0x01-0x0F (R58): the instruction, with the bits its row fixes checked. -/
def decodeControl (op : Nat) (w : Word) (m : Mods) : Option Instr :=
  match op with
  | 0x01 => if fixedBits w 0xFFFFFFC0 0x01000000 then some (.br (w.extractLsb' 0 6)) else none
  | 0x02 => if fixedBits w 0xFFF0C0C0 0x02000000 then some (.brc (w.extractLsb' 16 4) (w.extractLsb' 8 6) (w.extractLsb' 0 6)) else none
  | 0x03 => if fixedBits w 0xFFFF00FF 0x03000000 then some (.brx (w.extractLsb' 8 8)) else none
  | 0x04 => if fixedBits w 0xFF00C0C0 0x04000000 then some (.brl (w.extractLsb' 16 8) (w.extractLsb' 8 6) (w.extractLsb' 0 6)) else none
  | 0x05 => if fixedBits w 0xFFFFFFFF 0x05000000 then some (.exit) else none
  | 0x06 => if fixedBits w 0xFFFFFFFF 0x06000000 then some (.gend) else none
  | 0x07 => if fixedBits w 0xFFFFFFFF 0x07000000 then some (.yield m) else none
  | 0x08 => if fixedBits w 0xFFFFFFFF 0x08000000 then some (.nop m) else none
  | 0x09 =>
    if fixedBits w 0xFFFF0000 0x09000000 then some (.win (w.extractLsb' 0 16) m)
    else if fixedBits w 0xFFFFFF00 0x09010000 then some (.winOperand (w.extractLsb' 0 8) m)
    else none
  | 0x0A =>
    if fixedBits w 0xFFFF0000 0x0A000000 then some (.uwin (w.extractLsb' 0 16) m)
    else if fixedBits w 0xFFFFFF00 0x0A010000 then some (.uwinOperand (w.extractLsb' 0 8) m)
    else none
  | 0x0B => if fixedBits w 0xFFFF0000 0x0B000000 then some (.brk (w.extractLsb' 0 16) m) else none
  | 0x0C => if fixedBits w 0xFFFF0000 0x0C000000 then some (.trap (w.extractLsb' 0 16) m) else none
  | 0x0D => if fixedBits w 0xFF800000 0x0D000000 then some (.launch (w.extractLsb' 16 7) (w.extractLsb' 8 8) (w.extractLsb' 0 8) m) else none
  | _ => none

/-- The instructions of opcodes 0x10-0x31 (R58): the instruction, with the bits its row fixes checked. -/
def decodeLaneInt (op : Nat) (w : Word) (m : Mods) : Option Instr :=
  match op with
  | 0x10 => if fixedBits w 0xFF000000 0x10000000 then some (.add (w.extractLsb' 16 8) (w.extractLsb' 8 8) (w.extractLsb' 0 8) m) else none
  | 0x11 => if fixedBits w 0xFF000000 0x11000000 then some (.sub (w.extractLsb' 16 8) (w.extractLsb' 8 8) (w.extractLsb' 0 8) m) else none
  | 0x12 => if fixedBits w 0xFF000000 0x12000000 then some (.mul (w.extractLsb' 16 8) (w.extractLsb' 8 8) (w.extractLsb' 0 8) m) else none
  | 0x13 => if fixedBits w 0xFF000000 0x13000000 then some (.mulh (w.extractLsb' 16 8) (w.extractLsb' 8 8) (w.extractLsb' 0 8) m) else none
  | 0x14 => if fixedBits w 0xFF000000 0x14000000 then some (.mad (w.extractLsb' 16 8) (w.extractLsb' 8 8) (w.extractLsb' 0 8) m) else none
  | 0x15 => if fixedBits w 0xFF000000 0x15000000 then some (.min (w.extractLsb' 16 8) (w.extractLsb' 8 8) (w.extractLsb' 0 8) m) else none
  | 0x16 => if fixedBits w 0xFF000000 0x16000000 then some (.max (w.extractLsb' 16 8) (w.extractLsb' 8 8) (w.extractLsb' 0 8) m) else none
  | 0x17 => if fixedBits w 0xFF0000FF 0x17000000 then some (.abs (w.extractLsb' 16 8) (w.extractLsb' 8 8) m) else none
  | 0x18 => if fixedBits w 0xFF0000FF 0x18000000 then some (.neg (w.extractLsb' 16 8) (w.extractLsb' 8 8) m) else none
  | 0x19 => if fixedBits w 0xFF000000 0x19000000 then some (.and (w.extractLsb' 16 8) (w.extractLsb' 8 8) (w.extractLsb' 0 8) m) else none
  | 0x1A => if fixedBits w 0xFF000000 0x1A000000 then some (.or (w.extractLsb' 16 8) (w.extractLsb' 8 8) (w.extractLsb' 0 8) m) else none
  | 0x1B => if fixedBits w 0xFF000000 0x1B000000 then some (.xor (w.extractLsb' 16 8) (w.extractLsb' 8 8) (w.extractLsb' 0 8) m) else none
  | 0x1C => if fixedBits w 0xFF000000 0x1C000000 then some (.andn (w.extractLsb' 16 8) (w.extractLsb' 8 8) (w.extractLsb' 0 8) m) else none
  | 0x1D => if fixedBits w 0xFF0000FF 0x1D000000 then some (.not (w.extractLsb' 16 8) (w.extractLsb' 8 8) m) else none
  | 0x1E => if fixedBits w 0xFF000000 0x1E000000 then some (.shl (w.extractLsb' 16 8) (w.extractLsb' 8 8) (w.extractLsb' 0 8) m) else none
  | 0x1F => if fixedBits w 0xFF000000 0x1F000000 then some (.shr (w.extractLsb' 16 8) (w.extractLsb' 8 8) (w.extractLsb' 0 8) m) else none
  | 0x20 => if fixedBits w 0xFF000000 0x20000000 then some (.sar (w.extractLsb' 16 8) (w.extractLsb' 8 8) (w.extractLsb' 0 8) m) else none
  | 0x21 => if fixedBits w 0xFF000000 0x21000000 then some (.rot (w.extractLsb' 16 8) (w.extractLsb' 8 8) (w.extractLsb' 0 8) m) else none
  | 0x22 => if fixedBits w 0xFF0000FF 0x22000000 then some (.clz (w.extractLsb' 16 8) (w.extractLsb' 8 8) m) else none
  | 0x23 => if fixedBits w 0xFF0000FF 0x23000000 then some (.popc (w.extractLsb' 16 8) (w.extractLsb' 8 8) m) else none
  | 0x24 => if fixedBits w 0xFF0000FF 0x24000000 then some (.brev (w.extractLsb' 16 8) (w.extractLsb' 8 8) m) else none
  | 0x25 => if fixedBits w 0xFF000000 0x25000000 then some (.addw (w.extractLsb' 16 8) (w.extractLsb' 8 8) (w.extractLsb' 0 8) m) else none
  | 0x26 => if fixedBits w 0xFF000000 0x26000000 then some (.subw (w.extractLsb' 16 8) (w.extractLsb' 8 8) (w.extractLsb' 0 8) m) else none
  | 0x27 => if fixedBits w 0xFF0000FF 0x27000000 then some (.mov (w.extractLsb' 16 8) (w.extractLsb' 8 8) m) else none
  | 0x28 => if fixedBits w 0xFF000000 0x28000000 then some (.movi (w.extractLsb' 16 8) (w.extractLsb' 0 16) m) else none
  | 0x29 => if fixedBits w 0xFF000000 0x29000000 then some (.sel (w.extractLsb' 16 8) (w.extractLsb' 8 8) (w.extractLsb' 0 8) m) else none
  | 0x2A => if fixedBits w 0xFF100000 0x2A000000 then some (.icmpEq (w.extractLsb' 21 3) (w.extractLsb' 16 4) (w.extractLsb' 8 8) (w.extractLsb' 0 8) m) else none
  | 0x2B => if fixedBits w 0xFF100000 0x2B000000 then some (.icmpNe (w.extractLsb' 21 3) (w.extractLsb' 16 4) (w.extractLsb' 8 8) (w.extractLsb' 0 8) m) else none
  | 0x2C => if fixedBits w 0xFF100000 0x2C000000 then some (.icmpLt (w.extractLsb' 21 3) (w.extractLsb' 16 4) (w.extractLsb' 8 8) (w.extractLsb' 0 8) m) else none
  | 0x2D => if fixedBits w 0xFF100000 0x2D000000 then some (.icmpLe (w.extractLsb' 21 3) (w.extractLsb' 16 4) (w.extractLsb' 8 8) (w.extractLsb' 0 8) m) else none
  | 0x2E => if fixedBits w 0xFF100000 0x2E000000 then some (.icmpGt (w.extractLsb' 21 3) (w.extractLsb' 16 4) (w.extractLsb' 8 8) (w.extractLsb' 0 8) m) else none
  | 0x2F => if fixedBits w 0xFF100000 0x2F000000 then some (.icmpGe (w.extractLsb' 21 3) (w.extractLsb' 16 4) (w.extractLsb' 8 8) (w.extractLsb' 0 8) m) else none
  | 0x30 => if fixedBits w 0xFF0000FF 0x30000000 then some (.rget (w.extractLsb' 16 8) (w.extractLsb' 8 8) m) else none
  | 0x31 => if fixedBits w 0xFFFF0000 0x31000000 then some (.rput (w.extractLsb' 8 8) (w.extractLsb' 0 8) m) else none
  | _ => none

/-- The instructions of opcodes 0x32-0x3F (R58): the instruction, with the bits its row fixes checked. -/
def decodeCross (op : Nat) (w : Word) (m : Mods) : Option Instr :=
  match op with
  | 0x32 => if fixedBits w 0xFF000000 0x32000000 then some (.shfl (w.extractLsb' 16 8) (w.extractLsb' 8 8) (w.extractLsb' 0 8) m) else none
  | 0x33 => if fixedBits w 0xFF000000 0x33000000 then some (.shflx (w.extractLsb' 16 8) (w.extractLsb' 8 8) (w.extractLsb' 0 8) m) else none
  | 0x34 => if fixedBits w 0xFF000000 0x34000000 then some (.shfld (w.extractLsb' 16 8) (w.extractLsb' 8 8) (w.extractLsb' 0 8) m) else none
  | 0x35 => if fixedBits w 0xFF000000 0x35000000 then some (.shfln (w.extractLsb' 16 8) (w.extractLsb' 8 8) (w.extractLsb' 0 8) m) else none
  | 0x36 => if fixedBits w 0xFF0000FF 0x36000000 then some (.vote (w.extractLsb' 16 8) (w.extractLsb' 8 8) m) else none
  | 0x37 => if fixedBits w 0xFF0000FF 0x37000000 then some (.redadd (w.extractLsb' 16 8) (w.extractLsb' 8 8) m) else none
  | 0x38 => if fixedBits w 0xFF0000FF 0x38000000 then some (.redmin (w.extractLsb' 16 8) (w.extractLsb' 8 8) m) else none
  | 0x39 => if fixedBits w 0xFF0000FF 0x39000000 then some (.redmax (w.extractLsb' 16 8) (w.extractLsb' 8 8) m) else none
  | 0x3A => if fixedBits w 0xFF0000FF 0x3A000000 then some (.scanadd (w.extractLsb' 16 8) (w.extractLsb' 8 8) m) else none
  | 0x3B => if fixedBits w 0xFF000000 0x3B000000 then some (.rdlane (w.extractLsb' 16 8) (w.extractLsb' 8 8) (w.extractLsb' 0 8) m) else none
  | 0x3C => if fixedBits w 0xFF000000 0x3C000000 then some (.sample (w.extractLsb' 16 8) (w.extractLsb' 8 8) (w.extractLsb' 0 8) m) else none
  | 0x3D => if fixedBits w 0xFF0000FF 0x3D000000 then some (.vconf (w.extractLsb' 16 8) (w.extractLsb' 8 8) m) else none
  | 0x3E => if fixedBits w 0xFF000000 0x3E000000 then some (.segsum (w.extractLsb' 16 8) (w.extractLsb' 8 8) (w.extractLsb' 0 8) m) else none
  | _ => none

/-- The instructions of opcodes 0x40-0x56 (R58): the instruction, with the bits its row fixes checked. -/
def decodeFloat (op : Nat) (w : Word) (m : Mods) : Option Instr :=
  match op with
  | 0x40 => if fixedBits w 0xFF000000 0x40000000 then some (.fadd (w.extractLsb' 16 8) (w.extractLsb' 8 8) (w.extractLsb' 0 8) m) else none
  | 0x41 => if fixedBits w 0xFF000000 0x41000000 then some (.fsub (w.extractLsb' 16 8) (w.extractLsb' 8 8) (w.extractLsb' 0 8) m) else none
  | 0x42 => if fixedBits w 0xFF000000 0x42000000 then some (.fmul (w.extractLsb' 16 8) (w.extractLsb' 8 8) (w.extractLsb' 0 8) m) else none
  | 0x43 => if fixedBits w 0xFF000000 0x43000000 then some (.ffma (w.extractLsb' 16 8) (w.extractLsb' 8 8) (w.extractLsb' 0 8) m) else none
  | 0x44 => if fixedBits w 0xFF000000 0x44000000 then some (.fmin (w.extractLsb' 16 8) (w.extractLsb' 8 8) (w.extractLsb' 0 8) m) else none
  | 0x45 => if fixedBits w 0xFF000000 0x45000000 then some (.fmax (w.extractLsb' 16 8) (w.extractLsb' 8 8) (w.extractLsb' 0 8) m) else none
  | 0x46 => if fixedBits w 0xFF0000FF 0x46000000 then some (.fabs (w.extractLsb' 16 8) (w.extractLsb' 8 8) m) else none
  | 0x47 => if fixedBits w 0xFF0000FF 0x47000000 then some (.fneg (w.extractLsb' 16 8) (w.extractLsb' 8 8) m) else none
  | 0x48 => if fixedBits w 0xFF100000 0x48000000 then some (.fcmpEq (w.extractLsb' 21 3) (w.extractLsb' 16 4) (w.extractLsb' 8 8) (w.extractLsb' 0 8) m) else none
  | 0x49 => if fixedBits w 0xFF100000 0x49000000 then some (.fcmpNe (w.extractLsb' 21 3) (w.extractLsb' 16 4) (w.extractLsb' 8 8) (w.extractLsb' 0 8) m) else none
  | 0x4A => if fixedBits w 0xFF100000 0x4A000000 then some (.fcmpLt (w.extractLsb' 21 3) (w.extractLsb' 16 4) (w.extractLsb' 8 8) (w.extractLsb' 0 8) m) else none
  | 0x4B => if fixedBits w 0xFF100000 0x4B000000 then some (.fcmpLe (w.extractLsb' 21 3) (w.extractLsb' 16 4) (w.extractLsb' 8 8) (w.extractLsb' 0 8) m) else none
  | 0x4C => if fixedBits w 0xFF100000 0x4C000000 then some (.fcmpGt (w.extractLsb' 21 3) (w.extractLsb' 16 4) (w.extractLsb' 8 8) (w.extractLsb' 0 8) m) else none
  | 0x4D => if fixedBits w 0xFF100000 0x4D000000 then some (.fcmpGe (w.extractLsb' 21 3) (w.extractLsb' 16 4) (w.extractLsb' 8 8) (w.extractLsb' 0 8) m) else none
  | 0x4E => if fixedBits w 0xFF0000FF 0x4E000000 then some (.frcp (w.extractLsb' 16 8) (w.extractLsb' 8 8) m) else none
  | 0x4F => if fixedBits w 0xFF0000FF 0x4F000000 then some (.frsq (w.extractLsb' 16 8) (w.extractLsb' 8 8) m) else none
  | 0x50 => if fixedBits w 0xFF0000FF 0x50000000 then some (.fsqrt (w.extractLsb' 16 8) (w.extractLsb' 8 8) m) else none
  | 0x51 => if fixedBits w 0xFF0000FF 0x51000000 then some (.fexp2 (w.extractLsb' 16 8) (w.extractLsb' 8 8) m) else none
  | 0x52 => if fixedBits w 0xFF0000FF 0x52000000 then some (.flog2 (w.extractLsb' 16 8) (w.extractLsb' 8 8) m) else none
  | 0x53 => if fixedBits w 0xFF0000FF 0x53000000 then some (.fsin (w.extractLsb' 16 8) (w.extractLsb' 8 8) m) else none
  | 0x54 => if fixedBits w 0xFF0000FF 0x54000000 then some (.fcos (w.extractLsb' 16 8) (w.extractLsb' 8 8) m) else none
  | 0x55 => if fixedBits w 0xFF0000FF 0x55000000 then some (.ftanh (w.extractLsb' 16 8) (w.extractLsb' 8 8) m) else none
  | 0x56 => if fixedBits w 0xFF0000FF 0x56000000 then some (.fcvt (w.extractLsb' 16 8) (w.extractLsb' 8 8) m) else none
  | _ => none

/-- The instructions of opcodes 0x57-0x7F (R58): the instruction, with the bits its row fixes checked. -/
def decodePacked (op : Nat) (w : Word) (m : Mods) : Option Instr :=
  match op with
  | 0x57 => if fixedBits w 0xFF000000 0x57000000 then some (.hadd2 (w.extractLsb' 16 8) (w.extractLsb' 8 8) (w.extractLsb' 0 8) m) else none
  | 0x58 => if fixedBits w 0xFF000000 0x58000000 then some (.hmul2 (w.extractLsb' 16 8) (w.extractLsb' 8 8) (w.extractLsb' 0 8) m) else none
  | 0x59 => if fixedBits w 0xFF000000 0x59000000 then some (.hfma2 (w.extractLsb' 16 8) (w.extractLsb' 8 8) (w.extractLsb' 0 8) m) else none
  | 0x5A => if fixedBits w 0xFF100000 0x5A000000 then some (.hcmp2Eq (w.extractLsb' 21 3) (w.extractLsb' 16 4) (w.extractLsb' 8 8) (w.extractLsb' 0 8) m) else none
  | 0x5B => if fixedBits w 0xFF100000 0x5B000000 then some (.hcmp2Ne (w.extractLsb' 21 3) (w.extractLsb' 16 4) (w.extractLsb' 8 8) (w.extractLsb' 0 8) m) else none
  | 0x5C => if fixedBits w 0xFF100000 0x5C000000 then some (.hcmp2Lt (w.extractLsb' 21 3) (w.extractLsb' 16 4) (w.extractLsb' 8 8) (w.extractLsb' 0 8) m) else none
  | 0x5D => if fixedBits w 0xFF100000 0x5D000000 then some (.hcmp2Le (w.extractLsb' 21 3) (w.extractLsb' 16 4) (w.extractLsb' 8 8) (w.extractLsb' 0 8) m) else none
  | 0x5E => if fixedBits w 0xFF100000 0x5E000000 then some (.hcmp2Gt (w.extractLsb' 21 3) (w.extractLsb' 16 4) (w.extractLsb' 8 8) (w.extractLsb' 0 8) m) else none
  | 0x5F => if fixedBits w 0xFF100000 0x5F000000 then some (.hcmp2Ge (w.extractLsb' 21 3) (w.extractLsb' 16 4) (w.extractLsb' 8 8) (w.extractLsb' 0 8) m) else none
  | 0x60 => if fixedBits w 0xFF000000 0x60000000 then some (.bmm8 (w.extractLsb' 16 8) (w.extractLsb' 8 8) (w.extractLsb' 0 8) m) else none
  | 0x61 => if fixedBits w 0xFF000000 0x61000000 then some (.bmmor (w.extractLsb' 16 8) (w.extractLsb' 8 8) (w.extractLsb' 0 8) m) else none
  | 0x62 => if fixedBits w 0xFF000000 0x62000000 then some (.bsprd (w.extractLsb' 16 8) (w.extractLsb' 8 8) (w.extractLsb' 0 8) m) else none
  | 0x63 => if fixedBits w 0xFF000000 0x63000000 then some (.bgath (w.extractLsb' 16 8) (w.extractLsb' 8 8) (w.extractLsb' 0 8) m) else none
  | 0x64 => if fixedBits w 0xFF0000FC 0x64000000 then some (.bperm (w.extractLsb' 16 8) (w.extractLsb' 8 8) (w.extractLsb' 0 2) m) else none
  | 0x65 => if fixedBits w 0xFFFC00FF 0x65000000 then some (.bpld (w.extractLsb' 16 2) (w.extractLsb' 8 8) m) else none
  | _ => none

/-- The instructions of opcodes 0x80-0x9F (R58): the instruction, with the bits its row fixes checked. -/
def decodeUniform (op : Nat) (w : Word) (m : Mods) : Option Instr :=
  match op with
  | 0x80 => if fixedBits w 0xFF800000 0x80000000 then some (.uadd (w.extractLsb' 16 7) (w.extractLsb' 8 8) (w.extractLsb' 0 8) m) else none
  | 0x81 => if fixedBits w 0xFF800000 0x81000000 then some (.usub (w.extractLsb' 16 7) (w.extractLsb' 8 8) (w.extractLsb' 0 8) m) else none
  | 0x82 => if fixedBits w 0xFF800000 0x82000000 then some (.umul (w.extractLsb' 16 7) (w.extractLsb' 8 8) (w.extractLsb' 0 8) m) else none
  | 0x83 => if fixedBits w 0xFF800000 0x83000000 then some (.uand (w.extractLsb' 16 7) (w.extractLsb' 8 8) (w.extractLsb' 0 8) m) else none
  | 0x84 => if fixedBits w 0xFF800000 0x84000000 then some (.uor (w.extractLsb' 16 7) (w.extractLsb' 8 8) (w.extractLsb' 0 8) m) else none
  | 0x85 => if fixedBits w 0xFF800000 0x85000000 then some (.uxor (w.extractLsb' 16 7) (w.extractLsb' 8 8) (w.extractLsb' 0 8) m) else none
  | 0x86 => if fixedBits w 0xFF800000 0x86000000 then some (.ushl (w.extractLsb' 16 7) (w.extractLsb' 8 8) (w.extractLsb' 0 8) m) else none
  | 0x87 => if fixedBits w 0xFF800000 0x87000000 then some (.ushr (w.extractLsb' 16 7) (w.extractLsb' 8 8) (w.extractLsb' 0 8) m) else none
  | 0x88 => if fixedBits w 0xFF8000FF 0x88000000 then some (.umov (w.extractLsb' 16 7) (w.extractLsb' 8 8) m) else none
  | 0x89 => if fixedBits w 0xFF800000 0x89000000 then some (.umovi (w.extractLsb' 16 7) (w.extractLsb' 0 16) m) else none
  | 0x8A => if fixedBits w 0xFF100000 0x8A000000 then some (.ucmpEq (w.extractLsb' 21 3) (w.extractLsb' 16 4) (w.extractLsb' 8 8) (w.extractLsb' 0 8) m) else none
  | 0x8B => if fixedBits w 0xFF100000 0x8B000000 then some (.ucmpNe (w.extractLsb' 21 3) (w.extractLsb' 16 4) (w.extractLsb' 8 8) (w.extractLsb' 0 8) m) else none
  | 0x8C => if fixedBits w 0xFF100000 0x8C000000 then some (.ucmpLt (w.extractLsb' 21 3) (w.extractLsb' 16 4) (w.extractLsb' 8 8) (w.extractLsb' 0 8) m) else none
  | 0x8D => if fixedBits w 0xFF100000 0x8D000000 then some (.ucmpLe (w.extractLsb' 21 3) (w.extractLsb' 16 4) (w.extractLsb' 8 8) (w.extractLsb' 0 8) m) else none
  | 0x8E => if fixedBits w 0xFF100000 0x8E000000 then some (.ucmpGt (w.extractLsb' 21 3) (w.extractLsb' 16 4) (w.extractLsb' 8 8) (w.extractLsb' 0 8) m) else none
  | 0x8F => if fixedBits w 0xFF100000 0x8F000000 then some (.ucmpGe (w.extractLsb' 21 3) (w.extractLsb' 16 4) (w.extractLsb' 8 8) (w.extractLsb' 0 8) m) else none
  | 0x90 => if fixedBits w 0xFF800000 0x90000000 then some (.usel (w.extractLsb' 16 7) (w.extractLsb' 8 8) (w.extractLsb' 0 8) m) else none
  | 0x91 => if fixedBits w 0xFF800000 0x91000000 then some (.uld (w.extractLsb' 16 7) (w.extractLsb' 8 8) (w.extractLsb' 0 8) m) else none
  | 0x92 => if fixedBits w 0xFF800000 0x92000000 then some (.ust (w.extractLsb' 16 7) (w.extractLsb' 8 8) (w.extractLsb' 0 8) m) else none
  | _ => none

/-- The instructions of opcodes 0xA0-0xAF (R58): the instruction, with the bits its row fixes checked. -/
def decodeMemory (op : Nat) (w : Word) (m : Mods) : Option Instr :=
  match op with
  | 0xA0 => if fixedBits w 0xFF000000 0xA0000000 then some (.ld (w.extractLsb' 16 8) (w.extractLsb' 8 8) (w.extractLsb' 0 8) m) else none
  | 0xA1 => if fixedBits w 0xFF800000 0xA1000000 then some (.st (w.extractLsb' 16 7) (w.extractLsb' 8 8) (w.extractLsb' 0 8) m) else none
  | 0xA2 => if fixedBits w 0xFF000000 0xA2000000 then some (.ldt (w.extractLsb' 16 8) (w.extractLsb' 8 8) (w.extractLsb' 0 8) m) else none
  | 0xA3 => if fixedBits w 0xFF800000 0xA3000000 then some (.stt (w.extractLsb' 16 7) (w.extractLsb' 8 8) (w.extractLsb' 0 8) m) else none
  | 0xA4 => if fixedBits w 0xFF000000 0xA4000000 then some (.lds (w.extractLsb' 16 8) (w.extractLsb' 8 8) (w.extractLsb' 0 8) m) else none
  | 0xA5 => if fixedBits w 0xFF800000 0xA5000000 then some (.sts (w.extractLsb' 16 7) (w.extractLsb' 8 8) (w.extractLsb' 0 8) m) else none
  | 0xA6 => if fixedBits w 0xFF000000 0xA6000000 then some (.ldc (w.extractLsb' 16 8) (w.extractLsb' 8 8) (w.extractLsb' 0 8) m) else none
  | 0xA7 => if fixedBits w 0xFF800000 0xA7000000 then some (.stc (w.extractLsb' 16 7) (w.extractLsb' 8 8) (w.extractLsb' 0 8) m) else none
  | 0xA8 => if fixedBits w 0xFF000000 0xA8000000 then some (.cpy (w.extractLsb' 16 8) (w.extractLsb' 8 8) (w.extractLsb' 0 8) m) else none
  | 0xA9 => if fixedBits w 0xFF000000 0xA9000000 then some (.cpys (w.extractLsb' 16 8) (w.extractLsb' 8 8) (w.extractLsb' 0 8) m) else none
  | 0xAA => if fixedBits w 0xFF80FFFF 0xAA000000 then some (.batch (w.extractLsb' 16 7) m) else none
  | 0xAB => if fixedBits w 0xFFFF00FF 0xAB000000 then some (.waitb (w.extractLsb' 8 8) m) else none
  | 0xAC => if fixedBits w 0xFF000000 0xAC000000 then some (.pref (w.extractLsb' 16 8) (w.extractLsb' 8 8) (w.extractLsb' 0 8) m) else none
  | 0xAD => if fixedBits w 0xFFFFFFFF 0xAD000000 then some (.fence m) else none
  | 0xAE => if fixedBits w 0xFF800000 0xAE000000 then some (.atom (w.extractLsb' 16 7) (w.extractLsb' 8 8) (w.extractLsb' 0 8) m) else none
  | 0xAF => if fixedBits w 0xFF800000 0xAF000000 then some (.uatom (w.extractLsb' 16 7) (w.extractLsb' 8 8) (w.extractLsb' 0 8) m) else none
  | _ => none

/-- The instructions of opcodes 0xB0-0xC4 (R58): the instruction, with the bits its row fixes checked. -/
def decodeSync (op : Nat) (w : Word) (m : Mods) : Option Instr :=
  match op with
  | 0xB8 => if fixedBits w 0xFF800000 0xB8000000 then some (.wlpush (w.extractLsb' 16 7) (w.extractLsb' 8 8) (w.extractLsb' 0 8) m) else none
  | 0xB9 => if fixedBits w 0xFF800000 0xB9000000 then some (.wlpop (w.extractLsb' 16 7) (w.extractLsb' 8 8) (w.extractLsb' 0 8) m) else none
  | 0xBA => if fixedBits w 0xFF800000 0xBA000000 then some (.wlins (w.extractLsb' 16 7) (w.extractLsb' 8 8) (w.extractLsb' 0 8) m) else none
  | 0xBB => if fixedBits w 0xFF800000 0xBB000000 then some (.wlbind (w.extractLsb' 16 7) (w.extractLsb' 8 8) (w.extractLsb' 0 8) m) else none
  | 0xBC => if fixedBits w 0xFF8000FF 0xBC000000 then some (.wlcnt (w.extractLsb' 16 7) (w.extractLsb' 8 8) m) else none
  | 0xBD => if fixedBits w 0xFFF000FF 0xBD000000 then some (.bara (w.extractLsb' 16 4) (w.extractLsb' 8 8) m) else none
  | 0xBE => if fixedBits w 0xFFF000FF 0xBE000000 then some (.barw (w.extractLsb' 16 4) (w.extractLsb' 8 8) m) else none
  | 0xBF => if fixedBits w 0xFFF000FF 0xBF000000 then some (.baraw (w.extractLsb' 16 4) (w.extractLsb' 8 8) m) else none
  | 0xC0 => if fixedBits w 0xFF000000 0xC0000000 then some (.gath (w.extractLsb' 16 8) (w.extractLsb' 8 8) (w.extractLsb' 0 8) m) else none
  | 0xC1 => if fixedBits w 0xFF800000 0xC1000000 then some (.scat (w.extractLsb' 16 7) (w.extractLsb' 8 8) (w.extractLsb' 0 8) m) else none
  | 0xC2 => if fixedBits w 0xFF800000 0xC2000000 then some (.scatadd (w.extractLsb' 16 7) (w.extractLsb' 8 8) (w.extractLsb' 0 8) m) else none
  | 0xC3 => if fixedBits w 0xFF000000 0xC3000000 then some (.lgath (w.extractLsb' 16 8) (w.extractLsb' 8 8) (w.extractLsb' 0 8) m) else none
  | 0xC4 => if fixedBits w 0xFF000000 0xC4000000 then some (.lscat (w.extractLsb' 16 8) (w.extractLsb' 8 8) (w.extractLsb' 0 8) m) else none
  | _ => none

/-- The instructions of opcodes 0xC5-0xCF (R58): the instruction, with the bits its row fixes checked. -/
def decodeMatrix (op : Nat) (w : Word) (m : Mods) : Option Instr :=
  match op with
  | 0xC6 => if fixedBits w 0xFF000000 0xC6000000 then some (.setshape (w.extractLsb' 19 5) (w.extractLsb' 16 3) (w.extractLsb' 8 8) (w.extractLsb' 0 8) m) else none
  | 0xC7 => if fixedBits w 0xFF80F8FE 0xC7000000 then some (.getshape (w.extractLsb' 16 7) (w.extractLsb' 8 3) (w.extractLsb' 0 1) m) else none
  | 0xC8 => if fixedBits w 0xFF800000 0xC8000000 then some (.mma (w.extractLsb' 20 3) (w.extractLsb' 16 4) (w.extractLsb' 8 8) (w.extractLsb' 0 8) m) else none
  | 0xC9 => if fixedBits w 0xFF800000 0xC9000000 then some (.mmas (w.extractLsb' 20 3) (w.extractLsb' 16 4) (w.extractLsb' 8 8) (w.extractLsb' 0 8) m) else none
  | 0xCA => if fixedBits w 0xFF800000 0xCA000000 then some (.mmabx (w.extractLsb' 20 3) (w.extractLsb' 16 4) (w.extractLsb' 8 8) (w.extractLsb' 0 8) m) else none
  | 0xCB => if fixedBits w 0xFF80F0FF 0xCB000000 then some (.scacc (w.extractLsb' 20 3) (w.extractLsb' 16 4) (w.extractLsb' 8 4) m) else none
  | 0xCC => if fixedBits w 0xFFF0FFFF 0xCC000000 then some (.accz (w.extractLsb' 16 4) m) else none
  | 0xCD => if fixedBits w 0xFF8000FE 0xCD000000 then some (.accld (w.extractLsb' 20 3) (w.extractLsb' 16 4) (w.extractLsb' 8 8) (w.extractLsb' 0 1) m) else none
  | 0xCE => if fixedBits w 0xFF8000FE 0xCE000000 then some (.accst (w.extractLsb' 20 3) (w.extractLsb' 16 4) (w.extractLsb' 8 8) (w.extractLsb' 0 1) m) else none
  | 0xCF => if fixedBits w 0xFF80F0F8 0xCF000000 then some (.accrd (w.extractLsb' 16 7) (w.extractLsb' 8 4) (w.extractLsb' 0 3) m) else none
  | _ => none

/-- The instructions of opcodes 0xD0-0xFE (R58): the instruction, with the bits its row fixes checked. -/
def decodeSystem (op : Nat) (w : Word) (m : Mods) : Option Instr :=
  match op with
  | 0xD0 => if fixedBits w 0xFFF80000 0xD0000000 then some (.gload (w.extractLsb' 16 3) (w.extractLsb' 8 8) (w.extractLsb' 0 8) m) else none
  | 0xD1 => if fixedBits w 0xFF800000 0xD1000000 then some (.gjob (w.extractLsb' 16 7) (w.extractLsb' 8 8) (w.extractLsb' 0 8) m) else none
  | 0xD2 => if fixedBits w 0xFF80FF00 0xD2000000 then some (.gstat (w.extractLsb' 16 7) (w.extractLsb' 0 8) m) else none
  | 0xD3 => if fixedBits w 0xFF800000 0xD3000000 then some (.lattach (w.extractLsb' 16 7) (w.extractLsb' 8 8) (w.extractLsb' 0 8) m) else none
  | 0xD4 => if fixedBits w 0xFFFFFF00 0xD4000000 then some (.lfree (w.extractLsb' 0 8) m) else none
  | 0xD5 => if fixedBits w 0xFF80FF00 0xD5000000 then some (.gfold (w.extractLsb' 16 7) (w.extractLsb' 0 8) m) else none
  | 0xD8 => if fixedBits w 0xFF0000FF 0xD8000000 then some (.sysrd (w.extractLsb' 16 8) (w.extractLsb' 8 8) m) else none
  | 0xD9 => if fixedBits w 0xFFFF0000 0xD9000000 then some (.syswr (w.extractLsb' 8 8) (w.extractLsb' 0 8) m) else none
  | 0xDA => if fixedBits w 0xFFFC00FF 0xDA000000 then some (.rtrap (w.extractLsb' 16 2) (w.extractLsb' 8 8) m) else none
  | 0xDB => if fixedBits w 0xFFFFFFFF 0xDB000000 then some (.rflt m) else none
  | 0xDC => if fixedBits w 0xFF800000 0xDC000000 then some (.mapf (w.extractLsb' 16 7) (w.extractLsb' 8 8) (w.extractLsb' 0 8) m) else none
  | 0xDD => if fixedBits w 0xFFFE00FF 0xDD000000 then some (.tlbinv (w.extractLsb' 16 1) (w.extractLsb' 8 8) m) else none
  | 0xDE => if fixedBits w 0xFF800000 0xDE000000 then some (.ctxsv (w.extractLsb' 16 7) (w.extractLsb' 8 8) (w.extractLsb' 0 8) m) else none
  | 0xDF => if fixedBits w 0xFFFF0000 0xDF000000 then some (.ctxld (w.extractLsb' 8 8) (w.extractLsb' 0 8) m) else none
  | 0xE0 => if fixedBits w 0xFFFF0000 0xE0000000 then some (.park (w.extractLsb' 0 16) m) else none
  | _ => none

/-- The instruction of a word whose opcode is assigned (R58); `none` when a bit its row fixes differs. -/
def decodeAssigned (op : Nat) (w : Word) (m : Mods) : Option Instr :=
  if op ≤ 0x0F then decodeControl op w m
  else if op ≤ 0x31 then decodeLaneInt op w m
  else if op ≤ 0x3F then decodeCross op w m
  else if op ≤ 0x56 then decodeFloat op w m
  else if op ≤ 0x7F then decodePacked op w m
  else if op ≤ 0x9F then decodeUniform op w m
  else if op ≤ 0xAF then decodeMemory op w m
  else if op ≤ 0xC4 then decodeSync op w m
  else if op ≤ 0xCF then decodeMatrix op w m
  else if op ≤ 0xFE then decodeSystem op w m
  else none

/-- R50 to R59: read the word `w` after the prefix words `pre`, in the order of R57. -/
def decodeWith (pre : List Word) (w : Word) : Except DecodeError Instr :=
  let op := (w.extractLsb' 24 8).toNat
  if op = 0x00 then .ok (.ill pre (w.extractLsb' 0 24))
  else if op = 0xFF then .ok (.illFf pre (w.extractLsb' 0 24))
  else if opcodeUnassigned op then .ok (.unassignedOpcode pre w)
  else if op = 0xFB then
    if pre.isEmpty && (w.extractLsb' 18 6).toNat < 63 then
      if w.extractLsb' 0 12 = 0 then .ok (.str (w.extractLsb' 18 6) (w.extractLsb' 12 6))
      else .error .illegalOperand
    else .error .illegalInstruction
  else
    match readMods 0 Mods.none false pre with
    | none => .error .illegalInstruction
    | some (m, reserved) =>
      if Machine.prefixesAccepted (w.extractLsb' 24 8) m then
        if reserved then .error .illegalOperand
        else match decodeAssigned op w m with
          | some i => .ok i
          | none => .error .illegalOperand
      else .error .illegalInstruction

/-- Read the instruction that starts a list of words. A list that ends before the instruction does gives an illegal
instruction (R51); at most five words are kept (R40). -/
def decode (ws : List Word) : Decoded :=
  match splitPrefixes ws with
  | (pre, w :: _) => { words := (pre ++ [w]).take 5, result := decodeWith (pre.take 4) w }
  | (pre, []) => { words := pre.take 5, result := .error .illegalInstruction }

/-- R40, R51: a word that stands before the last word of an instruction inside an open run: `STR` is a prefix as well. -/
def isRunPrefix (w : Word) : Bool := isPrefixWord w || w.extractLsb' 24 8 == 0xFB

/-- The words of an instruction that starts a list of words of a run: its prefix words, and the rest of the list. -/
def splitRun (ws : List Word) : List Word × List Word :=
  match ws with
  | [] => ([], [])
  | w :: rest =>
    if isRunPrefix w then
      let r := splitRun rest
      (w :: r.1, r.2)
    else ([], w :: rest)

/-- R51, R57, R106: read the instruction that starts the words left in an open run. With an `STR` among its prefixes it
is `ILL` when its last word is, and an illegal instruction otherwise; a `GEND` of any words is an illegal instruction. -/
def decodeInside (ws : List Word) : Decoded :=
  match splitRun ws with
  | (pre, []) => { words := pre.take 5, result := .error .illegalInstruction }
  | (pre, w :: _) =>
    let op := (w.extractLsb' 24 8).toNat
    let words := (pre ++ [w]).take 5
    if pre.any fun x => x.extractLsb' 24 8 == 0xFB then
      if op = 0x00 then { words := words, result := .ok (.ill (pre.take 4) (w.extractLsb' 0 24)) }
      else if op = 0xFF then { words := words, result := .ok (.illFf (pre.take 4) (w.extractLsb' 0 24)) }
      else { words := words, result := .error .illegalInstruction }
    else if op = 0x06 then { words := words, result := .error .illegalInstruction }
    else decode ws

/-- The instruction that the decoder reads from the words of one table row (the words above `nbits` are zero). -/
def decodeTableWord (nbits w : Nat) : Option Instr :=
  let word := BitVec.ofNat 32 (w % 2 ^ nbits)
  match (decode [word, 0, 0, 0, 0]).result with
  | .ok i => some i
  | .error _ => none

/-- The `REP` word (R52). -/
def wordOfRep (r : Rep) : Word := 0xF8#8 ++ r.cnt ++ r.dStep ++ r.aStep ++ r.bStep ++ 0#12

/-- The `EXT` word (R53). -/
def wordOfExt (e : Ext) : Word :=
  0xF9#8 ++ BitVec.ofBool e.ge ++ BitVec.ofBool e.gn ++ e.gp ++ e.scope ++ BitVec.ofBool e.vol ++ e.rnd
    ++ BitVec.ofBool e.sat ++ e.ty ++ e.md

/-- The `LIMM` word (R54). -/
def wordOfLimm (l : BitVec 24) : Word := 0xFA#8 ++ l

/-- The non-prefix word of an instruction (R41 and the class tables). -/
def Instr.word (i : Instr) : Word :=
  let p := Machine.partsOf i
  p.op ++ p.d ++ p.a ++ p.b

/-- The prefix words of an instruction, in the order of R50. -/
def encodeMods (m : Mods) : List Word :=
  (match m.rep with | some r => [wordOfRep r] | none => []) ++ (match m.ext with | some e => [wordOfExt e] | none => [])
    ++ (match m.limm with | some l => [wordOfLimm l] | none => [])

/-- The words of an instruction. A step of another agent has none that anything reads. -/
def encode (i : Instr) : List Word :=
  match i with
  | .ill pre _ => pre ++ [i.word]
  | .illFf pre _ => pre ++ [i.word]
  | .unassignedOpcode pre _ => pre ++ [i.word]
  | i => encodeMods (Machine.modsOf i) ++ [i.word]

end Sys2Proof
end

