-- ==== Sys2Proof/Machine/State.lean ====
section
/-!
DEFINITION. The state of the PX-880: every piece of state the spec gives the machine, as plain data (INVENTORY.md,
'State'), the reasons a step ends in a fault or a refusal, and the state after reset.
-/
namespace Sys2Proof.Machine

/-- A sparse table: keys strictly rising, no entry equal to what an unlisted key reads as. -/
abbrev SMap (α : Type) := List (Nat × α)

/-- R31: a latch; none: stale. -/
abbrev Latch := Option DWord

/-- R338, R339, R236: what the device records of a lane's trap or fault. The trap record and the memory fault
record are laid out from these fields. -/
structure TrapRec where
  cause : BitVec 8
  words : List Word
  blk : BitVec 6
  off : BitVec 16
  rpt : BitVec 8
  lwin : BitVec 8
  uwin : BitVec 9
  pred : BitVec 16
  code : BitVec 16
  lat0 : Latch
  lat1 : Latch
  lat2 : Latch
  lat3 : Latch
  kernel : Word
  tmask : Word
  va : DWord
  elem : Word
  res : Word
  ndrop : BitVec 6
  cpyf : Bool
  lane : BitVec 5
  deriving DecidableEq, Repr

/-- R101, R358: whether a lane is parked and how. -/
inductive Hold where
  | free                                  -- not parked
  | replay                                -- released: replays from its position before the next vote (R119)
  | pending (r : TrapRec)                 -- parked with a pending record
  | waiting (code : Option (BitVec 16))   -- parked, no record pending, awaits release; the PARK code if it holds one
  deriving DecidableEq, Repr

/-- One lane of a group (R101, R91, R31, R32, R118). -/
structure Lane where
  lb : BitVec 6
  nb : Option (BitVec 6)
  hold : Hold
  off : BitVec 16
  rpt : BitVec 8
  regs : SMap Word
  preds : BitVec 16
  win : BitVec 8
  lat0 : Latch
  lat1 : Latch
  lat2 : Latch
  lat3 : Latch
  deriving DecidableEq, Repr

/-- R51, R106: the open strand run: its block, the words left in it. -/
structure Strand where
  blk : BitVec 6
  left : Nat
  deriving DecidableEq, Repr

/-- R103 to R109, R119: a walk over the code of a gate. `base` is the virtual address of its first word, `pos` the
next word, `offs` the words of canonical code passed for each block, `rpt` the repeat index of the instruction at
`pos`. `replay` is none for a gate that a vote chose, and the lanes that have joined for a replay. -/
structure Run where
  kern : Nat
  mask : BitVec 64
  base : Nat
  len : Nat
  pos : Nat
  strand : Option Strand
  offs : SMap Nat
  rpt : Nat
  replay : Option Word
  deriving DecidableEq, Repr

/-- Where a group's gate walk stands. -/
inductive Ctl where
  | between          -- between gates: steps 2 to 4 of R109 come next
  | run (r : Run)    -- inside a gate or a replay
  deriving DecidableEq, Repr

/-- R336: what becomes of a handler lane's faulted code. -/
inductive Disp where
  | finish
  | resume
  | park (code : BitVec 16)
  deriving DecidableEq, Repr

/-- R335: one lane of a handler pass: its `TREC` with the position that `RTRAP` has edited (R357), its disposition,
whether form 0 or 1 of `RTRAP` has been used, and the position of its record, where a parked lane stays (R336). -/
structure PassLane where
  trec : TrapRec
  orig : TrapRec
  disp : Disp
  edited : Bool
  blk : BitVec 6
  off : BitVec 16
  rpt : BitVec 8
  deriving DecidableEq, Repr

/-- R335: a handler pass: its kind, its lanes `mask`, the handler and what is restored after it. -/
structure Pass where
  fault : Bool
  mask : Word
  handler : Nat
  waits : SMap Nat
  uwin : BitVec 9
  qpreds : BitVec 8
  lanes : SMap PassLane
  deriving DecidableEq, Repr

/-- R190, R191: an accumulator tile with its side record. Element (m, n) has key 128 m + n. -/
structure Tile where
  elems : SMap Word
  poison : DWord
  xfmt : BitVec 5
  xa : SMap Byte
  xb : SMap Byte
  deriving DecidableEq, Repr

/-- What a group that is not ready waits for (R93, R270, R308): a request, a barrier's round, an item, the batches up
to a number, room for a batch, copy, list instruction or job (R240, R242, R289, R314), its queued matrix instructions
on the tiles of a set (R197), the engine's queue to be shorter than the given number of its instructions (R197), the copies and list instructions that hold bytes of
scratch that it is to read or store (R234, R241, R297), the holders of the lines of some addresses and the rate limit for some
bytes on its die (R241, R257, R349, R378). -/
inductive Wait where
  | none
  | req (id : Nat)
  | bar (cluster : Bool) (key n : Nat) (round : BitVec 16)
  | item (id : Nat)
  | batch (n : Nat)
  | batchRoom
  | copyRoom
  | listRoom
  | jobRoom
  | engine (tiles : Nat)
  | moves (queued : Nat)
  | lines (addrs : List Nat) (bytes : Nat)
  | bytes (cluster : Bool) (place : Nat) (store : Bool) (ranges : List (Nat × Nat))
  deriving DecidableEq, Repr

/-- R361: a context save or load that takes effect at step 3 of the next `GEND`. -/
inductive CtxReq where
  | save (dest va : Nat) (entry : BitVec 512)
  | load (image : List Byte)
  deriving DecidableEq, Repr

/-- R36, R241: a closed batch that no `WAITB` has seen complete without a fault: its number and items, whether it is
complete, whether a `WAITB` has parked lanes for its fault. -/
structure Batch where
  num : Nat
  items : List Nat
  complete : Bool
  shown : Bool
  deriving DecidableEq, Repr

/-- A group (R18, R91, R101, R186, R192). -/
structure Group where
  uid : Nat
  part : Nat
  launch : Nat
  crew : Nat
  num : Nat
  cls : BitVec 2
  kern : Nat
  nreg : Nat
  nacc : Nat
  lanes : List Lane
  uregs : SMap Word
  qpreds : BitVec 8
  uwin : BitVec 9
  waits : SMap Nat
  bclose : Nat
  batches : List Batch
  pend : List Nat
  njobs : Nat
  jobs : SMap Nat
  pms : SMap (BitVec 384)
  shapes : SMap (BitVec 128)
  rowm : SMap DWord
  colm : SMap (BitVec 128)
  tiles : SMap Tile
  trapvec : Word
  ctl : Ctl
  pass : Option Pass
  wait : Wait
  preempt : Bool
  ctxReq : Option CtxReq
  lastIssue : Option Nat
  deriving DecidableEq, Repr

/-- R268: a barrier. -/
structure Barrier where
  round : BitVec 16
  exp : BitVec 6
  arr : BitVec 6
  deriving DecidableEq, Repr

/-- R89, R90, R217: a crew. `core` is the core it stands on, none while it is pre-empted, and `slots` the slots that it
holds there, by the keys of groups; `scratch` is its own region of core scratch; `saved` holds the groups of a pre-empted
crew, `areas` the parts of the save area that their images take (R354). -/
structure Crew where
  launch : Nat
  index : Nat
  part : Nat
  core : Option Nat
  slots : List Nat
  die : Nat
  size : Nat
  live : Nat
  set : Nat
  stamp : Nat
  bars : SMap Barrier
  scratch : List Host.Cell
  saved : List Group
  areas : List Nat
  deriving DecidableEq, Repr

/-- R92, R284: the chair of a launch that starts groups from a work list. `entry` is the list's resource entry. -/
structure Chair where
  entry : BitVec 512
  header : Nat
  period : Nat
  limit : Nat
  cid : DWord
  expired : Bool
  resident : Nat
  started : Nat
  bound : Bool
  deriving DecidableEq, Repr

/-- R83: the states of a launch; a launch that is Done leaves the state. -/
inductive LaunchState where
  | queued
  | waiting
  | placing
  | running
  | completing
  deriving DecidableEq, Repr

/-- R81 to R86: a launch with its record. `queue` is 0-63, or 64 for the device pool (R99). `firstCycle` and `lastCycle` are
the cycles of its first crew's placement and of its last crew's retirement so far (R24). -/
structure Launch where
  part : Nat
  queue : Nat
  lrec : BitVec 1024
  cls : BitVec 2
  lstate : LaunchState
  met : BitVec 4
  placed : Nat
  retired : Nat
  firstCycle : Option DWord
  lastCycle : Option DWord
  uj : Nat
  chair : Option Chair
  deriving DecidableEq, Repr

/-- R83: a launch queue: its class and its launches in order. -/
structure Queue where
  cls : BitVec 2
  items : List Nat
  deriving DecidableEq, Repr

/-- R63, R103, R384: a loaded kernel. `canon` is its blocks' canonical code. -/
structure Kernel where
  modId : Nat
  gateTable : Nat
  codeBase : Nat
  entry : Nat
  nreg : Nat
  nureg : Nat
  nacc : Nat
  crew : Nat
  scratch : Nat
  canon : List (List Word)
  deriving DecidableEq, Repr

/-- R383: a loaded module. `dropped` is its load report: the `.gate` directives that the loader dropped (R26, R167), by
kernel and place among the kernel's directives; `spans` are the ranges of memory of its items, gate tables and gate code (R299). -/
structure Module where
  name : Nat
  version : Nat
  dropped : List (Nat × Nat)
  spans : List (Nat × Nat)
  deriving DecidableEq, Repr

/-- R219, R222: an entry of a channel's TLB with its hotness: requests since the last count, and the counter. -/
structure TlbEntry where
  fset : Nat
  w : Bool
  big : Bool
  requests : Nat
  hot : BitVec 8
  deriving DecidableEq, Repr

/-- R219: an entry of a stack's TLB. -/
structure StackTlb where
  fset : Nat
  w : Bool
  big : Bool
  deriving DecidableEq, Repr

/-- R378: a bucket of the limiter: what it held at a cycle, in units of 2^-16 byte; below 0 while a request larger than the
bucket is being paid for (notes/assumptions/54). -/
structure Bucket where
  level : Int
  cycle : DWord
  deriving DecidableEq, Repr

/-- R381, R287: a peer window; `live` once both operators have sent matching messages. -/
structure PeerWindow where
  base : Nat
  size : Nat
  device : Nat
  peerPart : Nat
  live : Bool
  deriving DecidableEq, Repr

/-- R340: the system registers of a partition that the loader or the device sets. -/
structure SysRegs where
  fltvec : Word
  emuj : Nat
  elost : Word
  mlost : Word
  rtbase : DWord
  rtcnt : Word
  hotbase : DWord
  ptbase : Word
  fpool : Word
  hbase : DWord
  vwbase : DWord
  fzbase : DWord
  svbase : DWord
  erbase : DWord
  mrbase : DWord
  fqbase : DWord
  deriving DecidableEq, Repr

/-- R375 to R384: a partition. `turn` is the round-robin of R87: for 4 × die + class one more than the queue served last.
While a resize runs (R379), `moving` holds the lines still to move to another slice, `newGroups` the new parity groups
and `restripe` the pages still to be restriped, each with whether it is of 2 MiB. `bad` holds the lines whose data DRAM
cannot correct (R346), `badParity` the stripes, by their first line, whose parity line it cannot correct, `lost` the lines
that are lost (R348); `aliased` the frame sets that more than one page maps or still caches, with those pages, and `owners` the lines
of them, by frame set and place, that have been stored to since: the address under which alone, none for several (R221); `stlb` the TLBs of the stacks
(R219); `resident` the items of the resident segments of the work lists, by header address and item number (R276); `buckets`
the buckets of the limiter, by die (R378). `views` gives the 2 MiB units of the view space that handles hold, by their first unit:
their number and the address of the record (R321, R323), `frozen` the entries that each attach froze, by that address (R324);
`factors` the bytes of the factors in the factor store, by entry
index (R327). `tokens` are the binding tokens given so far, `named` the entry indices that `RES` messages have named, `bound`
those that the loader has bound itself (R384), `given` the frame sets of 64 KiB that the loader has given the partition, for tables,
pages and its pool: a handler can hold one that is in no table and not in the pool (R17, R343). `peerData` is what the last
read by a peer device returned (R256). -/
structure Partition where
  vf : Nat
  clusters : BitVec 128
  slices : BitVec 128
  groups : BitVec 16
  regs : SysRegs
  fqlost : Word
  tails : SMap DWord
  queues : SMap Queue
  pool : List Nat
  kernels : SMap Kernel
  modules : SMap Module
  highest : SMap Nat
  slots : SMap (BitVec 1536)
  views : SMap (Nat × Nat)
  frozen : SMap (List Nat)
  factors : SMap Nat
  tlb : SMap TlbEntry
  stlb : SMap StackTlb
  bad : List Nat
  badParity : List Nat
  lost : List Nat
  aliased : SMap (List Nat)
  owners : SMap (Option Nat)
  resident : SMap (SMap Nat)
  buckets : SMap Bucket
  rate : Nat
  peers : List PeerWindow
  tenantKey : Option (BitVec 768)
  supKey : BitVec 768
  turn : SMap Nat
  moving : List Nat
  restripe : List (Nat × Bool)
  newGroups : Option (BitVec 16)
  tokens : List Word
  named : List Nat
  bound : List Nat
  given : List Nat
  peerData : List Byte
  deriving DecidableEq, Repr

/-- The accesses of one lane of an instruction, or of the group, before they are performed. -/
inductive AccOp where
  | load (dest : Nat)
  | store (value : DWord)
  | atom (op : BitVec 5) (dest : Nat) (v1 v2 : DWord)
  | addTo (value : DWord)
  | gather (dest : Nat)
  | scatter (value : DWord)
  deriving DecidableEq, Repr

/-- One access: its lane (32: the uniform pipe), the element's coordinates and flat index. -/
structure Acc where
  lane : Nat
  coords : List Nat
  elem : Nat
  op : AccOp
  done : Bool
  translated : Bool
  injected : Bool
  deriving DecidableEq, Repr

/-- A memory instruction whose accesses are still to be performed (R232, R257, R264, R286). An orphan's group has been
contained: its stores are still performed (R344). -/
structure Req where
  group : Nat
  part : Nat
  entry : BitVec 512
  res : Word
  ty : BitVec 5
  trec : TrapRec
  uniform : Bool
  sel : Word
  accs : List Acc
  orphan : Bool
  deriving DecidableEq, Repr

/-- R238 to R240: a copy, as captured at issue. `lin`: addressed as a linear resource. `next` is the first unit (an
element, or a block) not moved; `drops` are counted under `BND` 1, `dropElem` is the first. `len` is the length of its
extent in scratch. -/
structure CopyDesc where
  store : Bool
  lin : Bool
  entry : BitVec 512
  res : Word
  core : Bool
  place : Nat
  off : Nat
  len : Nat
  rp : Nat
  mp : Nat
  rows : Nat
  cols : Nat
  origin : List Nat
  next : Nat
  drops : Nat
  dropElem : Nat
  reached : Nat
  deriving DecidableEq, Repr

/-- R295, R296: a list instruction, as captured at issue. `todo` are the entries not yet moved; `drops` and `reached` as in a
copy. -/
structure ListDesc where
  scatter : Bool
  list : BitVec 512
  data : BitVec 512
  res : Word
  core : Bool
  place : Nat
  off : Nat
  len : Nat
  first : Nat
  width : Nat
  rp : Nat
  todo : List Nat
  drops : Nat
  dropElem : Nat
  reached : Nat
  deriving DecidableEq, Repr

/-- R313: one phase of a job, with the entries it names. -/
structure Phase where
  slot : Nat
  s0 : BitVec 512
  s0ix : Word
  s1 : Option (BitVec 512)
  s1ix : Word
  out : Option (BitVec 512)
  outIx : Word
  deriving DecidableEq, Repr

/-- R301, R308, R314, R319: a job's state at one channel: the rows still to do, the next phase of the first of them,
accumulators and prev, and the images of its phases' slots as they stood at its start there, empty before it. `counted`: the
first of the rows counts as skipped already (R315). -/
structure ChanJob where
  rows : List Nat
  phase : Nat
  acc : SMap Word
  prev : SMap Word
  images : List (BitVec 1536)
  suspended : Bool
  stopped : Bool
  counted : Bool
  deriving DecidableEq, Repr

/-- R314, R315, R329: a job, or a fold when `fold` holds the handle's entry. `sent` is its place among the events of the
groomers when its batch closed, `queued` its place when it last reached the channels; `fault` is the record of the
channel that stopped first. -/
structure JobDesc where
  phases : List Phase
  first : Nat
  count : Nat
  fold : Option (BitVec 512)
  chans : SMap ChanJob
  sent : Nat
  queued : Nat
  skipped : Nat
  skipElem : Nat
  skipRes : Nat
  rowsDone : Nat
  fault : Option TrapRec
  deriving DecidableEq, Repr

/-- What an engine or the device still has to do for a group: a copy, a list instruction, a job; a `GLOAD` that waits for
jobs, with its place among the events of the groomers (R308); an `LATTACH` that waits for requests, with the entry that
it writes and the uniform register of its status (R323, R324); an `LFREE` that waits for requests and items (R328). -/
inductive ItemKind where
  | copy (c : CopyDesc)
  | list (l : ListDesc)
  | job (j : JobDesc)
  | gload (slot : Nat) (image : BitVec 1536) (issued : Nat) (jobs : List Nat)
  | lattach (dst : Nat) (handle : BitVec 512) (dest : Nat) (reqs : List Nat)
  | lfree (handle : BitVec 512) (reqs jobs : List Nat)
  deriving DecidableEq, Repr

/-- Where an item stands. -/
inductive ItemState where
  | pending     -- not in a closed batch
  | running
  | complete
  | stopped (r : TrapRec)
  deriving DecidableEq, Repr

/-- An item: its owner group, what it does, the record its faults are made from. -/
structure Item where
  owner : Nat
  launch : Nat
  part : Nat
  core : Nat
  kind : ItemKind
  istate : ItemState
  trec : TrapRec
  deriving DecidableEq, Repr

/-- R201, R202: an operand of the matrix engine: the bytes of a fragment as read at issue, packed row by row with the
metadata after the values, or a place in cluster scratch, `side` bytes from whose start the metadata stands. -/
inductive EngOperand where
  | frag (bytes : List Byte)
  | scratch (cluster off pitch side : Nat)
  deriving DecidableEq, Repr

/-- R215: where a move of tile elements reads or writes: a linear resource, by its entry as read at issue, its index, the index
of element (0, 0) and the row pitch; or cluster scratch, by its offset and row pitch. -/
inductive TilePlace where
  | mem (entry : BitVec 512) (res first pitch : Nat)
  | scratch (cluster off pitch : Nat)
  deriving DecidableEq, Repr

/-- R212 to R216: what a queued matrix instruction does. `bases` are the first registers of the destination of an `ACCRD`, by
lane. -/
inductive EngKind where
  | mma (sparse : Bool) (ty : BitVec 5) (tile m n k : Nat) (a b : EngOperand)
  | mmabx (ty : BitVec 5) (tile m n : Nat) (a b : EngOperand)
  | scacc (tile part m n : Nat)
  | accz (tile : Nat)
  | accld (ty : BitVec 5) (tile m n : Nat) (place : TilePlace)
  | accst (ty : BitVec 5) (ext : Ext) (tile m n : Nat) (place : TilePlace)
  | accrd (ty : BitVec 5) (ext : Ext) (tile m n : Nat) (bases : List Nat)
  deriving DecidableEq, Repr

/-- R197, R198, R203, R331: a queued matrix instruction: its group with the lanes selected and the kernel at issue, the cycle
in which it issued, its class,
captured masks, next run, its extents in scratch (cluster, offset, length), the registers that it reads as fragments (the first by
lane, and how many), the number of the next item at its issue,
the operand bytes once the ownership point of R203 has passed, the rows whose metadata word of the group of 24
positions under way storage could not give (R205), and the record that its faults are made from (R196). -/
structure EngOp where
  group : Nat
  sel : Word
  kern : Nat
  cycle : DWord
  cls : BitVec 2
  kind : EngKind
  rowm : DWord
  colm : BitVec 128
  run : Nat
  extents : List (Nat × Nat × Nat)
  frags : List (List Nat × Nat)
  since : Nat
  owned : Option (List Byte × List Byte)
  lost : List Nat
  trec : TrapRec
  deriving DecidableEq, Repr

/-- R115: an entry of a core's miss-record filter. -/
structure FilterEntry where
  kern : Nat
  set : BitVec 64
  cyc : DWord
  supp : BitVec 16
  deriving DecidableEq, Repr

/-- R93: a sequencer's turn: the slot whose turn it is, and its consecutive issues; and the cycle of its last issue. -/
structure Seq where
  slot : Option Nat
  streak : Nat
  last : Option DWord
  deriving DecidableEq, Repr

/-- R25: what the units have counted since the last sample of energy: by core and launch its issue slots and the accumulation steps of
the engine; by channel the bytes of requests and jobs of each launch (by its name and 1) and of other work (0). -/
structure Meters where
  slots : SMap (SMap Nat)
  steps : SMap (SMap Nat)
  traffic : SMap (SMap Nat)
  deriving DecidableEq, Repr

/-- R25: nothing counted. -/
def Meters.zero : Meters := { slots := [], steps := [], traffic := [] }

/-- R386: the boot state. -/
inductive Boot where
  | rom
  | retry
  | running
  deriving DecidableEq, Repr

/-- R367, R368: a message slot; `arrived` is the place of its header in the order in which headers have arrived, `earlier` what
8-byte words of its body held before the host wrote them in a slot whose `OWN` was 1, by the number of the word. -/
structure MsgSlot where
  header : DWord
  body : BitVec 1984
  arrived : Nat
  earlier : List (Nat × DWord)
  deriving DecidableEq, Repr

/-- R387: what a measurement of a partition's configuration holds. -/
structure Measure where
  part : Nat
  clusters : BitVec 128
  slices : BitVec 128
  groups : BitVec 16
  rate : Nat
  peers : List PeerWindow
  key : Option (BitVec 768)
  deriving DecidableEq, Repr

/-- R387: the measurements that a function receives: of the ROM, of the firmware and of the loader, and of the configurations
that it may know. -/
structure Measurements where
  rom : BitVec 384
  firmware : BitVec 384
  loader : BitVec 384
  parts : List Measure
  deriving DecidableEq, Repr

/-- R365, R366, R371: a PCIe function. `raised` counts the interrupts of each vector. `readData` is what its last read through
the aperture returned, `measured` its last measurements (R387), `buffers` what the loader has written into host memory for it: kernel handles, by IOVA (R369). -/
structure Fn where
  slots : SMap MsgSlot
  apbase : DWord
  raised : SMap Nat
  msix : SMap DWord
  session : Bool
  readData : List Byte
  measured : Option Measurements
  buffers : SMap (List Word)
  deriving DecidableEq, Repr

/-- R349, R350: a memory stack: in self-refresh, under refresh takeover. -/
structure Stack where
  held : Bool
  takeover : Bool
  deriving DecidableEq, Repr

/-- R347, R385: a memory channel: failed, the lane ratio in force, the one it quiesces for. -/
structure Channel where
  failed : Bool
  ratio : BitVec 2
  quiesce : Option (BitVec 2)
  deriving DecidableEq, Repr

/-- The device as a whole. `firmware` and `loader` are the measurements of the running image, 0 before one runs (R387); `pkgUj` the package
energy in microjoules (R366); `arrivals` counts the message headers that have arrived (R368); `openMsg` is a message of the physical
function whose reply waits: its slot, type and tag (R379, R385). -/
structure Device where
  boot : Boot
  fwVersion : Nat
  firmware : BitVec 384
  loader : BitVec 384
  svn : Nat
  limit : Nat
  mhz : Nat
  pkgUj : Nat
  arrivals : Nat
  openMsg : Option (Nat × BitVec 8 × Word)
  fns : SMap Fn
  memStacks : SMap Stack
  chans : SMap Channel
  deriving DecidableEq, Repr

/-- One turn of the schedule (notes/assumptions/3): a step of another agent; an error that DRAM cannot correct, in the line of
an address or in the parity line of its stripe (R346); or an issue on a sequencer, `wait` cycles after the last turn, with its
accesses left to later events when `defer` is set. Sequencers can issue in one cycle (R93). -/
inductive Turn where
  | event (i : Instr)
  | dramError (part va : Nat) (parity : Bool)
  | issue (core seq wait : Nat) (defer : Bool)
  deriving DecidableEq, Repr

/-- The state. Groups have key core × 32 + sequencer × 8 + slot; crews, launches, requests and items have names of
their own. `mem` is DRAM: the byte of (partition, frame set, offset) has key (partition × 2^32 + frame set) × 2^21
+ offset. `cscratch` is cluster scratch with key cluster × 2^21 + offset. `cbars` holds the
cluster barriers of each cluster set, with key (launch × 2^32 + set) × 8 + number. -/
structure State where
  agenda : List Turn
  cycle : DWord
  freeCtr : Nat
  cur : Option Nat
  prevIssue : Option Nat
  defer : Bool
  nextUid : Nat
  nextItem : Nat
  nextReq : Nat
  stamp : Nat
  mem : List Host.Cell
  cscratch : List Host.Cell
  cbars : SMap Barrier
  dev : Device
  parts : SMap Partition
  launches : SMap Launch
  crews : SMap Crew
  groups : SMap Group
  reqs : SMap Req
  items : SMap Item
  engines : SMap (List EngOp)
  filters : SMap (List FilterEntry)
  tableFaults : List Nat
  seqs : SMap Seq
  meters : Meters
  deriving DecidableEq, Repr

/-- Why the model stops. -/
inductive Fault where
  /-- Raised by the meaning of an instruction with words when no group is issuing it. Safe: in the hardware an
  instruction executes only on an issue of a group (R93), so no behaviour is lost. -/
  | noIssuingGroup
  /-- Raised by a step of another agent whose conditions the spec does not hold met in this state (no such launch,
  copy, request; a wait not over). Safe: the hardware takes no such step. -/
  | notEnabled
  /-- Raised by a step of another agent whose argument is one that agent never gives (a cluster that does not exist,
  a gate that breaks R105, a message of a function that does not exist). Safe: the hardware takes no such step. -/
  | badArgument
  /-- Raised by `step` when the next word of gate code lies on a page that is not mapped, or a gate has no word left and no
  `GEND`. The loader installs no such gate (R105, R116), and the spec gives the sequencer no effect for it. Safe. -/
  | gateCodeBroken
  deriving DecidableEq, Repr

/-- What the model gives no meaning to. -/
inductive Refusal where
  /-- Raised by `exec` for an instruction that has no meaning yet, by the mnemonic of its row. Safe. -/
  | notModelled (mnemonic : String)
  deriving DecidableEq, Repr

/-- R386, R21, R2: the device after reset, before the boot ROM has fetched an image. -/
def Device.reset : Device :=
  { boot := .rom, fwVersion := 0, firmware := 0, loader := 0, svn := 0, limit := 1800, mhz := 3300, pkgUj := 0, arrivals := 0,
    openMsg := none, fns := [], memStacks := [], chans := [] }

/-- The machine right after reset: the boot ROM has run nothing, no partition exists (R386, R375). -/
def State.reset : State :=
  { agenda := [], cycle := 0, freeCtr := 0, cur := none, prevIssue := none, defer := false, nextUid := 0, nextItem := 0, nextReq := 0,
    stamp := 0, mem := [], cscratch := [], cbars := [], dev := Device.reset, parts := [], launches := [],
    crews := [], groups := [], reqs := [], items := [], engines := [], filters := [], tableFaults := [],
    seqs := [], meters := Meters.zero }

end Sys2Proof.Machine
end

