-- ==== Sys2Proof/Machine/Map.lean ====
section
/-!
DEFINITION. Sparse tables and memory: reading and writing an entry, the canonical form, little-endian bytes (R1).
An unlisted key reads as the table's default; a write of the default removes the entry.
-/
namespace Sys2Proof.Machine

/-- The entry of a key, the default where none is listed. -/
def smGet {α : Type} (d : α) (m : SMap α) (k : Nat) : α :=
  match m with
  | [] => d
  | (k', v) :: rest => if k = k' then v else if k < k' then d else smGet d rest k

/-- Drop the leading entries with keys up to `k`. -/
def smDrop {α : Type} (m : SMap α) (k : Nat) : SMap α :=
  match m with
  | [] => []
  | (k', v) :: rest => if k' ≤ k then smDrop rest k else (k', v) :: rest

/-- Write an entry, keeping keys rising and defaults unlisted. -/
def smSet {α : Type} [DecidableEq α] (d : α) (m : SMap α) (k : Nat) (v : α) : SMap α :=
  match m with
  | [] => if v = d then [] else [(k, v)]
  | (k', v') :: rest =>
    if k < k' then (if v = d then (k', v') :: rest else (k, v) :: (k', v') :: rest)
    else if k = k' then (if v = d then smDrop rest k else (k, v) :: rest)
    else (k', v') :: smSet d rest k v

/-- The canonical form: keys strictly rising, no default listed. -/
def smWf {α : Type} [DecidableEq α] (d : α) (m : SMap α) : Bool :=
  match m with
  | [] => true
  | [(_, v)] => v ≠ d
  | (k, v) :: (k', v') :: rest => v ≠ d && k < k' && smWf d ((k', v') :: rest)

/-- A table of things that may be absent: the thing named by a key. -/
def smFind {α : Type} (m : SMap α) (k : Nat) : Option α :=
  match m with
  | [] => none
  | (k', v) :: rest => if k = k' then some v else if k < k' then none else smFind rest k

/-- Put a thing under its key. -/
def smPut {α : Type} (m : SMap α) (k : Nat) (v : α) : SMap α :=
  match m with
  | [] => [(k, v)]
  | (k', v') :: rest =>
    if k < k' then (k, v) :: (k', v') :: rest
    else if k = k' then (k, v) :: rest
    else (k', v') :: smPut rest k v

/-- Remove the thing of a key. -/
def smErase {α : Type} (m : SMap α) (k : Nat) : SMap α :=
  match m with
  | [] => []
  | (k', v') :: rest =>
    if k < k' then (k', v') :: rest
    else if k = k' then smDrop rest k
    else (k', v') :: smErase rest k

/-- Keys strictly rising: the canonical form of a table of things that may be absent. -/
def smRising {α : Type} (m : SMap α) : Bool :=
  match m with
  | [] => true
  | [_] => true
  | (k, _) :: (k', v') :: rest => k < k' && smRising ((k', v') :: rest)

/-- What a byte of memory that nothing has written reads as (R370: frame sets are zeroed before they reach a
partition; notes/assumptions/6). -/
def unwrittenByte : Byte := 0

/-- Memory is in canonical form. -/
def Memory.wf (m : List Host.Cell) : Bool := smWf unwrittenByte m

/-- The byte at an address. -/
def memGet (m : List Host.Cell) (a : Nat) : Byte := smGet unwrittenByte m a

/-- Write the byte at an address. -/
def memSet (m : List Host.Cell) (a : Nat) (v : Byte) : List Host.Cell := smSet unwrittenByte m a v

/-- R1: the value of `n` bytes from an address, the lowest address holding the least significant byte. -/
def memRead (m : List Host.Cell) (a n : Nat) : Nat :=
  match n with
  | 0 => 0
  | n + 1 => (memGet m a).toNat + 256 * memRead m (a + 1) n

/-- R1: write the low `n` bytes of a value from an address. -/
def memWrite (m : List Host.Cell) (a n v : Nat) : List Host.Cell :=
  match n with
  | 0 => m
  | n + 1 => memWrite (memSet m a (BitVec.ofNat 8 v)) (a + 1) n (v / 256)

/-- The bytes from an address, in order. -/
def memBytes (m : List Host.Cell) (a n : Nat) : List Byte :=
  match n with
  | 0 => []
  | n + 1 => memGet m a :: memBytes m (a + 1) n

/-- Write bytes from an address, in order. -/
def memPut (m : List Host.Cell) (a : Nat) (bs : List Byte) : List Host.Cell :=
  match bs with
  | [] => m
  | b :: rest => memPut (memSet m a b) (a + 1) rest

/-- R1: the number that bytes in order make up. -/
def leNat (bs : List Byte) : Nat :=
  match bs with
  | [] => 0
  | b :: rest => b.toNat + 256 * leNat rest

/-- R1: the `n` bytes of a number, least significant first. -/
def leBytes (n v : Nat) : List Byte :=
  match n with
  | 0 => []
  | n + 1 => BitVec.ofNat 8 v :: leBytes n (v / 256)

/-- R1: bits [lo + n - 1 : lo] of a number. -/
def bitsOf (v lo n : Nat) : Nat := v / 2 ^ lo % 2 ^ n

/-- The lane numbers, ascending (R6). -/
def laneIxs : List Nat :=
  [0, 1, 2, 3, 4, 5, 6, 7, 8, 9, 10, 11, 12, 13, 14, 15, 16, 17, 18, 19, 20, 21, 22, 23, 24, 25, 26, 27, 28, 29, 30, 31]

/-- R7: `lanes(mask)`. -/
def lanesOf (m : Word) : List Nat := laneIxs.filter fun l => m.getLsbD l

/-- The mask of the lanes that satisfy a test. -/
def maskOf (f : Nat → Bool) : Word :=
  laneIxs.foldl (fun acc l => if f l then acc ||| BitVec.ofNat 32 (2 ^ l) else acc) 0

end Sys2Proof.Machine
end

