-- ==== Sys2Proof/Machine/Numbers.lean ====
section
/-!
DEFINITION. Number formats and arithmetic rules (spec/04): the types of R55, IEEE-style formats (R64 to R66), the
block formats (R67 to R69), integers (R70, R71), rounding and overflow (R72, R73), conversions (R74, R75).
A finite value is held exactly, as sign, magnitude and power of two.
-/
namespace Sys2Proof.Machine

/-- R55, R70, R64: the width of a type in bits; 0 for a code that names no scalar type. Block elements count the
bits of one element. -/
def tyBits (t : BitVec 5) : Nat :=
  match t.toNat with
  | 1 => 8 | 2 => 8 | 3 => 16 | 4 => 16 | 5 => 32 | 6 => 32 | 7 => 64 | 8 => 64 | 9 => 4 | 10 => 4
  | 16 => 32 | 17 => 16 | 18 => 16 | 19 => 8 | 20 => 8 | 21 => 8 | 22 => 4
  | _ => 0

/-- R70: the signed integer types. -/
def tySigned (t : BitVec 5) : Bool := t == 1 || t == 3 || t == 5 || t == 7 || t == 9

/-- R55: the integer types. -/
def tyIsInt (t : BitVec 5) : Bool := 1 ≤ t.toNat && t.toNat ≤ 10

/-- R55: the IEEE-style formats. -/
def tyIsFloat (t : BitVec 5) : Bool := 16 ≤ t.toNat && t.toNat ≤ 20

/-- R55: the block formats. -/
def tyIsBlock (t : BitVec 5) : Bool := t == 21 || t == 22

/-- R64: a floating-point format. `maxCode` is the largest finite pattern, `hasInf` whether infinities exist. -/
structure Format where
  bits : Nat
  bias : Nat
  mant : Nat
  maxCode : Nat
  hasInf : Bool
  infCode : Nat
  nanCode : Nat
  deriving DecidableEq, Repr

/-- R64, R66: the formats. -/
def formatOf (t : BitVec 5) : Format :=
  match t.toNat with
  | 17 => { bits := 16, bias := 15, mant := 10, maxCode := 0x7BFF, hasInf := true, infCode := 0x7C00, nanCode := 0x7E00 }
  | 18 => { bits := 16, bias := 127, mant := 7, maxCode := 0x7F7F, hasInf := true, infCode := 0x7F80, nanCode := 0x7FC0 }
  | 19 => { bits := 8, bias := 7, mant := 3, maxCode := 0x7E, hasInf := false, infCode := 0x7F, nanCode := 0x7F }
  | 20 => { bits := 8, bias := 15, mant := 2, maxCode := 0x7B, hasInf := true, infCode := 0x7C, nanCode := 0x7E }
  | _ => { bits := 32, bias := 127, mant := 23, maxCode := 0x7F7FFFFF, hasInf := true, infCode := 0x7F800000,
           nanCode := 0x7FC00000 }

/-- An exact value: (-1)^neg × m × 2^e. -/
inductive FVal where
  | nan
  | inf (neg : Bool)
  | fin (neg : Bool) (m : Nat) (e : Int)
  deriving DecidableEq, Repr

/-- R72: the rounding modes. -/
inductive Rounding where
  | rne | rtz | rdn | rup | rna
  deriving DecidableEq, Repr

/-- R53: the mode of an `RND` code. -/
def roundingOf (c : BitVec 3) : Rounding :=
  match c.toNat with
  | 1 => .rtz | 2 => .rdn | 3 => .rup | 4 => .rna
  | _ => .rne

/-- R64, R65, R66: the value of a pattern. -/
def fval (f : Format) (pat : Nat) : FVal :=
  let p := pat % 2 ^ f.bits
  let neg := p / 2 ^ (f.bits - 1) == 1
  let mag := p % 2 ^ (f.bits - 1)
  if mag > f.maxCode then
    if f.hasInf && mag == f.infCode then .inf neg else .nan
  else
    let ex := mag / 2 ^ f.mant
    let frac := mag % 2 ^ f.mant
    if ex = 0 then .fin neg frac (1 - (f.bias : Int) - f.mant)
    else .fin neg (2 ^ f.mant + frac) ((ex : Int) - f.bias - f.mant)

/-- The number of bits of a magnitude. -/
def bitLen (m : Nat) : Nat := if m = 0 then 0 else Nat.log2 m + 1

/-- R72: whether the magnitude is rounded up, from the kept part's parity, the dropped part against half, and
whether anything was dropped. -/
def roundsUp (mode : Rounding) (neg odd : Bool) (cmpHalf : Ordering) (inexact : Bool) : Bool :=
  match mode with
  | .rne => cmpHalf == .gt || (cmpHalf == .eq && odd)
  | .rna => cmpHalf == .gt || cmpHalf == .eq
  | .rtz => false
  | .rdn => inexact && neg
  | .rup => inexact && !neg

/-- R72: m × 2^-k rounded to an integer under the mode; `sticky` says that a non-zero amount below m was dropped
before. -/
def roundShift (mode : Rounding) (neg : Bool) (m k : Nat) (sticky : Bool) : Nat :=
  let q := m / 2 ^ k
  let r := m % 2 ^ k
  let c : Ordering :=
    if k = 0 then .lt
    else
      let half := 2 ^ (k - 1)
      if r < half then .lt else if r = half then (if sticky then .gt else .eq) else .gt
  if roundsUp mode neg (q % 2 == 1) c (r != 0 || sticky) then q + 1 else q

/-- R73: the pattern that replaces an overflowing magnitude. -/
def overflowCode (f : Format) (mode : Rounding) (sat neg : Bool) : Nat :=
  if sat then f.maxCode
  else match mode with
    | .rne => f.infCode
    | .rna => f.infCode
    | .rtz => f.maxCode
    | .rdn => if neg then f.infCode else f.maxCode
    | .rup => if neg then f.maxCode else f.infCode

/-- R66, R73: the pattern of a sign and a magnitude code; the NaN of `.e4m3` that stands for an infinity is the
canonical one. -/
def signed (f : Format) (neg : Bool) (mag : Nat) : Nat :=
  if mag > f.maxCode && !f.hasInf then f.nanCode else if neg then mag + 2 ^ (f.bits - 1) else mag

/-- R72, R73: (-1)^neg × m × 2^e rounded once to a format, as a pattern. -/
def roundMag (f : Format) (mode : Rounding) (sat neg : Bool) (m : Nat) (e : Int) (sticky : Bool) : Nat :=
  if m = 0 && !sticky then signed f neg 0
  else
    let emin : Int := 1 - (f.bias : Int)
    let top : Int := (bitLen m : Int) - 1 + e
    let q : Int := (if top < emin then emin else top) - f.mant
    let sig := if q ≤ e then m * 2 ^ (e - q).toNat else roundShift mode neg m (q - e).toNat sticky
    let code := (q - (emin - f.mant)).toNat * 2 ^ f.mant + sig
    if code > f.maxCode then signed f neg (overflowCode f mode sat neg) else signed f neg code

/-- R66, R72, R73: an exact value rounded to a format. -/
def roundVal (f : Format) (mode : Rounding) (sat : Bool) (v : FVal) : Nat :=
  match v with
  | .nan => f.nanCode
  | .inf neg => signed f neg (if sat then f.maxCode else f.infCode)
  | .fin neg m e => roundMag f mode sat neg m e false

/-- The signed numerator of a finite value over 2^e. -/
def toInt (neg : Bool) (m : Nat) : Int := if neg then -(m : Int) else m

/-- R72: the exact sum; an exact zero from opposite signs is +0, or -0 under RDN. -/
def fAdd (mode : Rounding) (a b : FVal) : FVal :=
  match a, b with
  | .nan, _ => .nan
  | _, .nan => .nan
  | .inf x, .inf y => if x = y then .inf x else .nan
  | .inf x, _ => .inf x
  | _, .inf y => .inf y
  | .fin na ma ea, .fin nb mb eb =>
    let e := if ea < eb then ea else eb
    let s := toInt na (ma * 2 ^ (ea - e).toNat) + toInt nb (mb * 2 ^ (eb - e).toNat)
    if s = 0 then
      if na = nb then .fin na 0 e else .fin (mode == .rdn) 0 e
    else .fin (s < 0) s.natAbs e

/-- The value with its sign inverted. -/
def fNegate (a : FVal) : FVal :=
  match a with
  | .nan => .nan
  | .inf n => .inf !n
  | .fin n m e => .fin (!n) m e

/-- R66, R171: the exact product; 0 × ∞ is invalid. -/
def fMul (a b : FVal) : FVal :=
  match a, b with
  | .nan, _ => .nan
  | _, .nan => .nan
  | .inf x, .inf y => .inf (x != y)
  | .inf x, .fin y m _ => if m = 0 then .nan else .inf (x != y)
  | .fin x m _, .inf y => if m = 0 then .nan else .inf (x != y)
  | .fin x m e, .fin y n k => .fin (x != y) (m * n) (e + k)

/-- R174: the order of two values; none when unordered. -/
def fCompare (a b : FVal) : Option Ordering :=
  match a, b with
  | .nan, _ => none
  | _, .nan => none
  | .inf x, .inf y => some (if x = y then .eq else if x then .lt else .gt)
  | .inf x, _ => some (if x then .lt else .gt)
  | _, .inf y => some (if y then .gt else .lt)
  | .fin na ma ea, .fin nb mb eb =>
    let e := if ea < eb then ea else eb
    some (compare (toInt na (ma * 2 ^ (ea - e).toNat)) (toInt nb (mb * 2 ^ (eb - e).toNat)))

/-- The sign of a value. -/
def fSign (a : FVal) : Bool :=
  match a with
  | .nan => false
  | .inf n => n
  | .fin n _ _ => n

/-- R172: whether a stands at or below b, with -0 below +0. -/
def fLeSigned (a b : FVal) : Bool :=
  match fCompare a b with
  | some .lt => true
  | some .gt => false
  | some .eq => fSign a || !fSign b
  | none => false

/-- R70: the integer of a pattern at a type. -/
def intVal (t : BitVec 5) (pat : Nat) : Int :=
  let w := tyBits t
  let p := pat % 2 ^ w
  if tySigned t && 2 * p ≥ 2 ^ w then (p : Int) - 2 ^ w else p

/-- R70: the least value of an integer type. -/
def intMin (t : BitVec 5) : Int := if tySigned t then -(2 ^ (tyBits t - 1) : Int) else 0

/-- R70: the greatest value of an integer type. -/
def intMax (t : BitVec 5) : Int := if tySigned t then 2 ^ (tyBits t - 1) - 1 else 2 ^ tyBits t - 1

/-- R71: an exact result fitted to an integer type, as its w-bit pattern. -/
def intFit (t : BitVec 5) (sat : Bool) (x : Int) : Nat :=
  let y := if sat then (if x < intMin t then intMin t else if x > intMax t then intMax t else x) else x
  (y % (2 ^ tyBits t : Int)).toNat

/-- R46: a w-bit pattern of a type as it is written to a register: sign-extended for signed types narrower than 32
bits, zero-extended otherwise. 64-bit types keep 64 bits. -/
def widen (t : BitVec 5) (pat : Nat) : DWord :=
  let w := tyBits t
  if w < 32 && tySigned t && 2 * (pat % 2 ^ w) ≥ 2 ^ w then BitVec.ofNat 64 (pat % 2 ^ w + 2 ^ 32 - 2 ^ w)
  else BitVec.ofNat 64 (pat % 2 ^ w)

/-- R74: a finite value rounded to an integer under the mode. -/
def roundInt (mode : Rounding) (neg : Bool) (m : Nat) (e : Int) : Int :=
  toInt neg (if 0 ≤ e then m * 2 ^ e.toNat else roundShift mode neg m (-e).toNat false)

/-- R67: an element of a block format: sign, selector, magnitude. -/
structure BlockElem where
  neg : Bool
  sel : Bool
  m : Nat
  deriving DecidableEq, Repr

/-- R67: the fields of an element code. -/
def blockElem (t : BitVec 5) (code : Nat) : BlockElem :=
  if t = 21 then { neg := bitsOf code 7 1 == 1, sel := bitsOf code 6 1 == 1, m := bitsOf code 0 6 }
  else { neg := bitsOf code 3 1 == 1, sel := bitsOf code 2 1 == 1, m := bitsOf code 0 2 }

/-- R67: the code of an element. -/
def blockCode (t : BitVec 5) (x : BlockElem) : Nat :=
  if t = 21 then (if x.neg then 128 else 0) + (if x.sel then 64 else 0) + x.m % 64
  else (if x.neg then 8 else 0) + (if x.sel then 4 else 0) + x.m % 4

/-- R69: an exponent byte of 0xFF is read as 0xFE. -/
def blockExp (e : Nat) : Nat := if e % 256 = 255 then 254 else e % 256

/-- R69: an element code of S 1 and m 0 is read as the code 0. -/
def blockRead (t : BitVec 5) (code : Nat) : Nat :=
  let x := blockElem t code
  if x.neg && x.m == 0 then 0 else blockCode t x

/-- R67: the power of two that the magnitude is divided by: SC is 32 or 2. -/
def blockScale (t : BitVec 5) : Nat := if t = 21 then 5 else 1

/-- R67, R69: the value of an element under its block's exponents. -/
def blockVal (t : BitVec 5) (e0 e1 code : Nat) : FVal :=
  let x := blockElem t (blockRead t code)
  let e := blockExp (if x.sel then e1 else e0)
  .fin x.neg x.m ((e : Int) - 127 - blockScale t)

/-- R182: the block word of an element. -/
def blockWord (t : BitVec 5) (e0 e1 code : Nat) : Nat :=
  blockExp e1 * 2 ^ 16 + blockExp e0 * 2 ^ 8 + blockRead t code

/-- R75: the floor of the base-2 logarithm of the largest magnitude of a list, infinities counting as 2^128; none
when every value is zero or NaN. -/
def blockBig (xs : List FVal) : Option Int :=
  xs.foldl (fun acc x =>
    let l : Option Int := match x with
      | .nan => none
      | .inf _ => some 128
      | .fin _ m e => if m = 0 then none else some ((bitLen m : Int) - 1 + e)
    match acc, l with
    | none, l => l
    | some a, none => some a
    | some a, some b => some (if a < b then b else a)) none

/-- R75: |rint(x × SC × 2^(127 - e), mode)|. -/
def blockRint (t : BitVec 5) (mode : Rounding) (neg : Bool) (m : Nat) (e : Int) (ex : Nat) : Nat :=
  (roundInt mode neg m (e + blockScale t + 127 - ex)).natAbs

/-- R75: the exponents of the block that 32 values make. -/
def blockExps (t : BitVec 5) (xs : List FVal) : Nat × Nat :=
  let d := if t = 21 then 4 else 2
  let e1 : Nat := match blockBig xs with
    | none => d
    | some l =>
      let e := l + 127
      if e < d then d else if e > 254 then 254 else e.toNat
  (e1 - d, e1)

/-- R75: the element code of one value in a block with the given exponents. -/
def blockQuant (t : BitVec 5) (mode : Rounding) (e0 e1 : Nat) (x : FVal) : Nat :=
  let mmax := if t = 21 then 63 else 3
  match x with
  | .nan => 0
  | .inf neg =>
    let big := mmax
    blockCode t { neg := neg, sel := true, m := big }
  | .fin neg m e =>
    let t0 := blockRint t mode neg m e e0
    let el : BlockElem :=
      if t0 ≤ mmax then { neg := neg, sel := false, m := t0 }
      else { neg := neg, sel := true, m := min (blockRint t mode neg m e e1) mmax }
    blockCode t { el with neg := el.neg && el.m != 0 }

/-- R69, R70, R74: the exact value of a source at a type. A block source is a block word (R182). -/
def valueAt (t : BitVec 5) (pat : Nat) : FVal :=
  if tyIsInt t then
    let x := intVal t pat
    .fin (x < 0) x.natAbs 0
  else if tyIsBlock t then blockVal t (bitsOf pat 8 8) (bitsOf pat 16 8) (bitsOf pat 0 8)
  else fval (formatOf t) pat

/-- R74: convert an exact value to a scalar type, as a w-bit pattern. An integer result of a value with a sign of
zero is 0. What R74's table has no row for (an integer to an integer of its own width, a block value to an integer) is
treated as a narrower integer and as a float source are (notes/assumptions/50). -/
def convertTo (t : BitVec 5) (mode : Rounding) (sat : Bool) (v : FVal) : Nat :=
  if tyIsInt t then
    match v with
    | .nan => 0
    | .inf neg => if sat then intFit t true (if neg then intMin t else intMax t) else 0
    | .fin neg m e => intFit t sat (roundInt mode neg m e)
  else roundVal (formatOf t) mode sat v

/-- R74: an integer converted to a wider integer is extended, and `.sat` does nothing. -/
def widensInt (src t : BitVec 5) : Bool := tyIsInt src && tyIsInt t && decide (tyBits src < tyBits t)

end Sys2Proof.Machine
end

