-- ==== Sys2Proof/Machine/Ops.lean ====
section
/-!
DEFINITION. The named operations over the state: lanes and groups, physical addresses and translation (R219, R220,
R342), rings and events (R372, R373, R345), records (R338, R236), taking a trap or fault (R5, R57, R237) and
returning from it (R335), containment (R344), retirement (R100).
-/
namespace Sys2Proof.Machine

/-- The outcome of a step of this machine. -/
abbrev Out := Host.Outcome State Fault Refusal

/-! ### Lanes and groups -/

/-- R91: a lane at group start. -/
def laneInit (entry : BitVec 6) : Lane :=
  { lb := entry, nb := none, hold := .free, off := 0, rpt := 0, regs := [], preds := 1, win := 0, lat0 := none,
    lat1 := none, lat2 := none, lat3 := none }

/-- The lane of a group. -/
def getLane (g : Group) (l : Nat) : Lane := g.lanes.getD l (laneInit 63)

/-- Every lane changed by a function of its number. -/
def mapLanes (g : Group) (f : Nat → Lane → Lane) : Group :=
  { g with lanes := laneIxs.map fun l => f l (getLane g l) }

/-- One lane changed. -/
def setLane (g : Group) (l : Nat) (ln : Lane) : Group := mapLanes g fun j old => if j = l then ln else old

/-- R190, R191: a tile as it is at placement. -/
def Tile.zero : Tile := { elems := [], poison := 0, xfmt := 0, xa := [], xb := [] }

/-- R268: a barrier at reset. -/
def Barrier.zero : Barrier := { round := 0, exp := 0, arr := 0 }

/-- R186: the identity permutation: entry i = i. -/
def identityTable : BitVec 384 := BitVec.ofNat 384 ((List.range 64).reverse.foldl (fun acc i => acc * 64 + i) 0)

/-- R29: a lane predicate; p0 reads true. -/
def lanePred (ln : Lane) (p : Nat) : Bool := p % 16 == 0 || ln.preds.getLsbD (p % 16)

/-- R29: a uniform predicate; q0 reads true. -/
def uniPred (g : Group) (q : Nat) : Bool := q % 8 == 0 || g.qpreds.getLsbD (q % 8)

/-- R13: a uniform register. -/
def getUreg (g : Group) (n : Nat) : Word := smGet 0 g.uregs n

/-- Write a uniform register. -/
def setUreg (g : Group) (n : Nat) (v : Word) : Group := { g with uregs := smSet 0 g.uregs n v }

/-- A lane register by its absolute number. -/
def getReg (ln : Lane) (n : Nat) : Word := smGet 0 ln.regs n

/-- Write a lane register by its absolute number. -/
def setReg (ln : Lane) (n : Nat) (v : Word) : Lane := { ln with regs := smSet 0 ln.regs n v }

/-- R31: the latches shift by one place and a result enters `b0`; none: a stale value. -/
def shiftLatches (ln : Lane) (v : Latch) : Lane :=
  { ln with lat3 := ln.lat2, lat2 := ln.lat1, lat1 := ln.lat0, lat0 := v }

/-- R31: every latch of a lane becomes stale. -/
def staleLane (ln : Lane) : Lane := { ln with lat0 := none, lat1 := none, lat2 := none, lat3 := none }

/-- R31, R93: every latch of every lane of the group becomes stale, as at a switch point. -/
def staleAll (g : Group) : Group := mapLanes g fun _ ln => staleLane ln

/-- R119: a group in a replay. -/
def inReplay (g : Group) : Bool :=
  match g.ctl with
  | .run r => r.replay.isSome
  | .between => false

/-- R31, R93, R119: a switch point inside a gate: every latch becomes stale; in a replay the lanes that have still to join
keep theirs, with which they resume (R96). -/
def staleSwitch (g : Group) : Group :=
  mapLanes g fun _ ln => if inReplay g && ln.hold == .replay then ln else staleLane ln

/-- The number of the core in a group's key. -/
def coreOfKey (k : Nat) : Nat := k / 32

/-- R12: the die of a core. -/
def dieOfCore (core : Nat) : Nat := core / 128

/-- R12: the package-wide cluster of a core. -/
def clusterOfCore (core : Nat) : Nat := core / 4

/-- The running gate of a group. -/
def runOf (g : Group) : Option Run :=
  match g.ctl with
  | .run r => some r
  | .between => none

/-- R118: the canonical offset of the next instruction of the open strand. -/
def offOf (r : Run) : Nat :=
  match r.strand with
  | some st => smGet 0 r.offs st.blk.toNat
  | none => 0

/-- R101, R106, R119, R335: whether the strand of block `blk` selects a lane: the block belongs to the gate, the
lane's block register names it, the lane is not parked and has not executed its terminator; in a handler pass only
its lanes take part, and in a replay only the lanes that have joined. -/
def laneSelected (g : Group) (r : Run) (blk : BitVec 6) (l : Nat) : Bool :=
  let ln := getLane g l
  r.mask.getLsbD blk.toNat && ln.lb == blk && ln.hold == .free && ln.nb.isNone
    && (match g.pass with | some p => p.mask.getLsbD l | none => true)
    && (match r.replay with | some j => j.getLsbD l | none => true)

/-- R45: the strand mask: the lanes that the current strand selects. -/
def selectedMask (g : Group) : Word :=
  match runOf g with
  | none => 0
  | some r => match r.strand with
    | none => 0
    | some st => maskOf (laneSelected g r st.blk)

/-- R53, R135: the executing lanes: the selected lanes whose guard holds. -/
def guardMask (g : Group) (e : Ext) (sel : Word) : Word :=
  if e.ge then maskOf fun l => sel.getLsbD l && (lanePred (getLane g l) e.gp.toNat != e.gn) else sel

/-- R53: the guard of a uniform instruction. -/
def uniGuard (g : Group) (e : Ext) : Bool := !e.ge || (uniPred g e.gp.toNat != e.gn)

/-- The lowest lane of a mask. -/
def lowestLane (m : Word) : Nat := (lanesOf m).headD 0

/-! ### Parts of the state -/

/-- The group that issues. -/
def issuing (s : State) : Option (Nat × Group × Run) :=
  match s.cur with
  | none => none
  | some k => match smFind s.groups k with
    | none => none
    | some g => match runOf g with
      | none => none
      | some r => match r.strand with
        | none => none
        | some _ => some (k, g, r)

/-- Put a group into its slot. -/
def putGroup (s : State) (k : Nat) (g : Group) : State := { s with groups := smPut s.groups k g }

/-- Change a partition. -/
def putPart (s : State) (p : Nat) (x : Partition) : State := { s with parts := smPut s.parts p x }

/-- Put a launch. -/
def putLaunch (s : State) (u : Nat) (x : Launch) : State := { s with launches := smPut s.launches u x }

/-- Put a crew. -/
def putCrew (s : State) (c : Nat) (x : Crew) : State := { s with crews := smPut s.crews c x }

/-- Put an item. -/
def putItem (s : State) (n : Nat) (x : Item) : State := { s with items := smPut s.items n x }

/-- A group exists, on a core or among the groups of a pre-empted crew. -/
def groupLives (s : State) (uid : Nat) : Bool :=
  (s.groups.any fun e => e.2.uid == uid) || s.crews.any fun e => e.2.saved.any fun g => g.uid == uid

/-- R241, R344: an item stops at a fault and waits for its restart; one whose group is no more ends. -/
def stopItem (s : State) (n : Nat) (x : Item) : State :=
  if groupLives s x.owner then putItem s n x else { s with items := smErase s.items n }

/-- A sequencer that has issued nothing. -/
def Seq.zero : Seq := { slot := none, streak := 0, last := none }

/-- R93: the group's turn on its sequencer ends. -/
def endTurn (s : State) (k : Nat) : State :=
  { s with seqs := smSet Seq.zero s.seqs (k / 8) { smGet Seq.zero s.seqs (k / 8) with slot := none, streak := 0 } }

/-- A free value for what the spec leaves undefined (notes/assumptions/5). -/
def takeFree (s : State) : DWord × State := (Config.freeValue s.freeCtr, { s with freeCtr := s.freeCtr + 1 })

/-- The kernel of a handle, in a partition. -/
def findKernel (s : State) (p handle : Nat) : Option Kernel :=
  match smFind s.parts p with
  | none => none
  | some x => smFind x.kernels handle

/-! ### The energy meters' counts -/

/-- R25: a unit counts `n` more for a launch. -/
def countAt (m : SMap (SMap Nat)) (unit launch n : Nat) : SMap (SMap Nat) :=
  smSet [] m unit (smSet 0 (smGet [] m unit) launch (smGet 0 (smGet [] m unit) launch + n))

/-- R25: a core has given issue slots to a crew of a launch. -/
def countSlots (s : State) (core launch n : Nat) : State := { s with meters := { s.meters with slots := countAt s.meters.slots core launch n } }

/-- R25: the engine of a core has made an accumulation step for a launch. -/
def countStep (s : State) (core launch : Nat) : State := { s with meters := { s.meters with steps := countAt s.meters.steps core launch 1 } }

/-- R25: bytes of a request or a job of a launch, or of other work, at a channel. -/
def countTraffic (s : State) (channel : Nat) (launch : Option Nat) (bytes : Nat) : State :=
  { s with meters := { s.meters with traffic := countAt s.meters.traffic channel (match launch with | some u => u + 1 | none => 0) bytes } }

/-! ### The matrix engine's queue -/

/-- R206, R212 to R216: the tiles that a queued matrix instruction names, as a set. -/
def opTiles (x : EngKind) : Nat :=
  match x with
  | .mma _ _ t _ _ _ _ _ => 2 ^ t
  | .mmabx _ t _ _ _ _ => 15 * 2 ^ t
  | .scacc t p _ _ => Nat.lor (2 ^ t) (15 * 2 ^ p)
  | .accz t => 2 ^ t
  | .accld _ t _ _ _ => 2 ^ t
  | .accst _ _ t _ _ _ => 2 ^ t
  | .accrd _ _ t _ _ _ => 2 ^ t

/-- R215, R246: a queued instruction that is an access of its group: an `ACCST`, or an `ACCLD` from memory. -/
def isAccess (x : EngKind) : Bool :=
  match x with
  | .accld _ _ _ _ (.mem _ _ _ _) => true
  | .accst _ _ _ _ _ _ => true
  | _ => false

/-- R203, R249, R254: an access of a group stands in the engine's queue, issued before an item `before`. -/
def accessQueued (s : State) (k before : Nat) : Bool :=
  s.engines.any fun e => e.2.any fun o => o.group == k && decide (o.since ≤ before) && isAccess o.kind

/-- R197: how many instructions of a group stand in the engine's queue. -/
def queueLength (s : State) (k : Nat) : Nat := (s.engines.flatMap fun e => e.2.filter fun o => o.group == k).length

/-- R201: the registers of a fragment of `n` bytes. -/
def fragRegs (n : Nat) : Nat := (n + 127) / 128

/-- Whether two ranges, each a start and a length, meet. -/
def rangesMeet (a n b m : Nat) : Bool := decide (a < b + m) && decide (b < a + n)

/-- R197, R216: a queued `ACCRD` of a group writes one of `n` registers of a lane from `lo` on. -/
def moveWrites (s : State) (k l lo n : Nat) : Bool :=
  s.engines.any fun e => e.2.any fun o => o.group == k && o.sel.getLsbD l && (match o.kind with
    | .accrd t _ _ gm gn bases => rangesMeet (bases.getD l 0) (fragRegs (gm * gn * (tyBits t / 8))) lo n
    | _ => false)

/-- R197: a queued instruction of a group reads one of `n` registers of a lane from `lo` on as a fragment. -/
def fragmentReads (s : State) (k l lo n : Nat) : Bool :=
  s.engines.any fun e => e.2.any fun o => o.group == k && o.sel.getLsbD l
    && o.frags.any fun f => rangesMeet (f.1.getD l 0) f.2 lo n

/-- R197: whether a group has a matrix instruction queued that names a tile of a set. -/
def tilesBusy (s : State) (k tiles : Nat) : Bool :=
  s.engines.any fun e => e.2.any fun o => o.group == k && Nat.land (opTiles o.kind) tiles != 0

/-- R197: whether a group has matrix instructions queued. -/
def engineBusy (s : State) (k : Nat) : Bool := s.engines.any fun e => e.2.any fun o => o.group == k

/-- R203: a write by a group of bytes of cluster scratch waits for the ownership point of the group's own queued
instructions: they are older. `before` bounds the items issued before them. -/
def extentClaimed (s : State) (k cluster off len before : Nat) : Bool :=
  s.engines.any fun e => e.2.any fun o => o.group == k && o.owned.isNone && decide (o.since ≤ before)
    && o.extents.any fun x => x.1 == cluster && rangesMeet x.2.1 x.2.2 off len

/-! ### Physical addresses and translation -/

/-- The key of a byte of DRAM (R220). -/
def physKey (part fset off : Nat) : Nat := (part * 2 ^ 32 + fset) * 2 ^ 21 + off

/-- The outcome of translating a virtual address. `malformed`: the entry broke R220 or R342 and counts as not
mapped, with an event. -/
inductive Walk where
  | unmapped
  | malformed
  | page (fset : Nat) (w pin big : Bool)
  deriving DecidableEq, Repr

/-- R220: a page-table entry with no reserved bit set. -/
def pteOk (e : Nat) : Bool := bitsOf e 32 28 == 0

/-- R342: the key of the entry of one level for an address, in the table of frame set `t`. -/
def pteKey (part t level va : Nat) : Nat :=
  let ix := match level with
    | 1 => bitsOf va 39 13
    | 2 => bitsOf va 30 9
    | 3 => bitsOf va 21 9
    | _ => bitsOf va 16 5
  physKey part t (8 * ix)

/-- R342: walk from the table `t` of `level`, with `fuel` levels left. -/
def walkFrom (m : List Host.Cell) (part t level va fuel : Nat) : Walk :=
  match fuel with
  | 0 => .unmapped
  | fuel + 1 =>
    let e := memRead m (pteKey part t level va) 8
    if !pteOk e then .malformed
    else if bitsOf e 63 1 = 0 then .unmapped
    else
      let big := bitsOf e 60 1 == 1
      let fset := bitsOf e 0 32
      if level = 4 then
        if big then .malformed else .page fset (bitsOf e 62 1 == 1) (bitsOf e 61 1 == 1) false
      else if level = 3 && big then .page fset (bitsOf e 62 1 == 1) (bitsOf e 61 1 == 1) true
      else if bitsOf e 60 3 != 0 then .malformed
      else walkFrom m part fset (level + 1) va fuel

/-- R219, R342: translate a virtual address by the partition's page table. -/
def walk (s : State) (p va : Nat) : Walk :=
  match smFind s.parts p with
  | none => .unmapped
  | some x => if va < 2 ^ 52 then walkFrom s.mem p x.regs.ptbase.toNat 1 va 4 else .unmapped

/-- R379: an address lies on a page that is still to be restriped. -/
def toRestripe (x : Partition) (va : Nat) : Bool :=
  x.restripe.any fun q => if q.2 then va / 2 ^ 21 == q.1 / 2 ^ 21 else va / 2 ^ 16 == q.1 / 2 ^ 16

/-- R377, R379: the parity groups of an address, ascending: the new ones of a restripe once its page has moved. -/
def parityGroups (x : Partition) (va : Nat) : List Nat :=
  let mask := match x.newGroups with | some m => if toRestripe x va then x.groups else m | none => x.groups
  (List.range 16).filter fun i => mask.getLsbD i

/-- R377: the channel that homes an address: parity group, stripe and slot of its line. -/
def channelOf (x : Partition) (va : Nat) : Nat :=
  let ps := parityGroups x va
  let u := bitsOf va 7 14
  let n := ps.length
  let g := ps.getD (u % n) 0
  let q := u / n
  let parity := q / 7 % 8
  let d := q % 7
  g * 8 + (if d < parity then d else d + 1)

/-- R377: the parity channel of the stripe that an address lies in. -/
def parityChannelOf (x : Partition) (va : Nat) : Nat :=
  let ps := parityGroups x va
  let u := bitsOf va 7 14
  let g := ps.getD (u % ps.length) 0
  g * 8 + u / ps.length / 7 % 8

/-- R17, R11: the stack of a channel, and the home die of an address. -/
def stackOfChannel (c : Nat) : Nat := c / 16

/-- R219: the name of a page in a channel's TLB: channel, whether the page is of 2 MiB, page number. -/
def tlbKey (channel va : Nat) (big : Bool) : Nat :=
  (channel * 2 + if big then 1 else 0) * 2 ^ 36 + (if big then va / 2 ^ 21 else va / 2 ^ 16)

/-- What a table of translations holds for the page of an address, under the number of its channel or stack. -/
def pageIn {α : Type} (m : SMap α) (n va : Nat) : Option α :=
  match smFind m (tlbKey n va false) with
  | some e => some e
  | none => smFind m (tlbKey n va true)

/-- R219: what a channel's TLB holds for an address. -/
def tlbLookup (x : Partition) (va : Nat) : Option TlbEntry := pageIn x.tlb (channelOf x va) va

/-- R219: what a stack's TLB holds for an address. -/
def stackLookup (x : Partition) (va : Nat) : Option StackTlb := pageIn x.stlb (stackOfChannel (channelOf x va)) va

/-- R219: translation at the channel of an address: its TLB, then its stack's, then the page table. An address of 52 bits
or more names no page. -/
def channelWalk (s : State) (p va : Nat) : Walk :=
  match smFind s.parts p with
  | none => .unmapped
  | some x =>
    if 2 ^ 52 ≤ va then .unmapped
    else match tlbLookup x va with
    | some e => .page e.fset e.w false e.big
    | none => match stackLookup x va with
      | some e => .page e.fset e.w false e.big
      | none => walk s p va

/-- The key of the byte at a virtual address on a page. -/
def pageKey (p va fset : Nat) (big : Bool) : Nat := physKey p fset (if big then va % 2 ^ 21 else va % 2 ^ 16)

/-- R219: translate an address for an access of the device or the loader: the key of its byte and whether the page is
writable. -/
def translate (s : State) (p va : Nat) : Option (Nat × Bool) :=
  match channelWalk s p va with
  | .page fset w _ big => some (pageKey p va fset big, w)
  | _ => none

/-- Read `n` bytes at a virtual address, all on one page; none when the page is not mapped. -/
def readVa (s : State) (p va n : Nat) : Option Nat :=
  match translate s p va with
  | some (k, _) => some (memRead s.mem k n)
  | none => none

/-- Read `n` bytes from a virtual address, byte by byte over the pages they lie on. -/
def bytesVa (s : State) (p va n : Nat) : Option (List Byte) :=
  match n with
  | 0 => some []
  | n + 1 =>
    match translate s p va, bytesVa s p (va + 1) n with
    | some (k, _), some rest => some (memGet s.mem k :: rest)
    | _, _ => none

/-- Write bytes from a virtual address, dropping those on pages that are not mapped: a write of the device or the
loader to places that the loader has mapped. -/
def pokeVa (s : State) (p va : Nat) (bs : List Byte) : State :=
  match bs with
  | [] => s
  | b :: rest =>
    match translate s p va with
    | some (k, _) => pokeVa { s with mem := memSet s.mem k b } p (va + 1) rest
    | none => pokeVa s p (va + 1) rest

/-- R11, R377: the home die of an address. -/
def homeDie (x : Partition) (va : Nat) : Nat := stackOfChannel (channelOf x va) / 2

/-- R377: the home slice of an address, in the numbering of R375. -/
def homeSlice (x : Partition) (va : Nat) : Nat :=
  let die := homeDie x va
  let mine := (List.range 32).filter fun c => x.slices.getLsbD (32 * die + c)
  32 * die + mine.getD (Nat.xor (bitsOf va 7 14) (bitsOf va 20 14) % mine.length) 0

/-- R287: the peer window that an address lies in, once it is live. -/
def peerWindowOf (x : Partition) (va : Nat) : Option PeerWindow :=
  x.peers.find? fun w => w.live && w.base * 2 ^ 21 ≤ va && va < (w.base + w.size) * 2 ^ 21

/-! ### Interrupts, rings, events -/

/-- A function as it is after reset. -/
def Fn.zero : Fn :=
  { slots := [], apbase := 0, raised := [], msix := [], session := false, readData := [], measured := none, buffers := [] }

/-- The function of a number. -/
def getFn (s : State) (n : Nat) : Fn := (smFind s.dev.fns n).getD Fn.zero

/-- Put a function. -/
def putFn (s : State) (n : Nat) (f : Fn) : State := { s with dev := { s.dev with fns := smPut s.dev.fns n f } }

/-- R371: raise a vector of a function. -/
def raiseVector (s : State) (fn v : Nat) : State :=
  let f := getFn s fn
  putFn s fn { f with raised := smSet 0 f.raised v (smGet 0 f.raised v + 1) }

/-- R373: the three rings: base, record size, number of records, interrupt vector. -/
inductive Ring where
  | fault | miss | energy
  deriving DecidableEq, Repr

/-- R340, R373: base, record size, records and vector of a ring. -/
def ringShape (x : Partition) (r : Ring) : Nat × Nat × Nat × Nat :=
  match r with
  | .fault => (x.regs.fqbase.toNat, 64, 4096, 1)
  | .miss => (x.regs.mrbase.toNat, 32, 8192, 2)
  | .energy => (x.regs.erbase.toNat, 32, 4096, 3)

/-- R114, R24, R372: count a record that found its ring full. The counts are 32 bits wide and wrap, which the spec does not
say (notes/assumptions/48). -/
def countDrop (x : Partition) (r : Ring) : Partition :=
  match r with
  | .fault => { x with fqlost := x.fqlost + 1 }
  | .miss => { x with regs := { x.regs with mlost := x.regs.mlost + 1 } }
  | .energy => { x with regs := { x.regs with elost := x.regs.elost + 1 } }

/-- R373, R371: write a record into a ring of a partition, or count the drop. `TAIL` above `HEAD` is read as
`HEAD`; the device reads `TAIL` again before it drops a record. -/
def pushRing (s : State) (p : Nat) (r : Ring) (record : List Byte) : State :=
  match smFind s.parts p with
  | none => s
  | some x =>
    let (base, size, n, vec) := ringShape x r
    match readVa s p base 8, readVa s p (base + 64) 8 with
    | some head, some tailNow =>
      let tail := if tailNow > head then head else tailNow
      let known := (smGet 0 x.tails vec).toNat
      let full := head - known ≥ n && head - tail ≥ n
      if full then putPart s p (countDrop { x with tails := smSet 0 x.tails vec (BitVec.ofNat 64 tail) } r)
      else
        let s1 := pokeVa s p (base + 128 + size * (head % n)) record
        let s2 := pokeVa s1 p base (leBytes 8 (head + 1))
        let x' := if head - known ≥ n then { x with tails := smSet 0 x.tails vec (BitVec.ofNat 64 tail) } else x
        let s3 := putPart s2 p x'
        if tail = head then raiseVector s3 x.vf vec else s3
    | _, _ => s

/-- The fields of a fault-queue record other than `SRC` and `EVENT` (R372). -/
structure EventInfo where
  body : Nat := 0
  mask : Nat := 0
  code : Nat := 0
  addr : Nat := 0
  kernel : Nat := 0
  core : Nat := 0

/-- R372: a record for the fault queue of a partition: a device event (`src` 0) or a loader report (`src` 1). -/
def faultRecord (s : State) (p src event : Nat) (x : EventInfo) : State :=
  pushRing s p .fault
    (leBytes 64 (x.body * 2 ^ 256 + s.cycle.toNat * 2 ^ 192 + x.mask % 2 ^ 32 * 2 ^ 160 + x.code % 2 ^ 16 * 2 ^ 144
      + event * 2 ^ 136 + src * 2 ^ 134 + x.addr % 2 ^ 64 * 2 ^ 64 + x.kernel % 2 ^ 32 * 2 ^ 32 + x.core % 2 ^ 9))

/-- R345: a device event. -/
def deviceEvent (s : State) (p event : Nat) (x : EventInfo) : State := faultRecord s p 0 event x

/-- R374: a loader report. -/
def loaderReport (s : State) (p event : Nat) (x : EventInfo) : State := faultRecord s p 1 event x

/-- R220, R345: the event of an address whose page is not mapped, when its walk met a malformed entry. -/
def walkEvent (s : State) (p va core : Nat) : State :=
  match channelWalk s p va with
  | .malformed => deviceEvent s p 0x19 { addr := va, core := core }
  | _ => s

/-- R220, R345, R373: a record for the miss or the energy ring, with the walks for the ring's first page and for the record's place. -/
def pushWalked (s : State) (p : Nat) (r : Ring) (record : List Byte) (core : Nat) : State :=
  match smFind s.parts p with
  | none => s
  | some x =>
    let (base, size, n, _) := ringShape x r
    let s1 := walkEvent s p base core
    let at_ := base + 128 + size * ((readVa s p base 8).getD 0 % n)
    pushRing (if at_ / 2 ^ 16 = base / 2 ^ 16 then s1 else walkEvent s1 p at_ core) p r record

/-! ### Lines that are lost -/

/-- The line of an address. -/
def lineOf (va : Nat) : Nat := va / 128 * 128

/-- R377, R346: the data lines of the stripe that an address lies in; the last stripe of 2 MiB may hold fewer than seven. -/
def stripeLines (x : Partition) (va : Nat) : List Nat :=
  let n := (parityGroups x va).length
  let u := bitsOf va 7 14
  let g := u % n
  let q0 := u / n / 7 * 7
  (List.range 7).filterMap fun d =>
    if (q0 + d) * n + g < 2 ^ 14 then some (va / 2 ^ 21 * 2 ^ 21 + ((q0 + d) * n + g) * 128) else none

/-- R347: a channel that has been declared failed. -/
def channelFailed (s : State) (c : Nat) : Bool :=
  match smFind s.dev.chans c with
  | some x => x.failed
  | none => false

/-- R346, R347: the data of a line cannot be read from its own channel. -/
def lineBad (s : State) (x : Partition) (va : Nat) : Bool :=
  x.bad.contains (lineOf va) || channelFailed s (channelOf x va)

/-- R346: the name of an address's stripe: the first of its lines. -/
def stripeOf (x : Partition) (va : Nat) : Nat := (stripeLines x va).headD 0

/-- R346, R347: the parity line of an address's stripe cannot be read. -/
def parityBad (s : State) (x : Partition) (va : Nat) : Bool :=
  x.badParity.contains (stripeOf x va) || channelFailed s (parityChannelOf x va)

/-- R348: a line that cannot be rebuilt is lost. -/
def lineLost (s : State) (x : Partition) (va : Nat) : Bool :=
  x.lost.contains (lineOf va)
    || (lineBad s x va && (parityBad s x va || (stripeLines x va).any fun l => l != lineOf va && lineBad s x l))

/-! ### Trap and memory-fault records -/

/-- R332: the causes of traps; a memory fault of R236 cause c has cause 0x80 + c. -/
def causeIllegalInstruction : BitVec 8 := 0x01
/-- R332. -/
def causeIllegalOperand : BitVec 8 := 0x02
/-- R332. -/
def causeIll : BitVec 8 := 0x03
/-- R332. -/
def causeStaleLatch : BitVec 8 := 0x04
/-- R332. -/
def causeBreakpoint : BitVec 8 := 0x05
/-- R332. -/
def causeProgramTrap : BitVec 8 := 0x06
/-- R332. -/
def causeListOverflow : BitVec 8 := 0x07
/-- R332. -/
def causePoison : BitVec 8 := 0x08
/-- R332. -/
def causeShapeMigration : BitVec 8 := 0x09
/-- R332. -/
def causePrivilege : BitVec 8 := 0x0A
/-- R236, R332: page not mapped. -/
def causePage : BitVec 8 := 0x81
/-- R236, R332: write not permitted. -/
def causeWrite : BitVec 8 := 0x82
/-- R236, R332: out of bounds. -/
def causeBounds : BitVec 8 := 0x83
/-- R236, R332: resource index. -/
def causeIndex : BitVec 8 := 0x84
/-- R236, R332: invalid entry. -/
def causeEntry : BitVec 8 := 0x85
/-- R236, R332: kind not accepted. -/
def causeKind : BitVec 8 := 0x86
/-- R236, R332: entry unbound. -/
def causeUnbound : BitVec 8 := 0x87
/-- R236, R332: format size. -/
def causeFormat : BitVec 8 := 0x88
/-- R236, R332: scratch range. -/
def causeScratch : BitVec 8 := 0x89
/-- R236, R332: layer frozen. -/
def causeFrozen : BitVec 8 := 0x8A
/-- R236, R332: uncorrectable data. -/
def causeData : BitVec 8 := 0x8B

/-- R220, R342, R348, R345: the event of a fault at an address: a walk that meets a malformed entry, or a line that is lost. -/
def faultEvent (s : State) (p : Nat) (cause : BitVec 8) (va core : Nat) : State :=
  if cause = causePage then walkEvent s p va core
  else if cause = causeData then deviceEvent s p 0x22 { addr := lineOf va, core := core }
  else s

/-- R236, R332: a cause of the memory-fault records. -/
def isMemCause (c : BitVec 8) : Bool := 0x81 ≤ c.toNat && c.toNat ≤ 0x8B

/-- What a memory fault adds to a record (R236). -/
structure MemInfo where
  va : Nat := 0
  elem : Nat := 0
  res : Nat := 0
  ndrop : Nat := 0
  cpyf : Bool := false
  lane : Nat := 0

/-- R57, R338: the words of an instruction other than `STR`. -/
def codeWords (ws : List Word) : List Word := ws.filter fun w => w.extractLsb' 24 8 != 0xFB

/-- R338, R339, R236: the record of a lane that traps or faults at the current instruction of its group. -/
def mkRec (g : Group) (r : Run) (ws : List Word) (l : Nat) (cause : BitVec 8) (code : BitVec 16) (x : MemInfo) : TrapRec :=
  let ln := getLane g l
  { cause := cause, words := (codeWords ws).take 5, blk := (match r.strand with | some st => st.blk | none => 0),
    off := BitVec.ofNat 16 (offOf r), rpt := BitVec.ofNat 8 r.rpt, lwin := ln.win, uwin := g.uwin,
    pred := ln.preds ||| 1, code := code, lat0 := ln.lat0, lat1 := ln.lat1, lat2 := ln.lat2, lat3 := ln.lat3,
    kernel := BitVec.ofNat 32 r.kern, tmask := 0, va := BitVec.ofNat 64 x.va, elem := BitVec.ofNat 32 x.elem,
    res := BitVec.ofNat 32 x.res, ndrop := BitVec.ofNat 6 (min x.ndrop 63), cpyf := x.cpyf,
    lane := BitVec.ofNat 5 x.lane }

/-- R237, R118: park a lane with a record, its position being that of the record. -/
def parkLane (ln : Lane) (r : TrapRec) : Lane := { ln with hold := .pending r, off := r.off, rpt := r.rpt }

/-- The four stale bits of a record (R338). -/
def staleBits (r : TrapRec) : Nat :=
  (if r.lat0.isNone then 1 else 0) + (if r.lat1.isNone then 2 else 0) + (if r.lat2.isNone then 4 else 0)
    + (if r.lat3.isNone then 8 else 0)

/-- R338: the 384-bit trap record. -/
def trapRecord (r : TrapRec) (core : Nat) : Nat :=
  (r.words.foldr (fun w acc => w.toNat + 2 ^ 32 * acc) 0) * 2 ^ 224 + r.words.length % 8 * 2 ^ 221
    + r.rpt.toNat * 2 ^ 208 + r.off.toNat * 2 ^ 192 + r.blk.toNat * 2 ^ 186 + r.lwin.toNat * 2 ^ 168
    + r.uwin.toNat * 2 ^ 159 + r.pred.toNat * 2 ^ 128 + r.code.toNat * 2 ^ 112 + r.cause.toNat * 2 ^ 104
    + staleBits r * 2 ^ 100 + r.tmask.toNat * 2 ^ 64 + r.kernel.toNat * 2 ^ 32 + core % 2 ^ 9

/-- R236: the 256-bit memory fault record. -/
def memRecord (r : TrapRec) (core : Nat) : Nat :=
  r.va.toNat * 2 ^ 192 + r.elem.toNat * 2 ^ 160 + r.res.toNat % 2 ^ 16 * 2 ^ 144 + r.off.toNat * 2 ^ 128
    + r.blk.toNat * 2 ^ 122 + r.lane.toNat * 2 ^ 111 + (if r.cpyf then 2 ^ 110 else 0) + r.ndrop.toNat * 2 ^ 104
    + (r.cause.toNat - 0x80) * 2 ^ 96 + r.kernel.toNat * 2 ^ 64 + core % 2 ^ 9

/-- R237, R298, R315: a drop report: one record for the `n` lanes or elements skipped under `BND` 1, naming the first,
with the mask of the lanes concerned. -/
def dropReport (s : State) (p core : Nat) (r : TrapRec) (elem res n lane : Nat) (mask : Word) (cpyf : Bool) : State :=
  if n = 0 then s
  else
    let rec' := { r with cause := causeBounds, va := 0, elem := BitVec.ofNat 32 elem, res := BitVec.ofNat 32 res,
                         ndrop := BitVec.ofNat 6 (min n 63), cpyf := cpyf, lane := BitVec.ofNat 5 lane }
    deviceEvent s p 0x01 { body := memRecord rec' core, mask := mask.toNat, kernel := r.kernel.toNat, core := core }

/-! ### Launches and retirement -/

/-- R81: a field of a launch record. -/
def recField (r : BitVec 1024) (lo n : Nat) : Nat := bitsOf r.toNat lo n

/-- R81: the address of the completion signal. -/
def recSignal (r : BitVec 1024) : Nat := recField r 192 64

/-- R24: the cycles from the placement of a launch's first crew to the retirement of its last; 0 for a launch of which no crew was
ever placed (the model's choice, notes/assumptions/48). -/
def launchCycles (x : Launch) : Nat :=
  match x.firstCycle, x.lastCycle with
  | some a, some b => (b - a).toNat
  | _, _ => 0

/-- R24, R25: the energy record of a launch enters the energy ring. -/
def energyRecord (s : State) (p : Nat) (x : Launch) : State :=
  let lid := match x.chair with | some c => c.cid.toNat | none => (x.lrec.extractLsb' 0 64).toNat
  let q := if x.chair.isSome || x.queue ≥ 64 then 63 else x.queue
  pushWalked s p .energy
    (leBytes 32 (launchCycles x * 2 ^ 192 + x.uj % 2 ^ 64 * 2 ^ 128 + x.cls.toNat * 2 ^ 104 + q * 2 ^ 96 + lid)) 0

/-- R344, R100: what is left of some items when their groups are gone: those in flight finish. -/
def dropItems (ours : Item → Bool) (s : State) : State :=
  { s with items := s.items.filter fun e => !ours e.2 || e.2.istate == .running }

/-- Take a launch out of its queue or the device pool, and out of the state (R83: Done). -/
def dropLaunch (s : State) (u : Nat) (x : Launch) : State :=
  let s1 := { s with launches := smErase s.launches u }
  match smFind s1.parts x.part with
  | none => s1
  | some p =>
    let qs := match smFind p.queues x.queue with
      | some q => smPut p.queues x.queue { q with items := q.items.filter (· ≠ u) }
      | none => p.queues
    putPart s1 x.part { p with queues := qs, pool := p.pool.filter (· ≠ u) }

/-- The launch is Done: its energy record is written and it leaves its queue (R24, R83). -/
def finishLaunch (s : State) (u : Nat) (x : Launch) : State := dropLaunch (energyRecord s x.part x) u x

/-- R268, R18: the name of the cluster barriers of a cluster set. -/
def setKey (launch set : Nat) : Nat := launch * 2 ^ 32 + set

/-- R273: the cluster barriers of a cluster set are discarded. -/
def clearSetBars (s : State) (key : Nat) : State := { s with cbars := s.cbars.filter fun e => e.1 / 8 ≠ key }

/-- R90: the crews of a cluster set that have not retired. -/
def setCrews (s : State) (launch set : Nat) : List (Nat × Crew) :=
  s.crews.filter fun e => e.2.launch = launch && e.2.set = set

/-- R100, R273: a crew whose groups have all retired leaves its core. Its launch counts it; the launch completes
when every crew has retired (R83), and is Done at once when it has no completion signal. -/
def retireCrew (s : State) (c : Nat) (x : Crew) : State :=
  let s1 := { s with crews := smErase s.crews c }
  let s2 := if (setCrews s1 x.launch x.set).isEmpty then clearSetBars s1 (setKey x.launch x.set) else s1
  match smFind s2.launches x.launch with
  | none => s2
  | some old =>
    let ln : Launch := { old with lastCycle := some s.cycle }
    match ln.chair with
    | some ch =>
      let ch' := { ch with resident := ch.resident - 1 }
      if !ch.bound && ch'.resident = 0 then { s2 with launches := smErase s2.launches x.launch }
      else putLaunch s2 x.launch { ln with chair := some ch' }
    | none =>
      let n := ln.retired + 1
      if n = (ln.lrec.extractLsb' 128 32).toNat then
        if ln.lrec.extractLsb' 192 64 = 0 then finishLaunch s2 x.launch { ln with retired := n }
        else putLaunch s2 x.launch { ln with retired := n, lstate := .completing }
      else putLaunch s2 x.launch { ln with retired := n }

/-- R95, R96: a crew whose remaining groups are all saved leaves its core, and its launch returns to Placing. -/
def leaveCore (s : State) (c : Nat) (x : Crew) : State :=
  if x.saved.length < x.live then putCrew s c x
  else
    let s1 := putCrew s c { x with core := none, slots := [] }
    match smFind s1.launches x.launch with
    | some ln => putLaunch s1 x.launch { ln with lstate := .placing }
    | none => s1

/-- R100: a group retires; what it has queued in the matrix engine goes with its tiles. -/
def retireGroup (s : State) (k : Nat) (g : Group) : State :=
  let s1 : State :=
    { s with groups := smErase s.groups k, cur := none, items := (dropItems (fun x => x.owner == g.uid) s).items
             engines := s.engines.map fun e => (e.1, e.2.filter fun o => o.group ≠ k) }
  match smFind s1.crews g.crew with
  | none => s1
  | some c => if c.live ≤ 1 then retireCrew s1 g.crew c else leaveCore s1 g.crew { c with live := c.live - 1 }

/-- Whether the lane of an access of a request is parked in its group, while that stands. -/
def accParked (g : Option Group) (q : Req) (a : Acc) : Bool :=
  match g with
  | some g => (getLane g (if q.uniform then lowestLane q.sel else a.lane)).hold != .free
  | none => false

/-- R344, R257: a request of a contained group: its loads and atomics are discarded, and its stores are still performed; none when
no store is left. -/
def orphanReq (g : Option Group) (q : Req) : Option Req :=
  let stores := q.accs.filter fun a => !accParked g q a && (match a.op with | .store _ => true | .scatter _ => true | _ => false)
  if stores.all (·.done) then none else some { q with accs := stores, orphan := true }

/-- R240, R289, R314: an item that its engine, or its group, has still to finish. -/
def inFlight (x : Item) : Bool :=
  match x.istate with
  | .pending => true
  | .running => true
  | _ => false

/-- R344: contain a launch. Issue stops in every group, loads and atomics whose results are not yet written are discarded,
stores, copies, long gathers and jobs run on, every resource is freed, and the launch is Done without its completion add.
A chair's launch keeps its binding (notes/assumptions/18). -/
def containLaunch (s : State) (u : Nat) : State :=
  let keys := (s.groups.filter fun e => e.2.launch = u).map (·.1)
  let s1 : State :=
    { s with groups := s.groups.filter fun e => e.2.launch ≠ u
             crews := s.crews.filter fun e => e.2.launch ≠ u
             reqs := s.reqs.filterMap fun e =>
               if keys.contains e.2.group && !e.2.orphan then (orphanReq (smFind s.groups e.2.group) e.2).map fun q => (e.1, q) else some e
             items := (dropItems (fun x => x.launch == u) s).items
             engines := s.engines.map fun e => (e.1, e.2.filter fun o => !keys.contains o.group)
             cbars := s.cbars.filter fun e => e.1 / 2 ^ 35 ≠ u
             cur := (match s.cur with | some k => if keys.contains k then none else some k | none => none) }
  match smFind s.launches u with
  | none => s1
  | some old =>
    let x : Launch :=
      { old with lastCycle := if s.crews.any fun e => e.2.launch = u then some s.cycle else old.lastCycle }
    match x.chair with
    | some ch =>
      if ch.bound then putLaunch s1 u { x with chair := some { ch with resident := 0 } }
      else { s1 with launches := smErase s1.launches u }
    | none => finishLaunch s1 u x

/-- R344, R345: contain a group's launch and write the event. -/
def containGroup (s : State) (k : Nat) (g : Group) (event : Nat) (mask : Word) : State :=
  deviceEvent (containLaunch s g.launch) g.part event
    { mask := mask.toNat, kernel := g.kern, core := coreOfKey k }

/-! ### Taking a trap or fault -/

/-- R337: the pass lanes of a group that hold a pending record. -/
def passTrapped (g : Group) : Word :=
  match g.pass with
  | none => 0
  | some p => maskOf fun l => p.mask.getLsbD l && (match (getLane g l).hold with | .pending _ => true | _ => false)

/-- Put a group after an instruction. A trap or fault raised by a handler lane contains the launch (R337). -/
def settle (s : State) (k : Nat) (g : Group) : State :=
  let m := passTrapped g
  if m = 0 then putGroup s k g else containGroup (putGroup s k g) k g 0x11 m

/-- R93: an opcode whose instruction is a switch point; no unassigned opcode is one. -/
def switchOpcode (op : Nat) : Bool :=
  !opcodeUnassigned op
    && ((0xA0 ≤ op && op ≤ 0xD5) || op == 0x91 || op == 0x92 || op == 0x0D || op == 0x06 || (0xDC ≤ op && op ≤ 0xDF))

/-- R93: an instruction that is a switch point wherever it stands. -/
def isSwitchPoint (i : Instr) : Bool := switchOpcode (partsOf i).op.toNat

/-- R93, R31: a switch point: every latch of the group becomes stale and its turn ends. -/
def switched (s : State) (k : Nat) (g : Group) : State := settle (endTurn s k) k (staleSwitch g)

/-- R31, R93, R196: put a group after an instruction that every selected lane trapped on: one of a switch point's opcode is
a switch point all the same (notes/assumptions/56). -/
def settleFaulty (s : State) (k : Nat) (g : Group) (switchPoint : Bool) : State :=
  if switchPoint then switched s k g else settle s k g

/-- R52: the repeat count of an instruction, less 1. -/
def repCount (i : Instr) : Nat :=
  match (modsOf i).rep with
  | some r => r.cnt.toNat
  | none => 0

/-- R119, R166: the lanes that wait in a replay at a later repeat of the current instruction, by their repeats. -/
def laterRepeats (g : Group) (r : Run) : List Nat :=
  match r.replay, r.strand with
  | some _, some st => laneIxs.filterMap fun l =>
      let ln := getLane g l
      if ln.hold == .replay && ln.lb == st.blk && ln.off.toNat == offOf r && r.rpt < ln.rpt.toNat then some ln.rpt.toNat else none
  | _, _ => []

/-- The least of a list of numbers, or a default. -/
def leastOf (d : Nat) (xs : List Nat) : Nat :=
  match xs with
  | [] => d
  | x :: rest => rest.foldl min x

/-- R106: move past `n` words of a run, `len` of them words of block code (R57); a run that has no words left closes. In a
replay the lanes that wait at a later repeat of the instruction have still to execute it, so it stays, at the first of their
repeats (R166, notes/assumptions/9). -/
def advanceOf (g : Group) (r : Run) (n len : Nat) : Group :=
  match r.strand with
  | none => g
  | some st =>
    let b := st.blk.toNat
    if laterRepeats g r ≠ [] then { g with ctl := .run { r with rpt := leastOf 0 (laterRepeats g r) } } else
    { g with ctl := .run { r with pos := r.pos + n, rpt := 0, offs := smSet 0 r.offs b (smGet 0 r.offs b + len),
                                  strand := if st.left ≤ n then none else some { st with left := st.left - n } } }

/-- R106: move past an instruction of `n` words. -/
def advanceBy (g : Group) (r : Run) (n : Nat) : Group := advanceOf g r n n

/-- R52: move to the next repeat of the current instruction, or past it after its last. -/
def advance (g : Group) (r : Run) (i : Instr) : Group :=
  if r.rpt < repCount i then { g with ctl := .run { r with rpt := r.rpt + 1 } }
  else advanceBy g r (encode i).length

/-- Taking a trap or fault: the lanes of a mask park, each with its own record, and nothing else of them changes
(R5, R57, R237). -/
def parkMask (g : Group) (r : Run) (ws : List Word) (mask : Word) (cause : BitVec 8) (code : BitVec 16) (x : MemInfo) :
    Group :=
  mapLanes g fun l ln => if mask.getLsbD l then parkLane ln (mkRec g r ws l cause code x) else ln

/-- R57, R165, R166, R196: every selected lane traps with one cause, the instruction has no effect and no repeat of
it is left. -/
def trapSelected (s : State) (k : Nat) (g : Group) (r : Run) (i : Instr) (cause : BitVec 8) (x : MemInfo) : State :=
  settleFaulty s k (advanceBy (parkMask g r (encode i) (selectedMask g) cause 0 x) r (encode i).length) (isSwitchPoint i)

/-- R57: an instruction read from words that every selected lane traps on. An `STR` word among them counts in the run and
in no length or position. -/
def trapRead (s : State) (k : Nat) (g : Group) (r : Run) (ws : List Word) (cause : BitVec 8) : State :=
  settleFaulty s k (advanceOf (parkMask g r ws (selectedMask g) cause 0 {}) r ws.length (codeWords ws).length)
    (match ws.getLast? with | some w => switchOpcode (w.extractLsb' 24 8).toNat | none => false)

end Sys2Proof.Machine
end

