-- ==== Sys2Proof/Machine/Operands.lean ====
section
/-!
DEFINITION. Every operand form: source operand codes (R45, R46), the constant table (R48, R49), latches (R47),
special operands, lane and uniform destinations (R42), immediates (R54), the stepped fields of a repeat (R52).
-/
namespace Sys2Proof.Machine

/-- R48: the integer readings of `k56` to `k63`. -/
def constIntTail : List Nat := [0xFF, 0xFFFF, 0x7FFFFFFF, 0x80000000, 0xFFFFFFFF, 64, 128, 1024]

/-- R48: the `f32` readings of `k56` to `k63`. -/
def constF32Tail : List Nat :=
  [0x3EAAAAAB, 0x3E4CCCCD, 0x3E2AAAAB, 0x3E124925, 0x3DCCCCCD, 0x3FB8AA3B, 0x3F317218, 0x3F3504F3]

/-- R49: the `f16` readings of `k56` to `k63`. -/
def constF16Tail : List Nat := [0x3555, 0x3266, 0x3155, 0x3092, 0x2E66, 0x3DC5, 0x398C, 0x39A8]

/-- R49: the `bf16` readings of `k56` to `k63`. -/
def constBf16Tail : List Nat := [0x3EAB, 0x3E4D, 0x3E2B, 0x3E12, 0x3DCD, 0x3FB9, 0x3F31, 0x3F35]

/-- R48: the integer reading of constant `k` as an exact integer: the 64-bit reading of `k32` to `k47` is
negative, every other one is not. -/
def constInt (k : Nat) : Int :=
  if k < 32 then k
  else if k < 48 then -((k : Int) - 31)
  else if k < 56 then 2 ^ (k - 40)
  else constIntTail.getD (k - 56) 0

/-- R48: the float reading of `k0` to `k55` as an exact value. -/
def constFloat (k : Nat) : FVal :=
  if k < 32 then .fin false k 0
  else if k < 48 then .fin true (k - 31) 0
  else .fin false 1 ((k : Int) - 56)

/-- R48, R49: the reading of constant `k` at a type, as a w-bit pattern. -/
def constAt (t : BitVec 5) (k : Nat) : Nat :=
  if tyIsInt t then (constInt k % (2 ^ tyBits t : Int)).toNat
  else if k < 56 then roundVal (formatOf t) .rne false (constFloat k)
  else if t = 17 then constF16Tail.getD (k - 56) 0
  else if t = 18 then constBf16Tail.getD (k - 56) 0
  else constF32Tail.getD (k - 56) 0

/-- What a lane, or the uniform pipe, sees of an instruction: the state and group as the instruction issues, its
lane, and the fields of the current repeat. -/
structure Ctx where
  s : State
  k : Nat
  g : Group
  r : Run
  i : Instr
  l : Nat
  sel : Word
  e : Word
  d : Nat
  a : Nat
  b : Nat
  ty : BitVec 5

/-- R52: the D, A and B fields of the current repeat. -/
def stepped (i : Instr) (rpt : Nat) : Nat × Nat × Nat :=
  let p := partsOf i
  match (modsOf i).rep with
  | none => (p.d.toNat, p.a.toNat, p.b.toNat)
  | some r => (p.d.toNat + rpt * stepOf r.dStep, p.a.toNat + rpt * stepOf r.aStep, p.b.toNat + rpt * stepOf r.bStep)

/-- The context of a lane. -/
def mkCtx (s : State) (k : Nat) (g : Group) (r : Run) (i : Instr) (sel e : Word) (l : Nat) : Ctx :=
  let f := stepped i r.rpt
  { s := s, k := k, g := g, r := r, i := i, l := l, sel := sel, e := e, d := f.1, a := f.2.1, b := f.2.2,
    ty := typeOf i }

/-- The lane of a context. -/
def Ctx.ln (c : Ctx) : Lane := getLane c.g c.l

/-- R45: the special operands 0xC5 to 0xCB, which lanes and the uniform pipe read alike. -/
def specialOperand (c : Ctx) (code : Nat) : Nat :=
  match code with
  | 0xC5 => c.g.num
  | 0xC6 => match smFind c.s.crews c.g.crew with | some x => x.index % 2 ^ 32 | none => 0
  | 0xC7 => clusterOfCore (coreOfKey c.k) % 32
  | 0xC8 => dieOfCore (coreOfKey c.k)
  | 0xC9 => c.g.part
  | 0xCA => c.s.cycle.toNat % 2 ^ 32
  | _ => c.sel.toNat

/-- R45: the value of a uniform slot, a pair for 64 bits. -/
def slotValue (g : Group) (slot w : Nat) : Nat :=
  let n := g.uwin.toNat + slot
  if w = 64 then (getUreg g n).toNat + 2 ^ 32 * (getUreg g (n + 1)).toNat else (getUreg g n).toNat % 2 ^ w

/-- R32: whether a window slot of a lane names a register it has allocated; a pair needs both. -/
def regInside (g : Group) (ln : Lane) (slot w : Nat) : Bool :=
  ln.win.toNat + slot + (if w = 64 then 1 else 0) < g.nreg

/-- The value of a window slot of a lane, a pair for 64 bits. -/
def regValue (ln : Lane) (slot w : Nat) : Nat :=
  let n := ln.win.toNat + slot
  if w = 64 then (getReg ln n).toNat + 2 ^ 32 * (getReg ln (n + 1)).toNat else (getReg ln n).toNat % 2 ^ w

/-- The latch that a code names. -/
def latchOf (ln : Lane) (code : Nat) : Latch :=
  match code with
  | 0xC0 => ln.lat0
  | 0xC1 => ln.lat1
  | 0xC2 => ln.lat2
  | _ => ln.lat3

/-- R45 to R47: the value of a source operand of a lane, `w` bits wide, with constants read by `kst`. A window slot
at or above the allocation is an illegal operand (R32); a stale latch traps (R31). -/
def readLane (c : Ctx) (code w : Nat) (kst : Nat → Nat) : Except (BitVec 8) Nat :=
  if code < 0x80 then
    if regInside c.g c.ln code w then .ok (regValue c.ln code w) else .error causeIllegalOperand
  else if code < 0xC0 then .ok (kst (code - 0x80))
  else if code < 0xC4 then
    match latchOf c.ln code with
    | some v => .ok (v.toNat % 2 ^ w)
    | none => .error causeStaleLatch
  else if code = 0xC4 then .ok (c.l % 2 ^ w)
  else if code < 0xCC then .ok (specialOperand c code % 2 ^ w)
  else if code < 0xD0 then .error causeIllegalOperand
  else .ok (slotValue c.g (code - 0xD0) w)

/-- A source operand at a type. -/
def readTy (c : Ctx) (code : Nat) (t : BitVec 5) : Except (BitVec 8) Nat := readLane c code (tyBits t) (constAt t)

/-- A source operand read as `.n32`. -/
def readN32 (c : Ctx) (code : Nat) : Except (BitVec 8) Nat := readTy c code 6

/-- R49, R80: a packed source operand: a whole word; a constant fills both halves. -/
def readPacked (c : Ctx) (code : Nat) (t : BitVec 5) : Except (BitVec 8) Nat :=
  readLane c code 32 fun k => constAt t k + 2 ^ 16 * constAt t k

/-- R45: the value of a source operand of the uniform pipe at a type. -/
def readUni (c : Ctx) (code : Nat) (t : BitVec 5) : Nat :=
  if code < 0xC0 then constAt t (code - 0x80)
  else if code < 0xD0 then specialOperand c code % 2 ^ tyBits t
  else slotValue c.g (code - 0xD0) (tyBits t)

/-- A uniform operand read as `.n32`. -/
def readUniN32 (c : Ctx) (code : Nat) : Nat := readUni c code 6

/-- R42, R46, R47: write a result of type `rt`, given as its w-bit pattern, to a lane destination: the register of
the window slot, or none with `NW`, and latch `b0`. -/
def writeLane (c : Ctx) (ln : Lane) (d : Nat) (rt : BitVec 5) (pat : Nat) : Except (BitVec 8) Lane :=
  let w := tyBits rt
  let v := widen rt pat
  let latch : Latch := some (BitVec.ofNat 64 (pat % 2 ^ w))
  if d ≥ 0x80 then .ok (shiftLatches ln latch)
  else if regInside c.g ln d w then
    let n := ln.win.toNat + d
    let l1 := setReg ln n (v.setWidth 32)
    let l2 := if w = 64 then setReg l1 (n + 1) (v.extractLsb' 32 32) else l1
    .ok (shiftLatches l2 latch)
  else .error causeIllegalOperand

/-- R32: whether the destination of a lane can be written. -/
def destInside (c : Ctx) (d : Nat) (rt : BitVec 5) : Bool := d ≥ 0x80 || regInside c.g c.ln d (tyBits rt)

/-- R42, R46: write a result of type `rt` to a uniform slot. -/
def writeUni (g : Group) (slot : Nat) (rt : BitVec 5) (pat : Nat) : Group :=
  let v := widen rt pat
  let n := g.uwin.toNat + slot
  let g1 := setUreg g n (v.setWidth 32)
  if tyBits rt = 64 then setUreg g1 (n + 1) (v.extractLsb' 32 32) else g1

/-- R54: the immediate of an FI instruction at its type, as a w-bit pattern. -/
def immediate (i : Instr) (imm : BitVec 16) : Nat :=
  let t := typeOf i
  let w := tyBits t
  if tyIsInt t then
    match (modsOf i).limm with
    | none => if tySigned t then (imm.signExtend 64).toNat % 2 ^ w else imm.toNat % 2 ^ w
    | some l =>
      let x : BitVec 40 := l ++ imm
      if tySigned t then (x.signExtend 64).toNat % 2 ^ w else x.toNat % 2 ^ w
  else if t = 16 then
    match (modsOf i).limm with
    | none => imm.toNat * 2 ^ 16
    | some l => l.toNat % 2 ^ 16 * 2 ^ 16 + imm.toNat
  else imm.toNat

end Sys2Proof.Machine
end

