-- ==== Sys2Proof/Machine/Flags.lean ====
section
/-!
DEFINITION. Predicates: the combine types of a compare (R29, R30, R148), the writing of predicate pairs, conditions.
-/
namespace Sys2Proof.Machine

/-- R148: the new values of q and q XOR 1, from the combine type, whether the lane executes, the condition and the
old values. -/
def combine (cmb : Nat) (active c x y : Bool) : Bool × Bool :=
  if active then
    match cmb with
    | 0 => (c, !c)
    | 1 => (c, !c)
    | 2 => (x && c, y && c)
    | 3 => (x || c, y || c)
    | 4 => (x && !c, y && !c)
    | 5 => (x || !c, y || !c)
    | 6 => (x && c, y || !c)
    | _ => (x || c, y && !c)
  else if cmb = 1 then (false, false) else (x, y)

/-- R29: write a predicate of a word of predicates; predicate 0 discards the write. -/
def setPred {n : Nat} (p : BitVec n) (q : Nat) (v : Bool) : BitVec n :=
  if q = 0 then p
  else if v then p ||| BitVec.ofNat n (2 ^ q) else p &&& ~~~ (BitVec.ofNat n (2 ^ q))

/-- R29, R148: a compare writes the pair q, q' of a lane. Both old values are read first. -/
def writePair (ln : Lane) (q q' cmb : Nat) (active c : Bool) : Lane :=
  let v := combine cmb active c (lanePred ln q) (lanePred ln q')
  { ln with preds := setPred (setPred ln.preds q v.1) q' v.2 }

/-- R162: a compare writes the pair q, q XOR 1 of the group. -/
def writeUniPair (g : Group) (q q' cmb : Nat) (active c : Bool) : Group :=
  let v := combine cmb active c (uniPred g q) (uniPred g q')
  { g with qpreds := setPred (setPred g.qpreds q v.1) q' v.2 }

/-- R29: the other predicate of a pair. -/
def pairOther (q : Nat) : Nat := if q % 2 = 0 then q + 1 else q - 1

/-- R148, R174: the conditions. -/
inductive Cond where
  | eq | ne | lt | le | gt | ge
  deriving DecidableEq, Repr

/-- Whether an order meets a condition; unordered (none) meets only `.ne` (R174). -/
def condHolds (c : Cond) (o : Option Ordering) : Bool :=
  match c, o with
  | .ne, none => true
  | _, none => false
  | .eq, some x => x == .eq
  | .ne, some x => x != .eq
  | .lt, some x => x == .lt
  | .le, some x => x != .gt
  | .gt, some x => x == .gt
  | .ge, some x => x != .lt

end Sys2Proof.Machine
end

