-- ==== Sys2Proof/Machine/Exec.lean ====
section
/-!
DEFINITION. How an instruction executes: by lanes (R135), across lanes (R151), on the uniform pipe (R47, R135), for
the group as a whole (R196). Each checks the encoding first (R57), parks the lanes that trap with their records
(R5, R237) and moves past the instruction, or to its next repeat (R52).
-/
namespace Sys2Proof.Machine

/-- R147: the guard of an instruction; for `SEL` and `USEL` the guard fields select, and guard nothing. -/
def guardOf (i : Instr) : Ext := if (shapeOf i).selector then Ext.zero else extOf i

/-- R32: a window slot that a field names is one that the lane has allocated; other codes name none. -/
def slotNamed (c : Ctx) (pair : Bool) (code : Nat) : Bool :=
  decide (0x80 ≤ code) || regInside c.g c.ln code (if pair then 64 else 32)

/-- R32: the lane registers that a source field names are allocated. -/
def sourceNamed (c : Ctx) (cls : FieldClass) (pair : Bool) (code : Nat) : Bool :=
  match cls with
  | .laneSrc => slotNamed c pair code
  | .laneReg => slotNamed c pair code
  | _ => true

/-- R32: every lane register that a lane instruction names is allocated. An operand is read only after this check
(notes/assumptions/28). -/
def namesInside (c : Ctx) : Bool :=
  let sh := shapeOf c.i
  (match sh.d with | .lane => slotNamed c (pairs c.i sh.dPair) c.d | _ => true)
    && sourceNamed c sh.a (pairs c.i sh.aPair) c.a && sourceNamed c sh.b (pairs c.i sh.bPair) c.b

/-- R156, R157: B is read once, in the lowest lane of E. -/
def leadReadsB (i : Instr) : Bool :=
  match i with
  | .rdlane _ _ _ _ => true
  | .sample _ _ _ _ => true
  | _ => false

/-- R32, R151: the lane registers that a cross-lane instruction reads in a lane are allocated; they are read only after this
check (notes/assumptions/28). -/
def readsInside (c : Ctx) : Bool :=
  let sh := shapeOf c.i
  sourceNamed c sh.a (pairs c.i sh.aPair) c.a && (leadReadsB c.i || sourceNamed c sh.b (pairs c.i sh.bPair) c.b)

/-- The change of an executing lane: the registers it names are checked, then it is changed or traps. -/
def laneBody (body : Ctx → Except (BitVec 8) Lane) (c : Ctx) : Except (BitVec 8) Lane :=
  if namesInside c then body c else .error causeIllegalOperand

/-- A lane instruction: each executing lane is changed by `body`, or traps with its cause; an inactive lane
(selected, guard false) is changed by `idle`. -/
def execLaneWith (i : Instr) (body : Ctx → Except (BitVec 8) Lane) (idle : Ctx → Lane) (s : State) : Out :=
  match issuing s with
  | none => .fault .noIssuingGroup
  | some (k, g, r) =>
    if legal i then
      let sel := selectedMask g
      let e := guardMask g (guardOf i) sel
      let g' := mapLanes g fun l ln =>
        if e.getLsbD l then
          match laneBody body (mkCtx s k g r i sel e l) with
          | .ok x => x
          | .error c => parkLane ln (mkRec g r (encode i) l c 0 {})
        else if sel.getLsbD l then idle (mkCtx s k g r i sel e l)
        else ln
      .next (settle s k (advance g' r i))
    else .next (trapSelected s k g r i causeIllegalOperand {})

/-- A lane instruction that leaves inactive lanes alone. -/
def execLane (i : Instr) (body : Ctx → Except (BitVec 8) Lane) (s : State) : Out :=
  execLaneWith i body (fun c => c.ln) s

/-- R151: a cross-lane instruction. `lead` is read once, in the lowest lane of E: when it traps, every lane of E
traps with its cause. `read` reads each lane's own operands: a lane whose read traps, or that has not allocated a register
that the instruction names, takes no part. Each remaining lane receives `result` of all their reads. -/
def execCross {α β : Type} (i : Instr) (lead : Ctx → Except (BitVec 8) β) (read : Ctx → Except (BitVec 8) α)
    (result : Ctx → β → List (Nat × α) → α → Nat) (rt : BitVec 5) (s : State) : Out :=
  match issuing s with
  | none => .fault .noIssuingGroup
  | some (k, g, r) =>
    if legal i then
      let sel := selectedMask g
      let e := guardMask g (guardOf i) sel
      let cx := mkCtx s k g r i sel e
      if e = 0 then .next (settle s k (advance g r i))
      else match lead (cx (lowestLane e)) with
        | .error c =>
          .next (settle s k (advance (parkMask g r (encode i) e c 0 {}) r i))
        | .ok v =>
          let tried : List (Nat × Except (BitVec 8) α) := (lanesOf e).map fun l =>
            (l, if destInside (cx l) (cx l).d rt && readsInside (cx l) then read (cx l) else .error causeIllegalOperand)
          let vals : List (Nat × α) := tried.filterMap fun x =>
            match x.2 with
            | .ok y => some (x.1, y)
            | .error _ => none
          let g' := mapLanes g fun l ln =>
            match tried.find? (fun x => x.1 == l) with
            | none => ln
            | some (_, .error c) => parkLane ln (mkRec g r (encode i) l c 0 {})
            | some (_, .ok y) =>
              match writeLane (cx l) ln (cx l).d rt (result (cx l) v vals y) with
              | .ok x => x
              | .error c => parkLane ln (mkRec g r (encode i) l c 0 {})
          .next (settle s k (advance g' r i))
    else .next (trapSelected s k g r i causeIllegalOperand {})

/-- No operand is read in the lowest lane. -/
def noLead (_ : Ctx) : Except (BitVec 8) Unit := .ok ()

/-- R47, R135: a uniform instruction executes once for the group when its strand selects a lane and its guard
holds; `skip` is what it does when the guard fails. A trap is taken by every selected lane, and the group's
remaining repeats stop (R166). -/
def execUniWith (i : Instr) (body : Ctx → Except (BitVec 8) Group) (skip : Ctx → Group) (s : State) : Out :=
  match issuing s with
  | none => .fault .noIssuingGroup
  | some (k, g, r) =>
    let sel := selectedMask g
    let c := mkCtx s k g r i sel sel (lowestLane sel)
    if sel = 0 then .next (settle s k (advance g r i))
    else if legal i then
      if uniGuard g (guardOf i) then
        match body c with
        | .ok g' => .next (settle s k (advance g' r i))
        | .error cause => .next (trapSelected s k g r i cause {})
      else .next (settle s k (advance (skip c) r i))
    else .next (trapSelected s k g r i causeIllegalOperand {})

/-- A uniform instruction that does nothing when its guard fails. -/
def execUni (i : Instr) (body : Ctx → Except (BitVec 8) Group) (s : State) : Out :=
  execUniWith i body (fun c => c.g) s

/-- The outcome of an instruction that acts for the group: done, with the state and group it leaves; the group
waits and the instruction is issued again; accesses were made or wait to be, with the group put back; or a fault of
the group. -/
inductive GroupOut where
  | done (s : State) (g : Group)
  | stall (w : Wait) (s : State) (g : Group)
  | held (s : State)
  | trap (cause : BitVec 8) (x : MemInfo)
  | fail (s : State) (g : Group) (cause : BitVec 8) (x : MemInfo)

/-- R196: an instruction that acts for the group as a whole, each a switch point (R93). `uni` says that its guard is
uniform; otherwise it executes when E is not empty. Nothing happens when its strand selects no lane; when its guard
holds nowhere it is a switch point and no more. A fault parks the lanes of E, when `ofE`, or every selected lane, with
one record each. -/
def execGroup (i : Instr) (uni ofE : Bool) (body : Ctx → GroupOut) (s : State) : Out :=
  match issuing s with
  | none => .fault .noIssuingGroup
  | some (k, g, r) =>
    let sel := selectedMask g
    if sel = 0 then .next (settle s k (advance g r i))
    else if legal i then
      let e := if uni then (if uniGuard g (guardOf i) then sel else 0) else guardMask g (guardOf i) sel
      if e = 0 then .next (switched s k (advance g r i))
      else
        match body (mkCtx s k g r i sel e (lowestLane e)) with
        | .done s' g' => .next (switched s' k (advance g' r i))
        | .stall w s' g' => .next (endTurn (putGroup s' k { g' with wait := w, lastIssue := s.prevIssue }) k)
        | .held s' => .next (endTurn s' k)
        | .trap cause x =>
          .next (switched (faultEvent s g.part cause x.va (coreOfKey k)) k
            (advanceBy (parkMask g r (encode i) (if ofE then e else sel) cause 0 x) r (encode i).length))
        | .fail s' g' cause x =>
          .next (switched s' k
            (advanceBy (parkMask g' r (encode i) (if ofE then e else sel) cause 0 x) r (encode i).length))
    else .next (trapSelected s k g r i causeIllegalOperand {})

end Sys2Proof.Machine
end

