-- ==== Sys2Proof/Machine/LaneInt.lean ====
section
/-!
DEFINITION. The lane integer instructions, opcodes 0x10-0x31 (spec/07 R138 to R149).
-/
namespace Sys2Proof.Machine

/-- The saturation bit of an instruction (R53). -/
def satOf (c : Ctx) : Bool := (extOf c.i).sat

/-- R139: read a and b at the type as integers, fit `op` of them to the type, write it to D. -/
def laneIntBin (op : BitVec 5 → Bool → Int → Int → Nat) (c : Ctx) : Except (BitVec 8) Lane := do
  let a ← readTy c c.a c.ty
  let b ← readTy c c.b c.ty
  writeLane c c.ln c.d c.ty (op c.ty (satOf c) (intVal c.ty a) (intVal c.ty b))

/-- R139: the same for one operand. -/
def laneIntUn (op : BitVec 5 → Bool → Int → Nat) (c : Ctx) : Except (BitVec 8) Lane := do
  let a ← readTy c c.a c.ty
  writeLane c c.ln c.d c.ty (op c.ty (satOf c) (intVal c.ty a))

/-- R141: an operation on w-bit patterns. -/
def laneBits (op : Nat → Nat → Nat → Nat) (c : Ctx) : Except (BitVec 8) Lane := do
  let a ← readTy c c.a c.ty
  let b ← readTy c c.b c.ty
  writeLane c c.ln c.d c.ty (op (tyBits c.ty) a b)

/-- R142: a shift: a at the type, the amount as `.n32`. -/
def laneShift (op : Nat → Nat → Nat → Nat) (c : Ctx) : Except (BitVec 8) Lane := do
  let a ← readTy c c.a c.ty
  let n ← readN32 c c.b
  writeLane c c.ln c.d c.ty (op (tyBits c.ty) a n)

/-- R140, R171: the addend: the register that D names, at the type, or latch `b0` with `NW`. -/
def readAddend (c : Ctx) (w : Nat) : Except (BitVec 8) Nat :=
  readLane c (if c.d ≥ 0x80 then 0xC0 else c.d) w fun _ => 0

/-- R139: the sum. -/
def opAdd (t : BitVec 5) (sat : Bool) (a b : Int) : Nat := intFit t sat (a + b)
/-- R139: the difference. -/
def opSub (t : BitVec 5) (sat : Bool) (a b : Int) : Nat := intFit t sat (a - b)
/-- R139: the product. -/
def opMul (t : BitVec 5) (sat : Bool) (a b : Int) : Nat := intFit t sat (a * b)
/-- R139: the high half of the product. -/
def opMulh (t : BitVec 5) (_ : Bool) (a b : Int) : Nat := intFit t false (a * b / 2 ^ tyBits t)
/-- R139: the lesser. -/
def opMin (t : BitVec 5) (_ : Bool) (a b : Int) : Nat := intFit t false (if a ≤ b then a else b)
/-- R139: the greater. -/
def opMax (t : BitVec 5) (_ : Bool) (a b : Int) : Nat := intFit t false (if a ≤ b then b else a)
/-- R139: the absolute value. -/
def opAbs (t : BitVec 5) (sat : Bool) (a : Int) : Nat := intFit t sat a.natAbs
/-- R139: the negative. -/
def opNeg (t : BitVec 5) (sat : Bool) (a : Int) : Nat := intFit t sat (-a)
/-- R141. -/
def opAnd (_ a b : Nat) : Nat := a &&& b
/-- R141. -/
def opOr (_ a b : Nat) : Nat := a ||| b
/-- R141. -/
def opXor (_ a b : Nat) : Nat := a ^^^ b
/-- R141: a AND NOT b. -/
def opAndn (w a b : Nat) : Nat := a &&& (2 ^ w - 1 - b)
/-- R142. -/
def opShl (w a n : Nat) : Nat := if n ≥ w then 0 else a * 2 ^ n % 2 ^ w
/-- R142. -/
def opShr (w a n : Nat) : Nat := if n ≥ w then 0 else a / 2 ^ n
/-- R142: shifted right by min(n, w - 1) with copies of bit w - 1. -/
def opSar (w a n : Nat) : Nat :=
  let k := min n (w - 1)
  if 2 * a ≥ 2 ^ w then a / 2 ^ k + (2 ^ w - 2 ^ (w - k)) else a / 2 ^ k
/-- R142: rotated left by n mod w. -/
def opRot (w a n : Nat) : Nat :=
  let k := n % w
  a * 2 ^ k % 2 ^ w + a / 2 ^ (w - k)
/-- R143: the zero bits above the highest set bit. -/
def opClz (w a : Nat) : Nat := w - bitLen a
/-- R143: the set bits. -/
def opPopc (w a : Nat) : Nat := ((List.range w).filter fun i => a.testBit i).length
/-- R143: bit i moved to bit w - 1 - i. -/
def opBrev (w a : Nat) : Nat := (List.range w).foldl (fun acc i => 2 * acc + (if a.testBit i then 1 else 0)) 0

/-- R144: the type of twice the width and the same signedness. -/
def doubleType (t : BitVec 5) : BitVec 5 := t + 2

/-- R144: read a and b at the type and write at twice the width. -/
def laneWiden (op : Int → Int → Int) (c : Ctx) : Except (BitVec 8) Lane := do
  let a ← readTy c c.a c.ty
  let b ← readTy c c.b c.ty
  let rt := doubleType c.ty
  writeLane c c.ln c.d rt (intFit rt false (op (intVal c.ty a) (intVal c.ty b)))

/-- R143: write a count of the bits of a as a 32-bit unsigned value. -/
def laneCount (op : Nat → Nat → Nat) (c : Ctx) : Except (BitVec 8) Lane := do
  let a ← readTy c c.a c.ty
  writeLane c c.ln c.d 6 (op (tyBits c.ty) a)

/-- R147: the predicate that selects: `GP`, negated by `GN`; `p0` without a guard. -/
def selectorOf (c : Ctx) : Bool :=
  let e := extOf c.i
  !e.ge || (lanePred c.ln e.gp.toNat != e.gn)

/-- R148: the combine type and the predicate of the D field of a compare. -/
def cmpFields (c : Ctx) : Nat × Nat := (c.d / 32, c.d % 16)

/-- R148: an executing lane of a compare writes its pair and enters a stale value into `b0`. -/
def laneCompare (order : Ctx → Except (BitVec 8) (Option Ordering)) (cond : Cond) (c : Ctx) : Except (BitVec 8) Lane := do
  let o ← order c
  let (cmb, q) := cmpFields c
  .ok (shiftLatches (writePair c.ln q (pairOther q) cmb true (condHolds cond o)) none)

/-- R148, R135: an inactive lane of a compare: only `.unc` writes it. -/
def idleCompare (c : Ctx) : Lane :=
  let (cmb, q) := cmpFields c
  writePair c.ln q (pairOther q) cmb false false

/-- R148: the order of a and b at an integer type. -/
def intOrder (c : Ctx) : Except (BitVec 8) (Option Ordering) := do
  let a ← readTy c c.a c.ty
  let b ← readTy c c.b c.ty
  .ok (some (compare (intVal c.ty a) (intVal c.ty b)))

/-- R149: the register number that A gives, checked against the allocation and, for a pair, for being even. -/
def indirect (c : Ctx) : Except (BitVec 8) Nat :=
  let n := readUniN32 c c.a
  if n ≥ c.g.nreg || (is64 c.ty && n % 2 == 1) then .error causeIllegalOperand else .ok n

/-- The value of a register by absolute number, a pair for 64 bits. -/
def absValue (ln : Lane) (n w : Nat) : Nat :=
  if w = 64 then (getReg ln n).toNat + 2 ^ 32 * (getReg ln (n + 1)).toNat else (getReg ln n).toNat % 2 ^ w

/-- R139: a + b. -/
def execAdd (d : BitVec 8) (a : BitVec 8) (b : BitVec 8) (m : Mods) (s : State) : Out :=
  execLane (.add d a b m) (laneIntBin opAdd) s

/-- R139: a - b. -/
def execSub (d : BitVec 8) (a : BitVec 8) (b : BitVec 8) (m : Mods) (s : State) : Out :=
  execLane (.sub d a b m) (laneIntBin opSub) s

/-- R139: a × b. -/
def execMul (d : BitVec 8) (a : BitVec 8) (b : BitVec 8) (m : Mods) (s : State) : Out :=
  execLane (.mul d a b m) (laneIntBin opMul) s

/-- R139: the high half of a × b. -/
def execMulh (d : BitVec 8) (a : BitVec 8) (b : BitVec 8) (m : Mods) (s : State) : Out :=
  execLane (.mulh d a b m) (laneIntBin opMulh) s

/-- R139, R140: a × b + d. -/
def execMad (d : BitVec 8) (a : BitVec 8) (b : BitVec 8) (m : Mods) (s : State) : Out :=
  execLane (.mad d a b m) (fun c => do
    let x ← readTy c c.a c.ty
    let y ← readTy c c.b c.ty
    let z ← readAddend c (tyBits c.ty)
    writeLane c c.ln c.d c.ty
      (intFit c.ty (satOf c) (intVal c.ty x * intVal c.ty y + intVal c.ty z))) s

/-- R139: the lesser. -/
def execMin (d : BitVec 8) (a : BitVec 8) (b : BitVec 8) (m : Mods) (s : State) : Out :=
  execLane (.min d a b m) (laneIntBin opMin) s

/-- R139: the greater. -/
def execMax (d : BitVec 8) (a : BitVec 8) (b : BitVec 8) (m : Mods) (s : State) : Out :=
  execLane (.max d a b m) (laneIntBin opMax) s

/-- R139: |a|. -/
def execAbs (d : BitVec 8) (a : BitVec 8) (m : Mods) (s : State) : Out :=
  execLane (.abs d a m) (laneIntUn opAbs) s

/-- R139: -a. -/
def execNeg (d : BitVec 8) (a : BitVec 8) (m : Mods) (s : State) : Out :=
  execLane (.neg d a m) (laneIntUn opNeg) s

/-- R141: AND of the patterns. -/
def execAnd (d : BitVec 8) (a : BitVec 8) (b : BitVec 8) (m : Mods) (s : State) : Out :=
  execLane (.and d a b m) (laneBits opAnd) s

/-- R141: OR of the patterns. -/
def execOr (d : BitVec 8) (a : BitVec 8) (b : BitVec 8) (m : Mods) (s : State) : Out :=
  execLane (.or d a b m) (laneBits opOr) s

/-- R141: XOR of the patterns. -/
def execXor (d : BitVec 8) (a : BitVec 8) (b : BitVec 8) (m : Mods) (s : State) : Out :=
  execLane (.xor d a b m) (laneBits opXor) s

/-- R141: ANDN of the patterns. -/
def execAndn (d : BitVec 8) (a : BitVec 8) (b : BitVec 8) (m : Mods) (s : State) : Out :=
  execLane (.andn d a b m) (laneBits opAndn) s

/-- R141: NOT a. -/
def execNot (d : BitVec 8) (a : BitVec 8) (m : Mods) (s : State) : Out :=
  execLane (.not d a m) (fun c => do
    let x ← readTy c c.a c.ty
    writeLane c c.ln c.d c.ty (2 ^ tyBits c.ty - 1 - x)) s

/-- R142: SHL. -/
def execShl (d : BitVec 8) (a : BitVec 8) (b : BitVec 8) (m : Mods) (s : State) : Out :=
  execLane (.shl d a b m) (laneShift opShl) s

/-- R142: SHR. -/
def execShr (d : BitVec 8) (a : BitVec 8) (b : BitVec 8) (m : Mods) (s : State) : Out :=
  execLane (.shr d a b m) (laneShift opShr) s

/-- R142: SAR. -/
def execSar (d : BitVec 8) (a : BitVec 8) (b : BitVec 8) (m : Mods) (s : State) : Out :=
  execLane (.sar d a b m) (laneShift opSar) s

/-- R142: ROT. -/
def execRot (d : BitVec 8) (a : BitVec 8) (b : BitVec 8) (m : Mods) (s : State) : Out :=
  execLane (.rot d a b m) (laneShift opRot) s

/-- R143: leading zeros. -/
def execClz (d : BitVec 8) (a : BitVec 8) (m : Mods) (s : State) : Out :=
  execLane (.clz d a m) (laneCount opClz) s

/-- R143: set bits. -/
def execPopc (d : BitVec 8) (a : BitVec 8) (m : Mods) (s : State) : Out :=
  execLane (.popc d a m) (laneCount opPopc) s

/-- R143: bits reversed. -/
def execBrev (d : BitVec 8) (a : BitVec 8) (m : Mods) (s : State) : Out :=
  execLane (.brev d a m) (fun c => do
    let x ← readTy c c.a c.ty
    writeLane c c.ln c.d c.ty (opBrev (tyBits c.ty) x)) s

/-- R144: a + b at twice the width. -/
def execAddw (d : BitVec 8) (a : BitVec 8) (b : BitVec 8) (m : Mods) (s : State) : Out :=
  execLane (.addw d a b m) (laneWiden fun x y => x + y) s

/-- R144: a - b at twice the width. -/
def execSubw (d : BitVec 8) (a : BitVec 8) (b : BitVec 8) (m : Mods) (s : State) : Out :=
  execLane (.subw d a b m) (laneWiden fun x y => x - y) s

/-- R145: the pattern of a. -/
def execMov (d : BitVec 8) (a : BitVec 8) (m : Mods) (s : State) : Out :=
  execLane (.mov d a m) (fun c => do
    let x ← readTy c c.a c.ty
    writeLane c c.ln c.d c.ty x) s

/-- R146: the immediate of R54. -/
def execMovi (d : BitVec 8) (i : BitVec 16) (m : Mods) (s : State) : Out :=
  execLane (.movi d i m) (fun c => writeLane c c.ln c.d c.ty (immediate c.i i)) s

/-- R147: a where the selecting predicate holds, else b. -/
def execSel (d : BitVec 8) (a : BitVec 8) (b : BitVec 8) (m : Mods) (s : State) : Out :=
  execLane (.sel d a b m) (fun c => do
    let x ← readTy c (if selectorOf c then c.a else c.b) c.ty
    writeLane c c.ln c.d c.ty x) s

/-- R148: compare at an integer type, condition `.eq`. -/
def execIcmpEq (c : BitVec 3) (q : BitVec 4) (a : BitVec 8) (b : BitVec 8) (m : Mods) (s : State) : Out :=
  execLaneWith (.icmpEq c q a b m) (laneCompare intOrder .eq) idleCompare s

/-- R148: compare at an integer type, condition `.ne`. -/
def execIcmpNe (c : BitVec 3) (q : BitVec 4) (a : BitVec 8) (b : BitVec 8) (m : Mods) (s : State) : Out :=
  execLaneWith (.icmpNe c q a b m) (laneCompare intOrder .ne) idleCompare s

/-- R148: compare at an integer type, condition `.lt`. -/
def execIcmpLt (c : BitVec 3) (q : BitVec 4) (a : BitVec 8) (b : BitVec 8) (m : Mods) (s : State) : Out :=
  execLaneWith (.icmpLt c q a b m) (laneCompare intOrder .lt) idleCompare s

/-- R148: compare at an integer type, condition `.le`. -/
def execIcmpLe (c : BitVec 3) (q : BitVec 4) (a : BitVec 8) (b : BitVec 8) (m : Mods) (s : State) : Out :=
  execLaneWith (.icmpLe c q a b m) (laneCompare intOrder .le) idleCompare s

/-- R148: compare at an integer type, condition `.gt`. -/
def execIcmpGt (c : BitVec 3) (q : BitVec 4) (a : BitVec 8) (b : BitVec 8) (m : Mods) (s : State) : Out :=
  execLaneWith (.icmpGt c q a b m) (laneCompare intOrder .gt) idleCompare s

/-- R148: compare at an integer type, condition `.ge`. -/
def execIcmpGe (c : BitVec 3) (q : BitVec 4) (a : BitVec 8) (b : BitVec 8) (m : Mods) (s : State) : Out :=
  execLaneWith (.icmpGe c q a b m) (laneCompare intOrder .ge) idleCompare s

/-- R149: the register that A numbers, into D. -/
def execRget (d : BitVec 8) (a : BitVec 8) (m : Mods) (s : State) : Out :=
  execLane (.rget d a m) (fun c => do
    let n ← indirect c
    writeLane c c.ln c.d c.ty (absValue c.ln n (tyBits c.ty))) s

/-- R149: b into the register that A numbers; the value enters `b0`. -/
def execRput (a : BitVec 8) (b : BitVec 8) (m : Mods) (s : State) : Out :=
  execLane (.rput a b m) (fun c => do
    let n ← indirect c
    let v ← readTy c c.b c.ty
    let l1 := setReg c.ln n (BitVec.ofNat 32 v)
    let l2 := if is64 c.ty then setReg l1 (n + 1) (BitVec.ofNat 32 (v / 2 ^ 32)) else l1
    .ok (shiftLatches l2 (some (BitVec.ofNat 64 v)))) s

end Sys2Proof.Machine
end

