-- ==== Sys2Proof/Machine/CrossLane.lean ====
section
/-!
DEFINITION. The cross-lane instructions, opcodes 0x32-0x3E (spec/07 R150 to R159, R38, R79).
-/
namespace Sys2Proof.Machine

/-- The rounding mode of an instruction (R53). -/
def modeOf (i : Instr) : Rounding := roundingOf (extOf i).rnd

/-- R79, R71: one step of a fold by addition, on patterns. -/
def foldStep (t : BitVec 5) (mode : Rounding) (sat : Bool) (acc x : Nat) : Nat :=
  if tyIsInt t then intFit t sat (intVal t acc + intVal t x)
  else roundVal (formatOf t) mode sat (fAdd mode (fval (formatOf t) acc) (fval (formatOf t) x))

/-- R79, R66: the element that a fold starts from, as a result of the instruction: with `.sat` an infinite element is the
largest finite one from the start, which is the model's choice (notes/assumptions/50). -/
def foldStart (t : BitVec 5) (mode : Rounding) (sat : Bool) (x : Nat) : Nat :=
  if tyIsInt t then x else roundVal (formatOf t) mode sat (fval (formatOf t) x)

/-- R79: the fold by addition of values in order. -/
def foldAdd (t : BitVec 5) (mode : Rounding) (sat : Bool) (xs : List Nat) : Nat :=
  match xs with
  | [] => 0
  | x :: rest => rest.foldl (foldStep t mode sat) (foldStart t mode sat x)

/-- R154: the lesser, or the greater, of two values at a type. -/
def pickMin (t : BitVec 5) (greater : Bool) (a b : Nat) : Nat :=
  let le := if tyIsInt t then decide (intVal t a ≤ intVal t b) else fLeSigned (fval (formatOf t) a) (fval (formatOf t) b)
  if le != greater then a else b

/-- R154: whether a value is a NaN at a type. -/
def isNanAt (t : BitVec 5) (x : Nat) : Bool := !tyIsInt t && fval (formatOf t) x == .nan

/-- R154: the fold by minimum or maximum. -/
def foldMin (t : BitVec 5) (greater : Bool) (xs : List Nat) : Nat :=
  if xs.any (isNanAt t) then (formatOf t).nanCode
  else match xs with
    | [] => 0
    | x :: rest => rest.foldl (pickMin t greater) x

/-- The value of one lane among those read. -/
def valueOfLane (vals : List (Nat × Nat)) (j : Nat) : Option Nat := (vals.find? fun x => x.1 == j).map (·.2)

/-- R152: a shuffle: the lane read is `src` of the own lane and the selector, an exact integer. -/
def crossShuffle (i : Instr) (src : Nat → Nat → Int) (s : State) : Out :=
  execCross i noLead
    (fun c => do
      let t ← readN32 c c.b
      let x ← readTy c c.a c.ty
      .ok (x, t))
    (fun c _ vals own =>
      let j := src c.l own.2
      if 0 ≤ j && j ≤ 31 then ((vals.find? fun x => x.1 == j.toNat).map (·.2.1)).getD own.1 else own.1)
    (typeOf i) s

/-- R153: the result of `VOTE` from the values of the lanes of E. -/
def voteResult (md : Nat) (vals : List (Nat × Nat)) : Nat :=
  match md with
  | 0 => if vals.any (fun x => x.2 != 0) then 1 else 0
  | 1 => if vals.all (fun x => x.2 != 0) then 1 else 0
  | _ => (maskOf fun l => vals.any fun x => x.1 == l && x.2 != 0).toNat

/-- R38: the mask of `VCONF` for a lane: the lower lanes of E with its value, and itself when it is the leader. -/
def conflictMask (l v : Nat) (vals : List (Nat × Nat)) : Nat :=
  (maskOf fun j =>
    if j = l then !(vals.any fun x => l < x.1 && x.2 == v) else j < l && vals.any fun x => x.1 == j && x.2 == v).toNat

/-- R157: a weight as `SAMPLE` takes it. -/
def sampleWeight (t : BitVec 5) (x : Nat) : Nat :=
  if t = 16 then
    match fval (formatOf t) x with
    | .nan => 0
    | v => if fCompare v (.fin false 0 0) == some .lt then 0 else x
  else x

/-- R157: the prefix sums of weights: exact for `.n32`. -/
def samplePrefix (t : BitVec 5) (mode : Rounding) (ws : List (Nat × Nat)) (l : Nat) : Nat :=
  let xs := (ws.filter fun x => x.1 ≤ l).map (·.2)
  if t = 16 then foldAdd t mode false xs else xs.foldl (· + ·) 0

/-- R157: the threshold of `SAMPLE` from u and the total. -/
def sampleThreshold (t : BitVec 5) (mode : Rounding) (u total : Nat) : Nat :=
  if t = 16 then
    let f := formatOf t
    let v : FVal := match fval f u with
      | .nan => .fin false 0 0
      | x =>
        if fCompare x (.fin false 0 0) == some .lt then .fin false 0 0
        else if fCompare x (.fin false 0xFFFFFF (-24)) == some .gt then .fin false 0xFFFFFF (-24)
        else x
    roundVal f mode false (fMul v (fval f total))
  else u * total / 2 ^ 32

/-- R157: whether a prefix exceeds the threshold. -/
def sampleAbove (t : BitVec 5) (p th : Nat) : Bool :=
  if t = 16 then fCompare (fval (formatOf t) p) (fval (formatOf t) th) == some .gt else th < p

/-- R157: the pick of `SAMPLE`. -/
def samplePick (t : BitVec 5) (mode : Rounding) (u : Nat) (vals : List (Nat × Nat)) : Nat :=
  let ws := vals.map fun x => (x.1, sampleWeight t x.2)
  let total := samplePrefix t mode ws 31
  let th := sampleThreshold t mode u total
  match ws.find? fun x => sampleAbove t (samplePrefix t mode ws x.1) th with
  | some x => x.1
  | none => 0xFFFFFFFF

/-- R151: each lane reads A at the type. -/
def readOwnA (c : Ctx) : Except (BitVec 8) Nat := readTy c c.a c.ty

/-- R154: a fold that every lane of E receives. -/
def crossFold (i : Instr) (fold : List Nat → Nat) (s : State) : Out :=
  execCross i noLead readOwnA (fun _ _ vals _ => fold (vals.map (·.2))) (typeOf i) s

/-- R152: the value of A in the lane that B names. -/
def execShfl (d : BitVec 8) (a : BitVec 8) (b : BitVec 8) (m : Mods) (s : State) : Out :=
  crossShuffle (.shfl d a b m) (fun _ t => t) s

/-- R152: the value of A in lane L xor B. -/
def execShflx (d : BitVec 8) (a : BitVec 8) (b : BitVec 8) (m : Mods) (s : State) : Out :=
  crossShuffle (.shflx d a b m) (fun l t => Nat.xor l t) s

/-- R152: the value of A in lane L + B. -/
def execShfld (d : BitVec 8) (a : BitVec 8) (b : BitVec 8) (m : Mods) (s : State) : Out :=
  crossShuffle (.shfld d a b m) (fun l t => l + t) s

/-- R152: the value of A in lane L - B. -/
def execShfln (d : BitVec 8) (a : BitVec 8) (b : BitVec 8) (m : Mods) (s : State) : Out :=
  crossShuffle (.shfln d a b m) (fun l t => (l : Int) - t) s

/-- R153: any, all or ballot of the lanes of E. -/
def execVote (d : BitVec 8) (a : BitVec 8) (m : Mods) (s : State) : Out :=
  let i := (.vote d a m)
  execCross i noLead readOwnA (fun _ _ vals _ => voteResult (extOf i).md.toNat vals) 6 s

/-- R154: the sum over E. -/
def execRedadd (d : BitVec 8) (a : BitVec 8) (m : Mods) (s : State) : Out :=
  let i := (.redadd d a m)
  crossFold i (foldAdd (typeOf i) (modeOf i) (extOf i).sat) s

/-- R154: the minimum over E. -/
def execRedmin (d : BitVec 8) (a : BitVec 8) (m : Mods) (s : State) : Out :=
  let i := (.redmin d a m)
  crossFold i (foldMin (typeOf i) false) s

/-- R154: the maximum over E. -/
def execRedmax (d : BitVec 8) (a : BitVec 8) (m : Mods) (s : State) : Out :=
  let i := (.redmax d a m)
  crossFold i (foldMin (typeOf i) true) s

/-- R155: the inclusive prefix sum over E. -/
def execScanadd (d : BitVec 8) (a : BitVec 8) (m : Mods) (s : State) : Out :=
  let i := (.scanadd d a m)
  execCross i noLead readOwnA
    (fun c _ vals _ => foldAdd (typeOf i) (modeOf i) (extOf i).sat ((vals.filter fun x => x.1 ≤ c.l).map (·.2)))
    (typeOf i) s

/-- R156: the value of A in lane j, for the j that B gives; a j of 32 or more is an illegal operand in every lane of E. -/
def execRdlane (d : BitVec 8) (a : BitVec 8) (b : BitVec 8) (m : Mods) (s : State) : Out :=
  let i := (.rdlane d a b m)
  execCross i
    (fun c => do
      let j ← readN32 c c.b
      if j ≥ 32 then .error causeIllegalOperand else .ok j)
    readOwnA (fun _ j vals own => (valueOfLane vals j).getD own) (typeOf i) s

/-- R157: pick a lane by weight. -/
def execSample (d : BitVec 8) (a : BitVec 8) (b : BitVec 8) (m : Mods) (s : State) : Out :=
  let i := (.sample d a b m)
  execCross i (fun c => readTy c c.b c.ty) readOwnA
    (fun _ u vals _ => samplePick (typeOf i) (modeOf i) u vals) 6 s

/-- R158, R38: the mask of the lanes that hold the same value. -/
def execVconf (d : BitVec 8) (a : BitVec 8) (m : Mods) (s : State) : Out :=
  let i := (.vconf d a m)
  execCross i noLead readOwnA (fun c _ vals own => conflictMask c.l own vals) 6 s

/-- R159: the running sum over the lanes with the same key. -/
def execSegsum (d : BitVec 8) (a : BitVec 8) (b : BitVec 8) (m : Mods) (s : State) : Out :=
  let i := (.segsum d a b m)
  execCross i noLead
    (fun c => do
      let x ← readTy c c.a c.ty
      let k ← readN32 c c.b
      .ok (x, k))
    (fun c _ vals own =>
      foldAdd (typeOf i) (modeOf i) (extOf i).sat
        ((vals.filter fun x => x.1 ≤ c.l && x.2.2 == own.2).map (·.2.1)))
    (typeOf i) s

end Sys2Proof.Machine
end

