-- ==== Sys2Proof/Machine/Resource.lean ====
section
/-!
DEFINITION. Resource entries (spec/11 R223 to R228, spec/16 R310, spec/13 R274): their fields, their checks, the
coordinates and addresses of their elements; translation at a channel (R219, R222) and lines that are lost (R348).
-/
namespace Sys2Proof.Machine

/-- R224: the fields of a resource entry. -/
structure Entry where
  ksp : Nat
  pitch1 : Nat
  pitch2 : Nat
  pitch3 : Nat
  dim0 : Nat
  dim1 : Nat
  dim2 : Nat
  dim3 : Nat
  base : Nat
  kind : Nat
  fmt : BitVec 5
  bnd : Nat
  ro : Bool
  gre : Bool
  grs : Nat
  gwe : Bool
  gws : Nat
  ndim : Nat
  reserved : Bool
  deriving DecidableEq, Repr

/-- R224: read the fields of an entry. -/
def entryOf (e : BitVec 512) : Entry :=
  let n := e.toNat
  { ksp := bitsOf n 448 64, pitch3 := bitsOf n 384 64, pitch2 := bitsOf n 320 64, pitch1 := bitsOf n 256 64
    dim3 := bitsOf n 224 32, dim2 := bitsOf n 192 32, dim1 := bitsOf n 160 32, dim0 := bitsOf n 128 32
    base := bitsOf n 64 52, kind := bitsOf n 60 4, fmt := BitVec.ofNat 5 (bitsOf n 55 5), bnd := bitsOf n 53 2
    ro := bitsOf n 52 1 == 1, gre := bitsOf n 51 1 == 1, grs := bitsOf n 48 3, gwe := bitsOf n 47 1 == 1
    gws := bitsOf n 44 3, ndim := bitsOf n 42 2, reserved := bitsOf n 116 12 != 0 || bitsOf n 0 42 != 0 }

/-- R55: a type code that exists. -/
def typeLegal (t : BitVec 5) : Bool := tyIsInt t || tyIsFloat t || tyIsBlock t

/-- R68: the bytes of a block. -/
def blockBytes (t : BitVec 5) : Nat := if t = 21 then 34 else 18

/-- R226: the bytes that an element's addresses must be multiples of: 1 for 4-bit types. -/
def sizeOf (t : BitVec 5) : Nat := if tyBits t < 8 then 1 else tyBits t / 8

/-- R227: the bytes of a row of elements. -/
def rowBytes (t : BitVec 5) (n : Nat) : Nat :=
  if tyIsBlock t then n / 32 * blockBytes t else (n * tyBits t + 7) / 8

/-- R226: the extent of a dimension; one above `NDIM` reads as 1. -/
def dimOf (e : Entry) (j : Nat) : Nat :=
  if e.ndim < j then 1
  else match j with
    | 0 => e.dim0 | 1 => e.dim1 | 2 => e.dim2
    | _ => e.dim3

/-- R224: the pitch of a dimension from 1 to 3. -/
def pitchOf (e : Entry) (j : Nat) : Nat :=
  match j with
  | 1 => e.pitch1 | 2 => e.pitch2 | 3 => e.pitch3
  | _ => 0

/-- The stored extent of a dimension. -/
def rawDim (e : Entry) (j : Nat) : Nat :=
  match j with
  | 0 => e.dim0 | 1 => e.dim1 | 2 => e.dim2
  | _ => e.dim3

/-- R225: the reserved bits of `KSP` are clear. -/
def kspOk (e : Entry) : Bool :=
  match e.kind with
  | 3 => bitsOf e.ksp 52 12 == 0
  | 4 => bitsOf e.ksp 16 48 == 0
  | 5 => bitsOf e.ksp 6 10 == 0 && bitsOf e.ksp 48 16 == 0
  | 6 => bitsOf e.ksp 52 12 == 0 && e.ksp % 128 == 0
  | _ => e.ksp == 0

/-- R226, R227: the last byte of the resource lies below 2^52. -/
def endsInside (e : Entry) : Bool :=
  e.base + (dimOf e 1 - 1) * pitchOf e 1 + (dimOf e 2 - 1) * pitchOf e 2 + (dimOf e 3 - 1) * pitchOf e 3
    + rowBytes e.fmt (dimOf e 0) ≤ 2 ^ 52

/-- R274: the entry of a work list is valid. -/
def workListOk (e : Entry) : Bool :=
  !e.reserved && kspOk e && e.base % 4096 == 0 && 2 ^ 11 ≤ e.dim0 && e.dim0 ≤ 2 ^ 30
    && (e.dim0 &&& (e.dim0 - 1)) == 0
    && (e.fmt == 0 || e.fmt == 5 || e.fmt == 6 || e.fmt == 16 || e.fmt == 7 || e.fmt == 8) && e.bnd ≤ 2 && !e.ro
    && !e.gre && e.grs == 0 && !e.gwe && e.gws == 0 && e.ndim == 0 && e.pitch1 == 0 && e.pitch2 == 0 && e.pitch3 == 0
    && e.dim1 == 0 && e.dim2 == 0 && e.dim3 == 0
    && e.base + e.dim0 * (if e.fmt == 7 || e.fmt == 8 then 8 else 4) ≤ 2 ^ 52

/-- R226 check 2, R227, R310: the entry is valid. -/
def entryValid (e : Entry) : Bool :=
  if e.kind = 6 then workListOk e
  else
    !e.reserved && kspOk e && e.kind ≤ 5 && e.bnd ≤ 2 && typeLegal e.fmt && (e.kind != 1 || e.ndim == 0)
      && [0, 1, 2, 3].all (fun j => if j ≤ e.ndim then rawDim e j != 0 else rawDim e j == 0)
      && [1, 2, 3].all (fun j => !(j ≤ e.ndim) || pitchOf e j % sizeOf e.fmt == 0)
      && (e.kind != 1 || (e.pitch1 == 0 && e.pitch2 == 0 && e.pitch3 == 0))
      && e.base % (if tyIsBlock e.fmt then 2 else sizeOf e.fmt) == 0
      && (!tyIsBlock e.fmt || e.dim0 % 32 == 0) && endsInside e
      && (!(e.gre || e.gwe) || (e.kind ≤ 2 && e.fmt != 9 && e.fmt != 10 && !tyIsBlock e.fmt))

/-- R226 check 4: the type of an access fits the format of the resource. -/
def formatFits (t fmt : BitVec 5) : Bool :=
  if tyIsBlock t || tyIsBlock fmt then t == fmt else tyBits t == tyBits fmt

/-- R223, R348: the entry of a resource index. -/
def resourceEntry (s : State) (p idx : Nat) : Except (BitVec 8) (BitVec 512) :=
  match smFind s.parts p with
  | none => .error causeIndex
  | some x =>
    let va := x.regs.rtbase.toNat + 64 * idx
    if idx ≥ x.regs.rtcnt.toNat then .error causeIndex
    else match readVa s p va 64 with
      | some v => if lineLost s x va then .error causeData else .ok (BitVec.ofNat 512 v)
      | none => .error causePage

/-- R226: the checks of an entry in order: unbound, invalid, the kinds accepted, the format. -/
def checkEntry (raw : BitVec 512) (kinds : List Nat) (t : Option (BitVec 5)) : Except (BitVec 8) Entry :=
  let e := entryOf raw
  if e.kind = 0 then .error causeUnbound
  else if !entryValid e then .error causeEntry
  else if !kinds.contains e.kind then .error causeKind
  else match t with
    | none => .ok e
    | some ty => if formatFits ty e.fmt then .ok e else .error causeFormat

/-- R223, R226: the entry that an instruction names, with its checks. -/
def namedEntry (s : State) (p idx : Nat) (kinds : List Nat) (t : Option (BitVec 5)) :
    Except (BitVec 8) (BitVec 512 × Entry) := do
  let raw ← resourceEntry s p idx
  let e ← checkEntry raw kinds t
  .ok (raw, e)

/-- R227: the number of elements. -/
def elementCount (e : Entry) : Nat := dimOf e 0 * dimOf e 1 * dimOf e 2 * dimOf e 3

/-- R227: the coordinates of a flat index. -/
def coordsOf (e : Entry) (i : Nat) : List Nat :=
  [i % dimOf e 0, i / dimOf e 0 % dimOf e 1, i / (dimOf e 0 * dimOf e 1) % dimOf e 2,
   i / (dimOf e 0 * dimOf e 1 * dimOf e 2) % dimOf e 3]

/-- R227: the coordinates are in bounds. -/
def coordsInside (e : Entry) (xs : List Nat) : Bool :=
  xs.getD 0 0 < dimOf e 0 && xs.getD 1 0 < dimOf e 1 && xs.getD 2 0 < dimOf e 2 && xs.getD 3 0 < dimOf e 3

/-- R227: the flat index of coordinates. -/
def flatIndex (e : Entry) (xs : List Nat) : Nat :=
  xs.getD 0 0 + dimOf e 0 * (xs.getD 1 0 + dimOf e 1 * (xs.getD 2 0 + dimOf e 2 * xs.getD 3 0))

/-- R227: the address of the row of an element. -/
def rowAddr (e : Entry) (xs : List Nat) : Nat :=
  e.base + xs.getD 1 0 * e.pitch1 + xs.getD 2 0 * e.pitch2 + xs.getD 3 0 * e.pitch3

/-- R227, R68, R70: the byte of an element; for a block format the first byte of its block. -/
def elemAddr (e : Entry) (xs : List Nat) : Nat :=
  let x0 := xs.getD 0 0
  rowAddr e xs + (if tyIsBlock e.fmt then x0 / 32 * blockBytes e.fmt else x0 * tyBits e.fmt / 8)

/-- R224: the bytes of a linear resource. -/
def linearBytes (e : Entry) : Nat := rowBytes e.fmt e.dim0

/-- R321: the address of the freeze count of an entry. -/
def freezeAddr (s : State) (p idx : Nat) : Nat :=
  match smFind s.parts p with
  | none => 0
  | some x => x.regs.fzbase.toNat + 2 * idx

/-- R324: the freeze count of an entry. -/
def freezeCount (s : State) (p idx : Nat) : Nat := (readVa s p (freezeAddr s p idx) 2).getD 0

/-! ### Translation at a channel -/

/-- R348: a whole line has been written: it is good again, and so is the parity of a line that was lost; the other lines of its
stripe that are lost stay lost. -/
def healLine (s : State) (x : Partition) (line : Nat) : Partition :=
  let others := (stripeLines x line).filter fun l => l != line && lineLost s x l && !x.lost.contains l
  { x with bad := x.bad.filter (· ≠ line), lost := others ++ x.lost.filter (· ≠ line)
           badParity := if lineLost s x line then x.badParity.filter (· ≠ stripeOf x line) else x.badParity }

/-- R346 to R348: lines whose 128 bytes one store has written are good again. -/
def healLines (s : State) (p : Nat) (lines : List Nat) : State :=
  match smFind s.parts p with
  | none => s
  | some x => if x.bad.isEmpty && x.lost.isEmpty && x.badParity.isEmpty then s else putPart s p (lines.foldl (healLine s) x)

/-! ### Frame sets with several pages -/

/-- R221: the place of a line among the lines of the frame sets. -/
def frameLine (fset va : Nat) (big : Bool) : Nat := fset * 2 ^ 14 + (if big then va % 2 ^ 21 else va % 2 ^ 16) / 128

/-- R221: what a read of an address finds is not settled: other pages map its frame set, and not this address alone has stored to
the line since (notes/assumptions/55). -/
def openLine (x : Partition) (fset va : Nat) (big : Bool) : Bool :=
  (smFind x.aliased fset).isSome && smFind x.owners (frameLine fset va big) != some (some (lineOf va))

/-- A number of `8 n` bits whose bytes are free values. -/
def freeBytes (ctr n : Nat) : Nat :=
  match n with
  | 0 => 0
  | n + 1 => (Config.freeValue ctr).toNat % 256 + 256 * freeBytes (ctr + 1) n

/-- R221: an address is about to be stored to. On a frame set with several pages the store is the first to its line, whose other
bytes are then free values, or one of several addresses'. -/
def claimLine (s : State) (p va : Nat) : State :=
  match smFind s.parts p, channelWalk s p va with
  | some x, .page fset _ _ big =>
    if (smFind x.aliased fset).isNone then s
    else
      let k := frameLine fset va big
      match smFind x.owners k with
      | none =>
        { putPart s p { x with owners := smPut x.owners k (some (lineOf va)) } with
          mem := memWrite s.mem (pageKey p (lineOf va) fset big) 128 (freeBytes s.freeCtr 128), freeCtr := s.freeCtr + 128 }
      | some a => if a = some (lineOf va) then s else putPart s p { x with owners := smPut x.owners k none }
  | _, _ => s

/-! ### Bytes of coherent memory -/

/-- R287: `n` bytes of a peer's memory: free values (notes/assumptions/17). -/
def peerBytes (ctr va n : Nat) : Nat :=
  match n with
  | 0 => 0
  | n + 1 => (Config.freeValue (ctr + va)).toNat % 256 + 256 * peerBytes ctr (va + 1) n

/-- R219, R232, R287, R348: read `n` bytes of one line. Where other pages map its frame set the bytes are free values, unless this
address alone has stored to the line, because the device keeps no coherence between them (R221, notes/assumptions/55). -/
def readBytes (s : State) (p va n : Nat) : Except (BitVec 8) Nat :=
  match smFind s.parts p with
  | none => .error causePage
  | some x =>
    match peerWindowOf x va with
    | some _ => .ok (peerBytes s.freeCtr va n)
    | none =>
      match channelWalk s p va with
      | .page fset _ _ big =>
        if lineLost s x va then .error causeData
        else if openLine x fset va big then .ok (peerBytes s.freeCtr va n)
        else .ok (memRead s.mem (pageKey p va fset big) n)
      | _ => .error causePage

/-- R232: the place of a byte that may be written. -/
def writablePlace (s : State) (p va : Nat) : Except (BitVec 8) Nat :=
  match channelWalk s p va with
  | .page fset w _ big => if w then .ok (pageKey p va fset big) else .error causeWrite
  | _ => .error causePage

/-- R232, R287: write `n` bytes of one line; a write into a peer window leaves the device. -/
def writeBytes (s : State) (p va n v : Nat) : Except (BitVec 8) State :=
  match smFind s.parts p with
  | none => .error causePage
  | some x =>
    match peerWindowOf x va with
    | some _ => .ok s
    | none => do
      let k ← writablePlace s p va
      let t := claimLine s p va
      .ok { t with mem := memWrite t.mem k n v }

/-! ### Line requests at a channel -/

/-- R222: add an evicted entry's counter to the partition's shadow table. -/
def addHotness (s : State) (p : Nat) (e : TlbEntry) : State :=
  match smFind s.parts p with
  | none => s
  | some x =>
    let va := x.regs.hotbase.toNat + e.fset
    match readVa s p va 1 with
    | some v => pokeVa s p va [BitVec.ofNat 8 (min (v + e.hot.toNat) 255)]
    | none => walkEvent s p va 0

/-- The channel of a TLB key. -/
def channelOfKey (key : Nat) : Nat := key / 2 ^ 37

/-- R219, R222: a channel's TLB takes an entry; a full one evicts its first (notes/assumptions/22). -/
def fillTlb (s : State) (p key : Nat) (e : TlbEntry) : State :=
  match smFind s.parts p with
  | none => s
  | some x =>
    let mine := x.tlb.filter fun y => channelOfKey y.1 == channelOfKey key
    match mine with
    | [] => putPart s p { x with tlb := smPut x.tlb key e }
    | (k0, e0) :: _ =>
      if mine.length < 256 then putPart s p { x with tlb := smPut x.tlb key e }
      else
        let s1 := addHotness s p e0
        match smFind s1.parts p with
        | none => s1
        | some y => putPart s1 p { y with tlb := smPut (smErase y.tlb k0) key e }

/-- R222: a request counts towards the hotness of its entry. -/
def countRequest (e : TlbEntry) : TlbEntry :=
  if e.requests + 1 < 64 then { e with requests := e.requests + 1 }
  else { e with requests := 0, hot := if e.hot = 255 then 255 else e.hot + 1 }

/-- R219: a stack's TLB, which serves the partitions that have a parity group on the stack, takes an entry; a full one evicts its first
(notes/assumptions/22). -/
def fillStack (s : State) (p key : Nat) (e : StackTlb) : State :=
  let there := s.parts.flatMap fun y =>
    (y.2.stlb.filter fun z => channelOfKey z.1 == channelOfKey key && (y.1 != p || z.1 != key)).map fun z => (y.1, z.1)
  let t := match there with
    | [] => s
    | (q, k) :: _ => if there.length < 8192 then s else match smFind s.parts q with
        | some y => putPart s q { y with stlb := smErase y.stlb k }
        | none => s
  match smFind t.parts p with
  | none => t
  | some x => putPart t p { x with stlb := smPut x.stlb key e }

/-- R219, R220, R222: translate at the channel, first in its own TLB, then in its stack's, then by the page table, filling and
counting; none when the page is not mapped. -/
def channelTranslate (s : State) (p va : Nat) : Option State :=
  match smFind s.parts p with
  | none => none
  | some x =>
    let c := channelOf x va
    let key := fun big => tlbKey c va big
    if 2 ^ 52 ≤ va then none
    else match smFind x.tlb (key false) with
    | some e => some (putPart s p { x with tlb := smPut x.tlb (key false) (countRequest e) })
    | none => match smFind x.tlb (key true) with
      | some e => some (putPart s p { x with tlb := smPut x.tlb (key true) (countRequest e) })
      | none => match channelWalk s p va with
        | .page fset w _ big =>
          some (fillStack (fillTlb s p (key big) { fset := fset, w := w, big := big, requests := 1, hot := 0 }) p
            (tlbKey (stackOfChannel c) va big) { fset := fset, w := w, big := big })
        | _ => none

/-- R346: the event of a read of a line that is rebuilt. -/
def rebuiltEvent (s : State) (p va core : Nat) : State :=
  match smFind s.parts p with
  | none => s
  | some x =>
    if lineBad s x va && !lineLost s x va && (peerWindowOf x va).isNone then deviceEvent s p 0x20 { addr := lineOf va, core := core }
    else s

/-- R220, R345, R346, R348: the events of a read of a word that the device makes for itself: its walk met a malformed entry, its line
is lost or rebuilt. -/
def ownRead (p core : Nat) (s : State) (va : Nat) : State :=
  match readBytes s p va 1 with
  | .ok _ => rebuiltEvent s p va core
  | .error cause => faultEvent s p cause va core

/-- R346, R348: a partition has lines that are not read plainly. -/
def storageTroubled (s : State) (x : Partition) : Bool := !x.bad.isEmpty || !x.lost.isEmpty || s.dev.chans.any fun c => c.2.failed

/-- The lines of a range of bytes. -/
def linesFrom (va n : Nat) : List Nat := (List.range ((va + n - 1) / 128 - va / 128 + 1)).map fun i => lineOf va + 128 * i

/-- R348: the lost lines of a range of bytes. -/
def lostIn (s : State) (p va n : Nat) : List Nat :=
  match smFind s.parts p with
  | none => []
  | some x => if storageTroubled s x then (linesFrom va n).filter (lineLost s x) else []

/-- R220, R345, R346, R348: the events of a read of a gate table or of gate code: of the walk for each page of it, and of each line that
is lost or rebuilt. -/
def rangeRead (s : State) (p core va n : Nat) : State :=
  let pages := (List.range ((va + n - 1) / 65536 - va / 65536 + 1)).map fun i => max va ((va / 65536 + i) * 65536)
  let t := pages.foldl (fun t a => walkEvent t p a core) s
  match smFind s.parts p with
  | none => t
  | some x =>
    if storageTroubled s x then
      (linesFrom va n).foldl (fun t l => if lineLost s x l then faultEvent t p causeData l core else rebuiltEvent t p l core) t
    else t

/-- R220, R346: the read of the freeze count of an entry that a write has checked. -/
def freezeEvent (s : State) (p idx core : Nat) : State := ownRead p core s (freezeAddr s p idx)

/-- R346, R348: reading a line from DRAM: lost, rebuilt with its event, or plain. -/
def serveLine (s : State) (p va core : Nat) : Except (BitVec 8) State :=
  match smFind s.parts p with
  | none => .error causePage
  | some x => if lineLost s x va then .error causeData else .ok (rebuiltEvent s p va core)

/-- R25, R219, R222, R346: one line request at the channel of an address, of a copy, a list instruction or a job of a launch, or of
other work: its translation and its bytes are counted, and a read of a line that is rebuilt has its event. -/
def lineRequest (p core : Nat) (of : Option Nat) (read : Bool) (s : State) (va : Nat) : State :=
  match smFind s.parts p with
  | none => s
  | some x =>
    if (peerWindowOf x va).isSome then s
    else
      let t := countTraffic ((channelTranslate s p va).getD s) (channelOf x va) of 128
      if read then rebuiltEvent t p va core else t

/-- The line requests of lists of addresses: one for each line that is read, then one for each that is written (R318). -/
def lineRequests (s : State) (p core : Nat) (of : Option Nat) (reads writes : List Nat) : State :=
  let t := (reads.map lineOf).eraseDups.foldl (lineRequest p core of true) s
  (writes.map lineOf).eraseDups.foldl (lineRequest p core of false) t

end Sys2Proof.Machine
end

