-- ==== Sys2Proof/Machine/Graph.lean ====
section
/-!
DEFINITION. The groomer (spec/16): node words, graph images and their validity (R302 to R305), the beat of a graph
(R300, R301, R303), stream conversions (R310), read and write streams (R309, R311), merged elements of a layered
handle (R321, R325); with them one element of a resource read and written (R227, R232, R233).
-/
namespace Sys2Proof.Machine

/-! ### Images -/

/-- R302: a node word. -/
structure NodeWord where
  op : Nat
  sa : Nat
  sb : Nat
  sc : Nat
  ka : Nat
  kb : Nat
  kc : Nat
  ca : Nat
  cb : Nat
  cc : Nat
  awm : Nat
  route : Nat
  reserved : Bool
  deriving DecidableEq, Repr

/-- R302, R304: the node word of a PE. -/
def nodeOf (im : BitVec 1536) (n : Nat) : NodeWord :=
  let w := bitsOf im.toNat (64 * n) 64
  { op := bitsOf w 59 5, sa := bitsOf w 55 4, sb := bitsOf w 51 4, sc := bitsOf w 47 4, ka := bitsOf w 44 3,
    kb := bitsOf w 41 3, kc := bitsOf w 38 3, ca := bitsOf w 36 2, cb := bitsOf w 34 2, cc := bitsOf w 32 2,
    awm := bitsOf w 28 4, route := bitsOf w 26 2, reserved := bitsOf w 0 26 != 0 }

/-- R304: the header's lane types: 0 `FOUT`, 1 `FS0`, 2 `FS1`. -/
def laneTypeCode (im : BitVec 1536) (which : Nat) : Nat := bitsOf im.toNat (1024 + 5 * which) 5

/-- R304: a lane type; 0 is read as `.f32`. -/
def laneType (im : BitVec 1536) (which : Nat) : BitVec 5 :=
  let c := laneTypeCode im which
  if c = 0 then 16 else BitVec.ofNat 5 c

/-- R304: a constant of the image. -/
def graphConst (im : BitVec 1536) (q : Nat) : Word := BitVec.ofNat 32 (bitsOf im.toNat (1024 + 256 + 32 * q) 32)

/-- R302, R303: a node that is no fault of its image. -/
def nodeValid (x : NodeWord) : Bool :=
  x.op ≤ 23 && x.sa ≤ 8 && x.sb ≤ 8 && x.sc ≤ 8 && x.route ≤ 1 && !x.reserved

/-- R305: an image is valid. -/
def imageValid (im : BitVec 1536) : Bool :=
  (List.range 16).all (fun n => nodeValid (nodeOf im n))
    && ((List.range 16).filter fun n => (nodeOf im n).route == 1).length ≤ 1
    && (List.range 3).all (fun w => [0, 5, 6, 16].contains (laneTypeCode im w)) && bitsOf im.toNat (1024 + 15) 241 == 0

/-! ### Beats -/

/-- R301: the state of a graph's lanes: `acc` m of PE n in lane i has key 64 i + 4 n + m, the output of the previous
beat of PE n in lane i key 16 i + n. -/
structure GraphState where
  acc : SMap Word
  prev : SMap Word
  deriving DecidableEq, Repr

/-- R301: accumulators and prev are zero at a start. -/
def GraphState.zero : GraphState := { acc := [], prev := [] }

/-- R300: the neighbour of a PE: 0 north, 1 east, 2 south, 3 west. -/
def neighbour (n dir : Nat) : Nat :=
  match dir with
  | 0 => (n / 4 + 3) % 4 * 4 + n % 4
  | 1 => n / 4 * 4 + (n + 1) % 4
  | 2 => (n / 4 + 1) % 4 * 4 + n % 4
  | _ => n / 4 * 4 + (n + 3) % 4

/-- R301: an input of node `n` in lane `i`. -/
def nodeInput (im : BitVec 1536) (i : Nat) (st : GraphState) (x0 x1 : Word) (cur : List Word) (n src k m : Nat) : Word :=
  match src with
  | 4 => x0
  | 5 => x1
  | 6 => graphConst im k
  | 7 => smGet 0 st.acc (64 * i + 4 * n + m)
  | 8 => smGet 0 st.prev (16 * i + n)
  | dir =>
    let j := neighbour n dir
    if j < n then cur.getD j 0 else smGet 0 st.prev (16 * i + j)

/-- R303: `.f32` arithmetic of a node. -/
def nodeFloat (v : FVal) : Word := BitVec.ofNat 32 (roundVal (formatOf 16) .rne false v)

/-- R303: the operations. -/
def nodeOp (op : Nat) (a b c : Word) : Word :=
  let fa := fval (formatOf 16) a.toNat
  let fb := fval (formatOf 16) b.toNat
  let fc := fval (formatOf 16) c.toNat
  match op with
  | 1 => a
  | 2 => nodeFloat (fAdd .rne fa fb)
  | 3 => nodeFloat (fAdd .rne fa (fNegate fb))
  | 4 => nodeFloat (fMul fa fb)
  | 5 => nodeFloat (fAdd .rne (fMul fa fb) fc)
  | 6 => BitVec.ofNat 32 (foldMin 16 false [a.toNat, b.toNat])
  | 7 => BitVec.ofNat 32 (foldMin 16 true [a.toNat, b.toNat])
  | 8 => a &&& 0x7FFFFFFF
  | 9 => a ^^^ 0x80000000
  | 10 => if fCompare fa fb = some .lt then 0x3F800000 else 0
  | 11 => if c ≠ 0 then a else b
  | 12 => a + b
  | 13 => a - b
  | 14 => a * b
  | 15 => if a.toInt ≤ b.toInt then a else b
  | 16 => if a.toInt ≤ b.toInt then b else a
  | 17 => a &&& b
  | 18 => a ||| b
  | 19 => a ^^^ b
  | 20 => a <<< (b.toNat % 32)
  | 21 => a >>> (b.toNat % 32)
  | 22 => BitVec.ofNat 32 (convertTo 16 .rne false (valueAt 5 a.toNat))
  | 23 => BitVec.ofNat 32 (convertTo 5 .rne true fa)
  | _ => 0

/-- R301: the outputs of the nodes in lane `i`, in node order. -/
def nodeOutputs (im : BitVec 1536) (i : Nat) (st : GraphState) (x0 x1 : Word) : List Word :=
  (List.range 16).foldl (fun cur n =>
    let w := nodeOf im n
    let inp := fun src k m => nodeInput im i st x0 x1 cur n src k m
    cur ++ [nodeOp w.op (inp w.sa w.ka w.ca) (inp w.sb w.kb w.cb) (inp w.sc w.kc w.cc)]) []

/-- R301: one beat in lane `i`: the output, and the state after it. -/
def beatLane (im : BitVec 1536) (i : Nat) (st : GraphState) (x0 x1 : Word) : Word × GraphState :=
  let cur := nodeOutputs im i st x0 x1
  let acc := (List.range 16).foldl (fun acc n =>
    let w := nodeOf im n
    if w.op = 0 then acc
    else (List.range 4).foldl (fun acc m =>
      if w.awm.testBit m then smSet 0 acc (64 * i + 4 * n + m) (cur.getD n 0) else acc) acc) st.acc
  let prev := (List.range 16).foldl (fun prev n => smSet 0 prev (16 * i + n) (cur.getD n 0)) st.prev
  let out := match (List.range 16).find? fun n => (nodeOf im n).route == 1 with
    | some o => cur.getD o 0
    | none => 0
  (out, { acc := acc, prev := prev })

/-- R310: a stream element of a type entering a lane. -/
def enterLane (im : BitVec 1536) (which : Nat) (t : BitVec 5) (pat : Nat) : Word :=
  BitVec.ofNat 32 (convertTo (laneType im which) .rne false (valueAt t pat))

/-- R310: the output of a graph converted to a destination format. -/
def leaveLaneAs (im : BitVec 1536) (t : BitVec 5) (v : Word) : Nat :=
  convertTo t .rne false (valueAt (laneType im 0) v.toNat)

/-- R309: the offset of an element at `a` that stream 1 of a read stream holds. -/
def streamOffset (e : Entry) (a : Nat) : Nat := (((a : Int) - e.base) / sizeOf e.fmt % 2 ^ 32).toNat

/-- R301, R309, R311: run a graph over the slices of a line in one lane, from the first slice up to the one of element
`j`: its output there. `x0` and `x1` give the streams' elements by their index in the line. -/
def lineGraph (im : BitVec 1536) (j : Nat) (x0 x1 : Nat → Word) : Word :=
  ((List.range (j / 32 + 1)).foldl (fun (acc : Word × GraphState) b =>
    beatLane im (j % 32) acc.2 (x0 (32 * b + j % 32)) (x1 (32 * b + j % 32))) (0, GraphState.zero)).1

/-- The image of a partition's graph slot (R307). -/
def slotImage (s : State) (p slot : Nat) : BitVec 1536 :=
  match smFind s.parts p with
  | some x => smGet 0 x.slots slot
  | none => 0

/-! ### Elements -/

/-- A fault of an access: its cause and the address that its record names. -/
abbrev MemFault := BitVec 8 × Nat

/-- Name the address of a fault. -/
def faultAt {α : Type} (va : Nat) (x : Except (BitVec 8) α) : Except MemFault α :=
  match x with
  | .ok v => .ok v
  | .error c => .error (c, va)

/-- Whether an address lies in a live peer window. -/
def inPeerWindow (s : State) (p va : Nat) : Bool :=
  match smFind s.parts p with
  | some x => (peerWindowOf x va).isSome
  | none => false

/-- R227, R70, R182: the element at coordinates, as it stands in memory: a w-bit pattern, or a block word. -/
def rawElement (s : State) (p : Nat) (e : Entry) (xs : List Nat) : Except MemFault Nat :=
  let a := elemAddr e xs
  let x0 := xs.getD 0 0
  if tyIsBlock e.fmt then do
    let e0 ← faultAt a (readBytes s p a 1)
    let e1 ← faultAt (a + 1) (readBytes s p (a + 1) 1)
    let at_ := a + 2 + (if e.fmt = 21 then x0 % 32 else x0 % 32 / 2)
    let v ← faultAt at_ (readBytes s p at_ 1)
    .ok (blockWord e.fmt e0 e1 (if e.fmt = 21 then v else bitsOf v (4 * (x0 % 2)) 4))
  else if tyBits e.fmt = 4 then do
    let v ← faultAt a (readBytes s p a 1)
    .ok (bitsOf v (4 * (x0 % 2)) 4)
  else faultAt a (readBytes s p a (sizeOf e.fmt))

/-- R309: the element at coordinates of a resource whose read stream passes through a graph. -/
def streamedElement (s : State) (p : Nat) (e : Entry) (xs : List Nat) : Except MemFault Nat := do
  let a := elemAddr e xs
  let z := sizeOf e.fmt
  let line ← faultAt a (readBytes s p (lineOf a) 128)
  if inPeerWindow s p a then .ok (bitsOf line 0 (8 * z))
  else
    let im := slotImage s p e.grs
    let j := a % 128 / z
    .ok (leaveLaneAs im e.fmt (lineGraph im j
      (fun i => enterLane im 1 e.fmt (bitsOf line (8 * z * i) (8 * z)))
      (fun i => enterLane im 2 6 (streamOffset e (lineOf a + z * i)))))

/-! ### Layered handles -/

/-- R321: a layer-list record. -/
structure LayerList where
  vbase : Nat
  ent : Nat
  base : Nat
  layers : List Nat
  deriving DecidableEq, Repr

/-- R321: the record at an address; none when it is free. -/
def layerList (s : State) (p addr : Nat) : Option LayerList :=
  match readVa s p addr 64 with
  | none => none
  | some v =>
    let nl := bitsOf v 256 4
    if nl = 0 then none
    else some { vbase := bitsOf v 448 52, ent := bitsOf v 432 16, base := bitsOf v 416 16,
                layers := (List.range (min nl 8)).map fun i => bitsOf v (288 + 16 * i) 16 }

/-- The record of a handle's entry (R225, R321). -/
def handleRecord (s : State) (p : Nat) (e : Entry) : Option LayerList := layerList s p (bitsOf e.ksp 0 52)

/-- The fields of the entry of an index, checks apart. -/
def entryAt (s : State) (p idx : Nat) : Option Entry :=
  match resourceEntry s p idx with
  | .ok r => some (entryOf r)
  | .error _ => none

/-- An entry of no resource. -/
def Entry.none : Entry := entryOf 0

/-- R223: the address of the entry of an index. -/
def entryVa (s : State) (p idx : Nat) : Nat :=
  match smFind s.parts p with
  | .some x => x.regs.rtbase.toNat + 64 * idx
  | .none => 0

/-- R225, R321, R322: the places that a read through a handle looks at before its elements: its record, the entry of its base, those of
its layers, of their index lists and of their factors. -/
def handleReads (s : State) (p : Nat) (e : Entry) : List Nat :=
  bitsOf e.ksp 0 52 :: match handleRecord s p e with
    | .none => []
    | .some l => (l.base :: l.layers.flatMap fun i => match entryAt s p i with
        | .none => [i]
        | .some lay =>
          if lay.kind = 4 then [i, bitsOf lay.ksp 0 16]
          else if lay.kind = 5 then [i, bitsOf lay.ksp 16 16, bitsOf lay.ksp 32 16]
          else [i]).map (entryVa s p)

/-- R220, R345: the events of those reads: one of a line that is rebuilt for each line. -/
def handleEvent (s : State) (p core : Nat) (e : Entry) : State :=
  if e.kind = 3 then ((handleReads s p e).map lineOf).eraseDups.foldl (ownRead p core) s else s

/-- R309: an element of a linear or tensor resource, through its read stream when it has one. -/
def plainElement (s : State) (p : Nat) (e : Entry) (xs : List Nat) : Except MemFault Nat :=
  if e.gre then streamedElement s p e xs else rawElement s p e xs

/-- R325: an element of a factor or layer as an `.f32` value. -/
def layerValue (s : State) (p : Nat) (e : Entry) (xs : List Nat) : Except MemFault FVal := do
  let v ← plainElement s p e xs
  .ok (fval (formatOf e.fmt) v)

/-- R325: round to `.f32`. -/
def toF32 (v : FVal) : FVal := fval (formatOf 16) (roundVal (formatOf 16) .rne false v)

/-- R322, R325: search the strictly ascending indices `lo` to `hi` - 1 of an index list for an index. -/
def findIndex (s : State) (p : Nat) (list : Entry) (target lo hi fuel : Nat) : Except MemFault (Option Nat) :=
  match fuel with
  | 0 => .ok .none
  | fuel + 1 =>
    if lo < hi then do
      let mid := (lo + hi) / 2
      let v ← plainElement s p list [mid, 0, 0, 0]
      if v = target then .ok (some mid)
      else if v < target then findIndex s p list target (mid + 1) hi fuel
      else findIndex s p list target lo mid fuel
    else .ok .none

/-- R325: the low-rank sum from element `k` on, with `n` elements left. -/
def lowRankSum (s : State) (p : Nat) (u v : Entry) (x1 x0 k n : Nat) (c : FVal) : Except MemFault FVal :=
  match n with
  | 0 => .ok c
  | n + 1 => do
    let a ← layerValue s p u [k, x1, 0, 0]
    let b ← layerValue s p v [k, x0, 0, 0]
    lowRankSum s p u v x1 x0 (k + 1) n (toF32 (fAdd .rne (fMul a b) c))

/-- R325: add one layer to a merged element. -/
def addLayer (s : State) (p : Nat) (base : Entry) (xs : List Nat) (acc : FVal) (layer : Nat) : Except MemFault FVal := do
  let lay := (entryAt s p layer).getD Entry.none
  if lay.kind = 4 then
    let list := (entryAt s p (bitsOf lay.ksp 0 16)).getD Entry.none
    match ← findIndex s p list (flatIndex base xs) 0 list.dim0 33 with
    | some k => do
      let v ← layerValue s p lay [k, 0, 0, 0]
      .ok (toF32 (fAdd .rne acc v))
    | .none => .ok acc
  else if lay.kind = 5 then
    let u := (entryAt s p (bitsOf lay.ksp 16 16)).getD Entry.none
    let v := (entryAt s p (bitsOf lay.ksp 32 16)).getD Entry.none
    let c ← lowRankSum s p u v (xs.getD 1 0) (xs.getD 0 0) 0 (bitsOf lay.ksp 0 6 + 1) (.fin false 0 0)
    .ok (toF32 (fAdd .rne acc c))
  else .ok acc

/-- R325: add the layers in order. -/
def addLayers (s : State) (p : Nat) (base : Entry) (xs : List Nat) (layers : List Nat) (acc : FVal) : Except MemFault FVal :=
  match layers with
  | [] => .ok acc
  | l :: rest => do
    let a ← addLayer s p base xs acc l
    addLayers s p base xs rest a

/-- R325: the merged element of a handle. -/
def mergedElement (s : State) (p : Nat) (h : Entry) (xs : List Nat) : Except MemFault Nat :=
  match handleRecord s p h with
  | .none => .error (causeUnbound, 0)
  | some l => do
    let base := (entryAt s p l.base).getD Entry.none
    let v ← layerValue s p base xs
    let a ← addLayers s p base xs l.layers v
    .ok (roundVal (formatOf base.fmt) .rne false a)

/-- R232, R309, R325: what a read through an entry gives for an element. -/
def readElement (s : State) (p : Nat) (e : Entry) (xs : List Nat) : Except MemFault Nat :=
  if e.kind = 3 then mergedElement s p e xs else plainElement s p e xs

/-! ### Writing -/

/-- R311: the value that a graph gives for the element at address `a`, from the stored patterns of the elements of
its line (by index in the line) and the old bytes of the line; the elements of stream 0 that the store does not write
are free values. -/
def writtenThrough (s : State) (p : Nat) (e : Entry) (a : Nat) (stored : Nat → Option Nat) (old : Nat) : Nat :=
  let im := slotImage s p e.gws
  let z := sizeOf e.fmt
  let j := a % 128 / z
  leaveLaneAs im e.fmt (lineGraph im j
    (fun i => enterLane im 1 e.fmt (match stored i with
      | some v => v
      | .none => (Config.freeValue (s.freeCtr + i)).toNat % 2 ^ (8 * z)))
    (fun i => enterLane im 2 e.fmt (bitsOf old (8 * z * i) (8 * z))))

/-- R232, R233, R311: write the element at coordinates. -/
def writeElement (s : State) (p : Nat) (e : Entry) (xs : List Nat) (pat : Nat) : Except MemFault State :=
  let a := elemAddr e xs
  let x0 := xs.getD 0 0
  let z := sizeOf e.fmt
  if tyBits e.fmt = 4 then
    if inPeerWindow s p a then .ok s
    else do
      let k ← faultAt a (writablePlace s p a)
      let t := claimLine s p a
      let old := (memGet t.mem k).toNat
      .ok { t with mem := memSet t.mem k (BitVec.ofNat 8
        (if x0 % 2 = 0 then old / 16 * 16 + pat % 16 else old % 16 + pat % 16 * 16)) }
  else if e.gwe && !inPeerWindow s p a then do
    let _ ← faultAt a (writeBytes s p a z pat)
    let line ← faultAt a (readBytes s p (lineOf a) 128)
    let v := writtenThrough s p e a (fun i => if i = a % 128 / z then some pat else .none) line
    faultAt a (writeBytes { s with freeCtr := s.freeCtr + 128 } p a z v)
  else faultAt a (writeBytes s p a z pat)

/-- R321, R330: the address of the line that backs an element: of a handle's view, the base's. -/
def dataAddr (s : State) (p : Nat) (e : Entry) (xs : List Nat) : Nat :=
  if e.kind = 3 then match handleRecord s p e with
    | some l => elemAddr ((entryAt s p l.base).getD Entry.none) xs
    | none => elemAddr e xs
  else elemAddr e xs

/-- R68, R233: the places that a read of one element looks at: of a block format the exponents and the element, which can lie in two
lines. -/
def elementPlaces (s : State) (p : Nat) (e : Entry) (xs : List Nat) : List Nat :=
  let a := dataAddr s p e xs
  if tyIsBlock e.fmt then [a, a + 2 + xs.getD 0 0 % 32 * (blockBytes e.fmt - 2) / 32] else [a]

/-- R311: the pattern that a store of several elements as one event places for one of them; `all` gives the stored
patterns by address. -/
def placedPattern (s : State) (p : Nat) (e : Entry) (all : List (Nat × Nat)) (xs : List Nat) (pat : Nat) : Except MemFault Nat :=
  let a := elemAddr e xs
  if e.gwe && !inPeerWindow s p a then do
    let line ← faultAt a (readBytes s p (lineOf a) 128)
    .ok (writtenThrough s p e a (fun i => (all.find? fun x => x.1 == lineOf a + sizeOf e.fmt * i).map (·.2)) line)
  else .ok pat

/-- R309: the bytes of a linear resource from an offset, through its read stream. -/
def streamBytes (s : State) (p : Nat) (e : Entry) (off n : Nat) : Except MemFault (List Byte) :=
  match n with
  | 0 => .ok []
  | n + 1 => do
    let z := sizeOf e.fmt
    let v ← readElement s p e (coordsOf e (off / z))
    let rest ← streamBytes s p e (off + 1) n
    .ok (BitVec.ofNat 8 (v / 2 ^ (8 * (off % z))) :: rest)

/-- R221: what a read of an address finds is not settled, because other pages map its frame set. -/
def aliasedAt (s : State) (p va : Nat) : Bool :=
  match smFind s.parts p with
  | some x => (match channelWalk s p va with | .page fset _ _ big => openLine x fset va big | _ => false)
  | none => false

/-- R287, R221: an access to a peer's memory, or to an aliased page, uses up a free value for every address. -/
def countPeer (s : State) (p va : Nat) : State :=
  if inPeerWindow s p va || aliasedAt s p va then { s with freeCtr := s.freeCtr + 2 ^ 53 } else s

/-- R85, R256, R370: an atomic add on a word at system scope: the state after it and the old value. -/
def addWord (s : State) (p va v : Nat) : Except (BitVec 8) (State × Nat) := do
  let old ← readBytes s p va 4
  let t ← writeBytes (lineRequest p 0 none true s va) p va 4 ((old + v) % 2 ^ 32)
  .ok (countPeer t p va, old)

end Sys2Proof.Machine
end

