-- ==== Sys2Proof/Machine/Access.lean ====
section
/-!
DEFINITION. Accesses to coherent memory by lanes and by the uniform pipe: the checks at issue in their order (R226,
R232, R264, R291, R311, R324), the request that holds the accesses until they are performed, performing one access
(R232, R262, R291), its fault (R236, R237), and the completion of the request (R93, R348).
-/
namespace Sys2Proof.Machine

/-! ### Atomic operations -/

/-- R262, R80: add two packed halves of a format, each rounded on its own. -/
def addHalves (t : BitVec 5) (a b : Nat) : Nat :=
  let half := fun h => roundVal (formatOf t) .rne false
    (fAdd .rne (fval (formatOf t) (bitsOf a (16 * h) 16)) (fval (formatOf t) (bitsOf b (16 * h) 16)))
  half 0 + 2 ^ 16 * half 1

/-- R262: the sum of an atomic. -/
def atomAdd (t : BitVec 5) (a b : Nat) : Nat :=
  if t = 18 then addHalves 18 a b
  else if tyIsFloat t then roundVal (formatOf t) .rne false (fAdd .rne (fval (formatOf t) a) (fval (formatOf t) b))
  else (a + b) % 2 ^ tyBits t

/-- R262, R265: the new value, and whether it is stored. -/
def atomApply (op : Nat) (t : BitVec 5) (old v1 v2 : Nat) : Nat × Bool :=
  match op with
  | 0 => (atomAdd t old v1, true)
  | 1 => (foldMin t false [old, v1], true)
  | 2 => (foldMin t true [old, v1], true)
  | 3 => (old &&& v1, true)
  | 4 => (old ||| v1, true)
  | 5 => (old ^^^ v1, true)
  | 6 => (v1, true)
  | 7 => if old = v1 then (v2, true) else (old, false)
  | 8 => (if old ≥ v1 then 0 else old + 1, true)
  | 9 => (if old = 0 || old > v1 then v1 else old - 1, true)
  | _ => if old + v1 ≤ v2 then (old + v1, true) else (old, false)

/-- R263: the operations that write a predicate pair. -/
def atomTests (op : Nat) : Bool := op == 7 || op == 10

/-- R262: the elements that an atomic acts on: two for `.bf16`. -/
def atomCoords (e : Entry) (t : BitVec 5) (elem : Nat) : List (List Nat) :=
  if t = 18 then [coordsOf e elem, coordsOf e (elem + 1)] else [coordsOf e elem]

/-- The old value of an atomic. -/
def atomRead (s : State) (p : Nat) (e : Entry) (xss : List (List Nat)) : Except MemFault Nat :=
  match xss with
  | [] => .ok 0
  | xs :: rest => do
    let v ← rawElement s p e xs
    let r ← atomRead s p e rest
    .ok (v + 2 ^ 16 * r)

/-- The new value of an atomic, written to its elements. -/
def atomWrite (s : State) (p : Nat) (e : Entry) (xss : List (List Nat)) (v : Nat) : Except MemFault State :=
  match xss with
  | [] => .ok s
  | [xs] => writeElement s p e xs v
  | xs :: rest => do
    let t ← writeElement s p e xs (v % 2 ^ 16)
    atomWrite t p e rest (v / 2 ^ 16)

/-- R260, R262, R264: one atomic as one step: the state after it, the old value, whether it stored. One that stores
nothing is a load only (R267), so a page without write permission does not stop it. -/
def atomStep (s : State) (p : Nat) (e : Entry) (t : BitVec 5) (elem op v1 v2 : Nat) : Except MemFault (State × Nat × Bool) := do
  let xss := atomCoords e t elem
  let old ← atomRead s p e xss
  let r := atomApply op t old v1 v2
  let s' ← if r.2 then atomWrite s p e xss r.1 else .ok s
  .ok (countPeer s' p (elemAddr e (coordsOf e elem)), old, r.2)

/-! ### Registers of a request -/

/-- R46, R169, R182: the type at which an access's result is written to registers. -/
def resultType (t : BitVec 5) (wide : Bool) : BitVec 5 := if tyIsBlock t || wide then 6 else t

/-- Write a result to a lane register by its absolute number, without a latch. -/
def writeAbs (ln : Lane) (n : Nat) (rt : BitVec 5) (pat : Nat) : Lane :=
  let v := widen rt pat
  let l1 := setReg ln n (v.setWidth 32)
  if tyBits rt = 64 then setReg l1 (n + 1) (v.extractLsb' 32 32) else l1

/-- Write a result to a uniform register by its absolute number. -/
def writeUabs (g : Group) (n : Nat) (rt : BitVec 5) (pat : Nat) : Group :=
  let v := widen rt pat
  let g1 := setUreg g n (v.setWidth 32)
  if tyBits rt = 64 then setUreg g1 (n + 1) (v.extractLsb' 32 32) else g1

/-- R263: the predicates of `.cas` and `.bfadd` in a lane. -/
def atomPreds (ln : Lane) (ok : Bool) : Lane := { ln with preds := setPred (setPred ln.preds 14 ok) 15 !ok }

/-- R263: the predicates of `.cas` and `.bfadd` of the group. -/
def atomUpreds (g : Group) (ok : Bool) : Group := { g with qpreds := setPred (setPred g.qpreds 6 ok) 7 !ok }

/-! ### Plans -/

/-- What a lane, or the group, does at issue: it traps, its element is counted as dropped, it is done, or it makes an
access. -/
inductive Planned (α : Type) where
  | trap (cause : BitVec 8) (x : MemInfo)
  | drop (elem : Nat) (a : α)
  | done (a : α)
  | acc (a : Acc)

/-- The element that an access names: its number in the record, its coordinates, whether it is in bounds. -/
structure Named where
  elem : Nat
  coords : List Nat
  inside : Bool
  deriving DecidableEq, Repr

/-- R227: the element of a flat index. -/
def namedFlat (e : Entry) (i : Nat) : Named := { elem := i, coords := coordsOf e i, inside := i < elementCount e }

/-- R227: the element of coordinates. -/
def namedCoords (e : Entry) (xs : List Nat) : Named :=
  { elem := xs.getD 0 0, coords := xs, inside := coordsInside e xs }

/-- R223, R236: what a record says of a fault of the checks at issue; a resource table that cannot be read is named by
the address of the entry. -/
def entryInfo (s : State) (p res elem lane : Nat) (cause : BitVec 8) : MemInfo :=
  let va := if cause = causePage || cause = causeData then
      (match smFind s.parts p with | some x => x.regs.rtbase.toNat + 64 * res | none => 0)
    else 0
  { va := va, elem := elem, res := res, lane := lane }

/-- R231, R232: one lane's access, checked at issue: the entry, the register that D names, the element that A names
(notes/assumptions/28). `name` gives its element, `op` its operation from its operands. -/
def planAccess {α : Type} (s : State) (p res lane : Nat) (ent : Except (BitVec 8) (BitVec 512 × Entry)) (write : Bool)
    (first : Except (BitVec 8) Nat) (name : Entry → Except (BitVec 8) Named) (op : Except (BitVec 8) AccOp)
    (skipped dropped : α) : Planned α :=
  match ent with
  | .error c => .trap c (entryInfo s p res (first.toOption.getD 0) lane c)
  | .ok (_, e) =>
    match op with
    | .error c => .trap c { res := res, lane := lane }
    | .ok o =>
      match name e with
      | .error c => .trap c { res := res, lane := lane }
      | .ok x =>
        let info : MemInfo := { elem := x.elem, res := res, lane := lane }
        if x.inside then
          if write && (e.ro || e.gre) then .trap causeWrite info
          else if write && freezeCount s p res ≠ 0 then .trap causeFrozen info
          else .acc { lane := lane, coords := x.coords, elem := x.elem, op := o, done := false, translated := false,
                      injected := false }
        else if e.bnd = 0 then .trap causeBounds info
        else if e.bnd = 1 then .drop x.elem dropped
        else .done skipped

/-! ### The units of a copy, and what copies hold -/

/-- R240: the units of a row: elements, or blocks. -/
def copyPerRow (c : CopyDesc) : Nat := if tyIsBlock (entryOf c.entry).fmt then c.cols / 32 else c.cols

/-- R240: the coordinates of unit `n` of a copy. -/
def copyCoords (c : CopyDesc) (e : Entry) (n : Nat) : List Nat × Nat × Bool :=
  let r := n / copyPerRow c
  let col := n % copyPerRow c * (if tyIsBlock e.fmt then 32 else 1)
  let o := fun j => c.origin.getD j 0
  if c.lin then
    let i := o 0 + r * c.mp + col
    (coordsOf e i, i, i < elementCount e)
  else
    let xs := [o 0 + col, o 1 + r, o 2, o 3]
    (xs, flatIndex e xs, coordsInside e xs)

/-- R240: the scratch byte of unit `n`, and which nibble of it. -/
def copyPlace (c : CopyDesc) (e : Entry) (n : Nat) : Nat × Nat :=
  let r := n / copyPerRow c
  let u := n % copyPerRow c
  let row := c.off + r * c.rp
  if tyIsBlock e.fmt then (row + u * blockBytes e.fmt, 0)
  else if tyBits e.fmt = 4 then (row + u / 2, u % 2)
  else (row + u * sizeOf e.fmt, 0)

/-- R240: the bytes of a unit. -/
def unitBytes (e : Entry) : Nat := if tyIsBlock e.fmt then blockBytes e.fmt else sizeOf e.fmt

/-- R240, R241: the bytes of scratch of the units that a copy has not moved, a range for each row. -/
def copyBytes (c : CopyDesc) : List (Nat × Nat) :=
  let e := entryOf c.entry
  (List.range c.rows).filterMap fun r =>
    let u := c.next - r * copyPerRow c
    if u < copyPerRow c then
      let a := (copyPlace c e (r * copyPerRow c + u)).1
      some (a, c.off + r * c.rp + rowBytes e.fmt c.cols - a)
    else none

/-- R297: the bytes of scratch of the entries that a list instruction has not moved. -/
def listBytes (l : ListDesc) : List (Nat × Nat) :=
  l.todo.map fun r => (l.off + r * l.rp, l.width * sizeOf (entryOf l.data).fmt)

/-- Two lists of ranges, each an offset and a length, meet. -/
def anyMeet (xs ys : List (Nat × Nat)) : Bool := xs.any fun x => ys.any fun y => rangesMeet x.1 x.2 y.1 y.2

/-- R241: bytes of a scratch that a copy holds, against a load or a store: those that it writes, and against a store also those
that it reads. -/
def copyHoldsBytes (c : CopyDesc) (cluster : Bool) (place : Nat) (store : Bool) (ranges : List (Nat × Nat)) : Bool :=
  c.core != cluster && c.place == place && (store || !c.store) && anyMeet (copyBytes c) ranges

/-- R234, R241, R297: bytes of a scratch that copies and list instructions hold, against a load or a store: those that one in
flight writes, and against a store also those that it reads. A copy that a fault has stopped holds what it has not moved. -/
def scratchHeld (s : State) (cluster : Bool) (place : Nat) (store : Bool) (ranges : List (Nat × Nat)) : Bool :=
  s.items.any fun x => match x.2.istate, x.2.kind with
    | .running, .copy c => copyHoldsBytes c cluster place store ranges
    | .stopped _, .copy c => copyHoldsBytes c cluster place store ranges
    | .running, .list l => l.core != cluster && l.place == place && (store || !l.scatter) && anyMeet (listBytes l) ranges
    | _, _ => false

/-- R241: bytes of a scratch that a copy, other than item `but`, holds after a fault has stopped it. -/
def stoppedHolds (s : State) (but : Nat) (cluster : Bool) (place : Nat) (store : Bool) (ranges : List (Nat × Nat)) : Bool :=
  s.items.any fun x => x.1 != but && (match x.2.istate, x.2.kind with
    | .stopped _, .copy c => copyHoldsBytes c cluster place store ranges
    | _, _ => false)

/-- The address and place of the units of a copy from its first one not moved on, those out of bounds apart. -/
def copyAddrs (s : State) (p : Nat) (c : CopyDesc) (from_ to_ : Nat) : List Nat :=
  let e := entryOf c.entry
  ((List.range to_).drop from_).filterMap fun n =>
    let x := copyCoords c e n
    if x.2.2 then some (dataAddr s p e x.1) else none

/-- R241: a copy that a fault has stopped holds the lines that it has not moved. -/
def copyHolds (s : State) (x : Item) (c : CopyDesc) (line : Nat) : Bool :=
  (copyAddrs s x.part c c.next (c.rows * copyPerRow c)).any fun a =>
    decide (lineOf a ≤ line) && decide (line ≤ lineOf (a + unitBytes (entryOf c.entry) - 1))

/-- R241, R257: a line of a partition that a stopped copy, of an item other than `but`, holds. -/
def lineHeld (s : State) (p : Nat) (but : Option Nat) (va : Nat) : Bool :=
  s.items.any fun x => some x.1 != but && x.2.part == p && (match x.2.istate, x.2.kind with
    | .stopped _, .copy c => copyHolds s x.2 c (lineOf va)
    | _, _ => false)

/-! ### Queued moves of tile elements -/

/-- R195: the elements of a granted size that the masks select, row by row. -/
def pickedElements (gm gn : Nat) (rowm : DWord) (colm : BitVec 128) : List (Nat × Nat) :=
  ((List.range gm).filter fun m => rowm.getLsbD m).flatMap fun m =>
    ((List.range gn).filter fun n => colm.getLsbD n).map fun n => (m, n)

/-- R215: a move of elements between a tile and memory: the partition and the core of its group, its direction, its type and
rounding, its resource with its index, the index of element (0, 0) and the row pitch. -/
structure MoveArgs where
  part : Nat
  launch : Nat
  core : Nat
  store : Bool
  ty : BitVec 5
  ext : Ext
  entry : Entry
  res : Nat
  first : Nat
  pitch : Nat
  deriving DecidableEq, Repr

/-- R215: the flat index of an element in the resource. -/
def moveIndex (x : MoveArgs) (el : Nat × Nat) : Nat := x.first + el.1 * x.pitch + el.2

/-- R215: the address of an element. -/
def moveAddr (x : MoveArgs) (el : Nat × Nat) : Nat := elemAddr x.entry (coordsOf x.entry (moveIndex x el))

/-- The elements of a move that lie in the resource. -/
def movesInside (x : MoveArgs) (els : List (Nat × Nat)) : List (Nat × Nat) :=
  els.filter fun el => decide (moveIndex x el < elementCount x.entry)

/-- The addresses of a move. -/
def moveAddrs (x : MoveArgs) (els : List (Nat × Nat)) : List Nat := (movesInside x els).map (moveAddr x)

/-- R378: the bytes of a move. -/
def moveBytes (x : MoveArgs) (els : List (Nat × Nat)) : Nat := (movesInside x els).length * sizeOf x.ty

/-- R195, R215, R216: the elements that a queued move has captured. -/
def opElements (o : EngOp) : List (Nat × Nat) :=
  match o.kind with
  | .accld _ _ m n _ => pickedElements m n o.rowm o.colm
  | .accst _ _ _ m n _ => pickedElements m n o.rowm o.colm
  | .accrd _ _ _ m n _ => pickedElements m n o.rowm o.colm
  | _ => []

/-- R215: the move in memory that a queued instruction of a group is. -/
def opMove (g : Group) (o : EngOp) : Option MoveArgs :=
  let core := coreOfKey o.group
  match o.kind with
  | .accld t _ _ _ (.mem raw res first pitch) =>
    some { part := g.part, launch := g.launch, core := core, store := false, ty := t, ext := Ext.zero, entry := entryOf raw, res := res, first := first, pitch := pitch }
  | .accst t e _ _ _ (.mem raw res first pitch) =>
    some { part := g.part, launch := g.launch, core := core, store := true, ty := t, ext := e, entry := entryOf raw, res := res, first := first, pitch := pitch }
  | _ => none

/-- The move in memory that a group of a partition has queued. -/
def queuedMove (s : State) (p : Nat) (o : EngOp) : Option MoveArgs :=
  match smFind s.groups o.group with
  | some g => if g.part = p then opMove g o else none
  | none => none

/-- The addresses of such a move. -/
def queuedAddrs (s : State) (p : Nat) (o : EngOp) : List Nat :=
  match queuedMove s p o with
  | some x => moveAddrs x (opElements o)
  | none => []

/-! ### Holds and the rate limit -/

/-- R349, R385: a channel that serves no request at present. -/
def channelHeld (s : State) (c : Nat) : Bool :=
  (match smFind s.dev.memStacks (stackOfChannel c) with | some x => x.held | none => false)
    || (match smFind s.dev.chans c with | some x => x.quiesce.isSome | none => false)

/-- R375, R379: the parity groups that a partition holds, the new ones with them while its pages move. -/
def heldGroups (x : Partition) : BitVec 16 := x.groups ||| x.newGroups.getD 0

/-- R349, R379, R385: a channel of a partition serves no request at present: what a page of the partition needs waits, because a page
has lines in every channel. -/
def partHeld (s : State) (x : Partition) : Bool :=
  (List.range 128).any fun c => (heldGroups x).getLsbD (c / 8) && channelHeld s c

/-- R257: an address whose channel holds its requests, or whose line a stopped copy holds. A line in a peer window has no
channel here. -/
def addressHeld (s : State) (p va : Nat) : Bool :=
  match smFind s.parts p with
  | some x => ((peerWindowOf x va).isNone && channelHeld s (channelOf x va)) || lineHeld s p none va
  | none => false

/-- R378: what a full bucket holds: 64 KiB, in units of 2^-16 byte. -/
def bucketFull : Int := 2 ^ 32

/-- R378: what the bucket of a die holds at present: it fills at the limit, in GB/s. -/
def bucketLevel (s : State) (x : Partition) (die : Nat) : Int :=
  let b := smGet { level := bucketFull, cycle := 0 } x.buckets die
  min bucketFull (b.level + (s.cycle - b.cycle).toNat * x.rate * 1000 * 2 ^ 16 / s.dev.mhz)

/-- R378: a request of some bytes can be injected on a die: its bytes are in the bucket, or, of a larger one, the bucket is full. -/
def rateAllows (s : State) (p die bytes : Nat) : Bool :=
  match smFind s.parts p with
  | some x => x.rate == 0 || decide ((min bytes (2 ^ 16) : Int) * 2 ^ 16 ≤ bucketLevel s x die)
  | none => true

/-- R378: the bytes of a request leave the bucket of its die. -/
def takeBytes (s : State) (p die bytes : Nat) : State :=
  match smFind s.parts p with
  | none => s
  | some x =>
    if x.rate = 0 then s
    else putPart s p { x with buckets := smPut x.buckets die { level := bucketLevel s x die - bytes * 2 ^ 16, cycle := s.cycle } }

/-- R257, R349, R378: accesses that a group makes apart from the requests of its lanes wait: something holds the line of one of some
addresses, or the limit does not let their bytes pass. -/
def accessWaits (s : State) (p core : Nat) (addrs : List Nat) (bytes : Nat) : Bool :=
  addrs.any (addressHeld s p) || !rateAllows s p (dieOfCore core) bytes

/-- R346: the lines of some addresses are read: each has its event when it is rebuilt. -/
def linesRead (s : State) (p core : Nat) (reads : List Nat) : State :=
  (reads.map lineOf).eraseDups.foldl (fun t va => rebuiltEvent t p va core) s

/-- R346, R378: such accesses are made: their bytes have passed, and the lines of `reads` are read. -/
def accessMade (s : State) (p core : Nat) (reads : List Nat) (bytes : Nat) : State :=
  linesRead (takeBytes s p (dieOfCore core) bytes) p core reads

/-- R93, R257, R349, R378: an instruction that makes accesses apart from the requests of its lanes, to read the lines of `reads` and to
write those of `writes`, waits until it may and then acts. -/
def whenFree (c : Ctx) (reads writes : List Nat) (bytes : Nat) (act : Ctx → GroupOut) : GroupOut :=
  if accessWaits c.s c.g.part (coreOfKey c.k) (reads ++ writes) bytes then .stall (.lines (reads ++ writes) bytes) c.s c.g
  else act { c with s := accessMade c.s c.g.part (coreOfKey c.k) reads bytes }

/-! ### The banks of a channel -/

/-- R313: the coordinates of the elements of a row, none out of bounds. -/
def rowElements (e : Entry) (row : Nat) : List (Option (List Nat)) :=
  (List.range 32).map fun i => if 32 * row + i < elementCount e then some (coordsOf e (32 * row + i)) else none

/-- The resources of a phase with their indices, the output last. -/
def phaseUses (ph : Phase) : List (Entry × Nat) :=
  [(entryOf ph.s0, ph.s0ix.toNat)] ++ (ph.s1.map fun e => (entryOf e, ph.s1ix.toNat)).toList
    ++ (ph.out.map fun e => (entryOf e, ph.outIx.toNat)).toList

/-- R330: the bank of a line at its channel. -/
def bankOf (va : Nat) : Nat := bitsOf va 16 5

/-- R318: the lines of a row step; those of a handle's view are the base's (R330). -/
def rowLines (s : State) (p row : Nat) (ph : Phase) : List Nat :=
  ((phaseUses ph).flatMap fun u => (rowElements u.1 row).filterMap fun xs => xs.map fun y => lineOf (dataAddr s p u.1 y)).eraseDups

/-- R318: the banks that a job holds at a channel, those of its next row step there; none before its first one, while it is
suspended, and after it has stopped. -/
def jobBanks (s : State) (p : Nat) (x : Partition) (j : JobDesc) (channel : Nat) (ch : ChanJob) : List Nat :=
  if ch.suspended || ch.stopped || ch.images.isEmpty then []
  else match ch.rows, j.phases[ch.phase]? with
    | row :: _, some ph => ((rowLines s p row ph).filter fun l => channelOf x l == channel).map bankOf
    | _, _ => []

/-- R318: a line lies in a bank that a running job holds at its channel. -/
def bankBusy (s : State) (p va : Nat) : Bool :=
  match smFind s.parts p with
  | none => false
  | some x => s.items.any fun e => e.2.part == p && (match e.2.istate, e.2.kind with
      | .running, .job j => (match smFind j.chans (channelOf x va) with
        | some ch => (jobBanks s p x j (channelOf x va) ch).contains (bankOf va)
        | none => false)
      | _, _ => false)

/-- R257, R318, R330: a request of the launch unit, the loader or the outside at an address waits: something holds its line, or a job its
bank. -/
def requestWaits (s : State) (p va : Nat) : Bool := addressHeld s p va || (!inPeerWindow s p va && bankBusy s p va)

/-- R257, R318: a copy or list instruction can move a line: its channel serves requests, no other copy that has stopped holds the
line, and no job its bank. Lines in a peer window leave the device. -/
def lineFree (s : State) (p item va : Nat) : Bool :=
  match smFind s.parts p with
  | none => true
  | some x => (peerWindowOf x va).isSome
      || (!channelHeld s (channelOf x va) && !lineHeld s p (some item) va && !bankBusy s p va)

/-! ### Performing -/

/-- What an access returns: the state after it, a value for a register, the outcome of a test. -/
abbrev AccResult := State × Option (Nat × Nat) × Option Bool

/-- R286: the open accesses of a request on the line of one of them, in ascending lane order: they make one request. -/
def lineMates (q : Req) (a : Acc) : List Nat :=
  let line := fun (b : Acc) => lineOf (elemAddr (entryOf q.entry) b.coords)
  (List.range q.accs.length).filter fun j => (q.accs[j]?).any fun b => !b.done && line b == line a

/-- R346: an access that reads its line. -/
def readsLine (a : Acc) : Bool :=
  match a.op with
  | .store _ => false
  | .scatter _ => false
  | _ => true

/-- R324: an access that writes its element: every one but a load and a gather. -/
def writesElement (a : Acc) : Bool :=
  match a.op with
  | .load _ => false
  | .gather _ => false
  | _ => true

/-- R311: a store or scatter whose value passes through the graph of a channel. -/
def throughGraph (s : State) (q : Req) (a : Acc) : Bool :=
  !readsLine a && (entryOf q.entry).gwe && !inPeerWindow s q.part (elemAddr (entryOf q.entry) a.coords)

/-- An access of a request changed. -/
def setAcc (q : Req) (n : Nat) (f : Acc → Acc) : Req := { q with accs := q.accs.modify n f }

/-- R219: the accesses of a request on one line have been served by its channel. -/
def servedLine (s : State) (req : Nat) (q : Req) (ns : List Nat) : State :=
  { s with reqs := smPut s.reqs req (ns.foldl (fun y n => setAcc y n fun x => { x with translated := true }) q) }

/-- R25: the launch of a request, while its group stands. -/
def launchOfReq (s : State) (q : Req) : Option Nat := if q.orphan then none else (smFind s.groups q.group).map (·.launch)

/-- The places that the accesses of a request on a line look at. -/
def matePlaces (s : State) (q : Req) (a : Acc) : List Nat :=
  (lineMates q a).flatMap fun n => match q.accs[n]? with
    | some b => elementPlaces s q.part (entryOf q.entry) b.coords
    | none => []

/-- R286, R346, R311: the first access of a request on its line reads it for all of them, unless the channel has served them:
the event of a line that is rebuilt, and the walk for a handle's record. One whose value passes through a graph makes a request
at the channel. -/
def serveMates (s : State) (id : Nat) (q : Req) (a : Acc) : State :=
  let e := entryOf q.entry
  let at_ := dataAddr s q.part e a.coords
  let core := coreOfKey q.group
  if a.translated then s
  else if throughGraph s q a then servedLine (lineRequest q.part core (launchOfReq s q) true s at_) id q (lineMates q a)
  else if readsLine a then servedLine (handleEvent (linesRead s q.part core (matePlaces s q a)) q.part core e) id q (lineMates q a)
  else s

/-- R232, R264, R291: perform one access at its place in memory. -/
def accEffect (s : State) (q : Req) (a : Acc) : Except MemFault AccResult :=
  let e := entryOf q.entry
  let va := elemAddr e a.coords
  match a.op with
  | .load dest => do
    let v ← readElement s q.part e a.coords
    .ok (countPeer s q.part va, some (dest, v), none)
  | .gather dest => do
    let v ← readElement s q.part e a.coords
    .ok (s, some (dest, v), none)
  | .store v => do
    let t ← writeElement s q.part e a.coords v.toNat
    .ok (t, none, none)
  | .scatter v => do
    let t ← writeElement s q.part e a.coords v.toNat
    .ok (t, none, none)
  | .atom op dest v1 v2 => do
    let (t, old, ok) ← atomStep s q.part e q.ty a.elem op.toNat v1.toNat v2.toNat
    .ok (t, some (dest, old), if atomTests op.toNat then some ok else none)
  | .addTo v => do
    let (t, _, _) ← atomStep s q.part e q.ty a.elem 0 v.toNat 0
    .ok (t, none, none)

/-- What a lane receives from its access. -/
def laneResult (rt : BitVec 5) (ln : Lane) (val : Option (Nat × Nat)) (ok : Option Bool) : Lane :=
  let l1 := match val with | some (n, v) => writeAbs ln n rt v | none => ln
  match ok with | some b => atomPreds l1 b | none => l1

/-- What the group receives from its access. -/
def groupResult (rt : BitVec 5) (g : Group) (val : Option (Nat × Nat)) (ok : Option Bool) : Group :=
  let g1 := match val with | some (n, v) => writeUabs g n rt v | none => g
  match ok with | some b => atomUpreds g1 b | none => g1

/-- R236, R237, R338: the record of a lane whose access faults. -/
def faultRec (q : Req) (ln : Lane) (a : Acc) (lane : Nat) (cause : BitVec 8) (va : Nat) : TrapRec :=
  { q.trec with cause := cause, lwin := ln.win, pred := ln.preds ||| 1, lat0 := ln.lat0, lat1 := ln.lat1,
                lat2 := ln.lat2, lat3 := ln.lat3, va := BitVec.ofNat 64 va, elem := BitVec.ofNat 32 a.elem,
                res := q.res, ndrop := 0, cpyf := false, lane := BitVec.ofNat 5 lane }

/-- R237, R164, R266: the lanes that an access's fault parks. -/
def parkAccess (g : Group) (q : Req) (a : Acc) (cause : BitVec 8) (va : Nat) : Group :=
  mapLanes g fun l ln =>
    if q.uniform then (if q.sel.getLsbD l then parkLane ln (faultRec q ln a (lowestLane q.sel) cause va) else ln)
    else if l = a.lane then parkLane ln (faultRec q ln a l cause va)
    else ln

/-- R262, R169: the type at which a request's results reach registers. -/
def reqResultType (q : Req) (a : Acc) : BitVec 5 :=
  match a.op with
  | .atom _ _ _ _ => resultType q.ty (q.ty == 18)
  | _ => resultType q.ty false

/-- The bytes of a line that a list of ranges covers, all 128 of them. -/
def coversLine (ranges : List (Nat × Nat)) (line : Nat) : Bool :=
  (List.range 128).all fun i => ranges.any fun r => r.1 ≤ line + i && line + i < r.1 + r.2

/-- R346, R348: the lines that ranges of stored bytes cover whole. -/
def wholeLines (ranges : List (Nat × Nat)) : List Nat :=
  (ranges.map fun r => lineOf r.1).eraseDups.filter fun l => coversLine ranges l

/-- The bytes that a request's stores have written. -/
def storedRanges (g : Option Group) (q : Req) : List (Nat × Nat) :=
  let e := entryOf q.entry
  if tyBits e.fmt < 8 || tyIsBlock e.fmt then []
  else q.accs.filterMap fun a =>
    match a.op with
    | .store _ => if accParked g q a then none else some (elemAddr e a.coords, sizeOf e.fmt)
    | .scatter _ => if accParked g q a then none else some (elemAddr e a.coords, sizeOf e.fmt)
    | _ => none

/-- R346 to R348: heal the lines that stores have written whole. -/
def healRanges (s : State) (p : Nat) (ranges : List (Nat × Nat)) : State :=
  match smFind s.parts p with
  | none => s
  | some x => if x.bad.isEmpty && x.lost.isEmpty && x.badParity.isEmpty then s else healLines s p (wholeLines ranges)

/-- R344: the group of a request, unless it has been contained. -/
def reqGroup (s : State) (q : Req) : Option Group := if q.orphan then none else smFind s.groups q.group

/-- R93, R31, R348: the request is complete: the lines that it has stored whole are good, and its group may issue again, with
every latch stale. -/
def completeReq (s : State) (id : Nat) (q : Req) : State :=
  let s1 := healRanges { s with reqs := smErase s.reqs id } q.part (storedRanges (reqGroup s q) q)
  match reqGroup s q with
  | none => s1
  | some g => settle s1 q.group (staleSwitch { g with wait := .none })

/-- Put a request back, or complete it when every access of it is done. -/
def putReq (s : State) (id : Nat) (q : Req) : State :=
  if q.accs.all (·.done) then completeReq s id q else { s with reqs := smPut s.reqs id q }

/-- Access `n` of a request is done. -/
def doneAcc (s : State) (id n : Nat) (q : Req) : State := putReq s id (setAcc q n fun x => { x with done := true })

/-- R237: an access faults: its lanes park. One of an orphan has none, and has stored nothing. -/
def parkAcc (s : State) (id n : Nat) (q : Req) (a : Acc) (cause : BitVec 8) (va : Nat) : State :=
  match reqGroup s q with
  | none => doneAcc s id n (setAcc q n fun x => { x with op := .load 0 })
  | some g => doneAcc (putGroup s q.group (parkAccess g q a cause va)) id n q

/-- R237: the accesses of a request on one line fault together: one event, and each lane parks. -/
def failLine (s : State) (req : Nat) (q : Req) (ns : List Nat) (cause : BitVec 8) (va : Nat) : State :=
  ns.foldl (fun t n => match smFind t.reqs req with
    | none => t
    | some y => match y.accs[n]? with
      | some a => parkAcc t req n y a cause (dataAddr s q.part (entryOf q.entry) a.coords)
      | none => t) (faultEvent s q.part cause va (coreOfKey q.group))

/-- R237, R286, R345: an access faults, with its event. A page that is not mapped, or a line that is lost, stops the other accesses
on the line with it. -/
def failAcc (s : State) (id n : Nat) (q : Req) (a : Acc) (cause : BitVec 8) (va : Nat) : State :=
  if (cause = causePage || cause = causeData) && lineOf va == lineOf (dataAddr s q.part (entryOf q.entry) a.coords) then
    failLine s id q (lineMates q a) cause va
  else parkAcc (faultEvent s q.part cause va (coreOfKey q.group)) id n q a cause va

/-- Access `n` of a request is performed with an effect, and returns what that gives. -/
def performWith (effect : State → Req → Acc → Except MemFault AccResult) (s : State) (id n : Nat) : State :=
  match smFind s.reqs id with
  | none => s
  | some q =>
    match q.accs[n]? with
    | none => s
    | some a =>
      if a.done then s
      else match effect s q a with
        | .error (cause, va) => failAcc s id n q a cause va
        | .ok (s1, val, ok) =>
          match reqGroup s1 q with
          | none => doneAcc s1 id n q
          | some g =>
            let rt := reqResultType q a
            let g' := if q.uniform then groupResult rt g val ok
              else setLane g a.lane (laneResult rt (getLane g a.lane) val ok)
            doneAcc (putGroup s1 q.group g') id n q

/-- R286, R311: a scatter whose value passes through the graph of a channel. -/
def graphScatter (s : State) (q : Req) (a : Acc) : Bool :=
  (match a.op with | .scatter _ => true | _ => false) && (entryOf q.entry).gwe
    && !inPeerWindow s q.part (elemAddr (entryOf q.entry) a.coords)

/-- R286, R311: the elements that some scatters of a request store, with their addresses, the highest lane first. -/
def scattered (q : Req) (ns : List Nat) : List (Nat × Nat) :=
  (ns.filterMap fun j => match q.accs[j]? with
    | some b => (match b.op with | .scatter v => some (elemAddr (entryOf q.entry) b.coords, v.toNat) | _ => none)
    | none => none).reverse

/-- R311: the effect of one of the scatters `all` of a line, which pass the graph together over the line as it was. -/
def scatterThrough (s0 : State) (all : List (Nat × Nat)) (s : State) (q : Req) (a : Acc) : Except MemFault AccResult :=
  match a.op with
  | .scatter v => do
    let w ← placedPattern s0 q.part (entryOf q.entry) all a.coords v.toNat
    let t ← writeElement s q.part { entryOf q.entry with gwe := false } a.coords w
    .ok (t, none, none)
  | _ => accEffect s q a

/-- R286: an element of a gather, a scatter or a scattered addition: those on one line make one request. -/
def isPart (a : Acc) : Bool :=
  match a.op with
  | .gather _ => true
  | .scatter _ => true
  | .addTo _ => true
  | _ => false

/-- R286, R311: perform the accesses of a part on the line of one of them, in ascending lane order: scatters through a graph over
the line as it was, gathers from one reading of a peer's line. -/
def performPart (s : State) (id : Nat) (q : Req) (a : Acc) : State :=
  let mates := lineMates q a
  let t := serveMates s id q a
  if graphScatter s q a then
    let u := mates.foldl (performWith (scatterThrough s (scattered q mates)) · id ·) t
    { u with freeCtr := u.freeCtr + 128 }
  else
    let u := mates.foldl (performWith accEffect · id ·) t
    match a.op with
    | .gather _ => countPeer u q.part (elemAddr (entryOf q.entry) a.coords)
    | _ => u

/-- Perform access `n` of a request; elements of one part on one line together (R286). -/
def performAcc (s : State) (id n : Nat) : State :=
  match (smFind s.reqs id).bind fun q => (q.accs[n]?).map fun a => (q, a) with
  | none => s
  | some (q, a) =>
    if a.done then s
    else if isPart a then performPart s id q a
    else performWith accEffect (serveMates s id q a) id n

/-- Perform every access of a request in ascending lane order (R233, R260, R291). -/
def performAll (s : State) (id : Nat) : State :=
  match smFind s.reqs id with
  | none => s
  | some q => (List.range q.accs.length).foldl (fun t n => performAcc t id n) s

/-- The places that an access looks at. -/
def accPlaces (s : State) (q : Req) (a : Acc) : List Nat := elementPlaces s q.part (entryOf q.entry) a.coords

/-- R257, R318: an access waits for what holds a line of it, or, through a graph, for a job that holds its bank. -/
def accHeld (s : State) (q : Req) (a : Acc) : Bool :=
  (accPlaces s q a).any fun va => addressHeld s q.part va || (throughGraph s q a && bankBusy s q.part va)

/-- R257, R378: the accesses of a request are left to later events: the schedule asks for it, the partition's
injection rate is limited, or one of its lines is held. -/
def leftOpen (s : State) (q : Req) : Bool :=
  s.defer || (match smFind s.parts q.part with | some x => x.rate ≠ 0 | none => false) || q.accs.any (accHeld s q)

/-- The request of an instruction. -/
def mkReq (c : Ctx) (raw : BitVec 512) (res : Nat) (uniform : Bool) (accs : List Acc) : Req :=
  { group := c.k, part := c.g.part, entry := raw, res := BitVec.ofNat 32 res, ty := c.ty
    trec := mkRec c.g c.r (encode c.i) (lowestLane c.e) 0 0 {}, uniform := uniform, sel := c.sel, accs := accs
    orphan := false }

/-- The group, moved past its instruction, waits for its request; the accesses are made at once unless they are left
open. -/
def startReq (c : Ctx) (s : State) (g : Group) (q : Req) : GroupOut :=
  let id := s.nextReq
  let s1 := { s with nextReq := id + 1, reqs := smPut s.reqs id q }
  let s2 := settle s1 c.k (advance { g with wait := .req id } c.r c.i)
  .held (if leftOpen s2 q then s2 else performAll s2 id)

/-- R220, R223, R324, R348: the events of the checks at issue: of a resource table that could not be read, and of the walk for the
freeze count when a write has come to it. -/
def tableEvent {α : Type} (c : Ctx) (res : Nat) (plans : List (Nat × Planned α)) : State :=
  let core := coreOfKey c.k
  match plans.findSome? fun x => match x.2 with | .trap cause y => if cause = causePage || cause = causeData then some (cause, y.va) else none | _ => none with
  | some f => faultEvent c.s c.g.part f.1 f.2 core
  | none =>
    if plans.any fun x => match x.2 with | .acc a => writesElement a | _ => false then freezeEvent c.s c.g.part res core else c.s

/-- R232, R237: what the lanes of E do with their plans. -/
def runPlans (c : Ctx) (raw : BitVec 512) (res : Nat) (plans : List (Nat × Planned Lane)) : GroupOut :=
  let g1 := mapLanes c.g fun l ln =>
    match plans.find? fun x => x.1 == l with
    | some (_, .trap cause x) => parkLane ln (mkRec c.g c.r (encode c.i) l cause 0 x)
    | some (_, .drop _ y) => y
    | some (_, .done y) => y
    | _ => ln
  let drops : List (Nat × Nat) := plans.filterMap fun x => match x.2 with | .drop e _ => some (x.1, e) | _ => none
  let accs : List Acc := plans.filterMap fun x => match x.2 with | .acc a => some a | _ => none
  let low := (drops.headD (0, 0)).1
  let s1 := dropReport (tableEvent c res plans) c.g.part (coreOfKey c.k) (mkRec c.g c.r (encode c.i) low 0 0 {}) (drops.headD (0, 0)).2 res
    drops.length low (maskOf fun l => drops.any fun d => d.1 == l) false
  if accs.isEmpty then .done s1 g1 else startReq c s1 g1 (mkReq c raw res false accs)

/-- R164, R266: what the group does with its plan. -/
def runUniPlan (c : Ctx) (raw : BitVec 512) (res : Nat) (plan : Planned Group) : GroupOut :=
  match plan with
  | .trap cause x => .trap cause x
  | .drop e g =>
    .done (dropReport c.s c.g.part (coreOfKey c.k) (mkRec c.g c.r (encode c.i) c.l 0 0 {}) e res 1 c.l c.sel false) g
  | .done g => .done c.s g
  | .acc a => startReq c (tableEvent c res [(0, plan)]) c.g (mkReq c raw res true [a])

/-- The resource index that a uniform operand holds (R223). -/
def resourceIndex (c : Ctx) (code : Nat) : Nat := slotValue c.g (code - 0xD0) 32

/-- The raw entry of a checked name. -/
def rawOf (x : Except (BitVec 8) (BitVec 512 × Entry)) : BitVec 512 :=
  match x with
  | .ok (r, _) => r
  | .error _ => 0

/-- R311: an atomic or an addition accepts no entry whose writes pass through a graph. -/
def noWriteGraph (x : Except (BitVec 8) (BitVec 512 × Entry)) : Except (BitVec 8) (BitVec 512 × Entry) :=
  match x with
  | .ok (r, e) => if e.gwe then .error causeKind else .ok (r, e)
  | .error c => .error c

/-- R232: an instruction whose lanes access the elements of one resource. -/
def laneAccess (i : Instr) (kinds : List Nat) (write : Bool) (adjust : Except (BitVec 8) (BitVec 512 × Entry) → Except (BitVec 8) (BitVec 512 × Entry))
    (plan : Except (BitVec 8) (BitVec 512 × Entry) → Nat → Bool → Ctx → Planned Lane) (s : State) : Out :=
  execGroup i false true (fun c =>
    let res := resourceIndex c c.b
    let ent := adjust (namedEntry c.s c.g.part res kinds (some c.ty))
    runPlans c (rawOf ent) res
      ((lanesOf c.e).map fun l => (l, plan ent res write (mkCtx c.s c.k c.g c.r c.i c.sel c.e l)))) s

end Sys2Proof.Machine
end

