-- ==== Sys2Proof/Machine/Memory.lean ====
section
/-!
DEFINITION. The loads and stores, opcodes 0x91, 0x92 and 0xA0-0xA7, `PREF` and `FENCE` (spec/07 R164, spec/11 R217,
R218, R231 to R234, R243, R244), and the steps that perform their accesses (spec/95: ACCESS_PERFORMED,
CHANNEL_REQUEST, WRITE_STREAM_GRAPH, RATE_INJECT).
-/
namespace Sys2Proof.Machine

/-! ### Plans of loads and stores -/

/-- R232: the element that a lane names by its flat index. -/
def flatName (c : Ctx) (e : Entry) : Except (BitVec 8) Named := do
  let i ← readN32 c c.a
  .ok (namedFlat e i)

/-- R231, R232: the element that a lane names by `NDIM` + 1 coordinate registers. -/
def coordName (c : Ctx) (e : Entry) : Except (BitVec 8) Named :=
  if c.a + e.ndim ≤ 0x7F && (List.range (e.ndim + 1)).all fun j => regInside c.g c.ln (c.a + j) 32 then
    .ok (namedCoords e ((List.range 4).map fun j => if j ≤ e.ndim then regValue c.ln (c.a + j) 32 else 0))
  else .error causeIllegalOperand

/-- R231: the operation of a load: its destination must lie in the allocation (R32). -/
def loadOp (c : Ctx) (mk : Nat → AccOp) : Except (BitVec 8) AccOp :=
  if regInside c.g c.ln c.d (tyBits (resultType c.ty false)) then .ok (mk (c.ln.win.toNat + c.d))
  else .error causeIllegalOperand

/-- R232: a load out of bounds under `BND` 2 reads 0. -/
def loadZero (c : Ctx) : Lane := writeAbs c.ln (c.ln.win.toNat + c.d) (resultType c.ty false) 0

/-- R231: the operation of a store: its data register must lie in the allocation (R32). -/
def storeOp (c : Ctx) (mk : DWord → AccOp) : Except (BitVec 8) AccOp :=
  if regInside c.g c.ln c.d (tyBits c.ty) then .ok (mk (BitVec.ofNat 64 (regValue c.ln c.d (tyBits c.ty))))
  else .error causeIllegalOperand

/-- R232: a lane of a load. -/
def planLoad (mk : Nat → AccOp) (name : Ctx → Entry → Except (BitVec 8) Named)
    (ent : Except (BitVec 8) (BitVec 512 × Entry)) (res : Nat) (write : Bool) (c : Ctx) : Planned Lane :=
  planAccess c.s c.g.part res c.l ent write (readN32 c c.a) (name c) (loadOp c mk) (loadZero c) c.ln

/-- R232: a lane of a store. -/
def planStore (mk : DWord → AccOp) (name : Ctx → Entry → Except (BitVec 8) Named)
    (ent : Except (BitVec 8) (BitVec 512 × Entry)) (res : Nat) (write : Bool) (c : Ctx) : Planned Lane :=
  planAccess c.s c.g.part res c.l ent write (readN32 c c.a) (name c) (storeOp c mk) c.ln c.ln

/-- R164, R266: an instruction that makes one access for the group. -/
def uniAccess (i : Instr) (kinds : List Nat) (write : Bool) (adjust : Except (BitVec 8) (BitVec 512 × Entry) → Except (BitVec 8) (BitVec 512 × Entry))
    (op : Ctx → Except (BitVec 8) AccOp) (skipped dropped : Ctx → Group) (s : State) : Out :=
  execGroup i true false (fun c =>
    let res := resourceIndex c c.b
    let ent := adjust (namedEntry c.s c.g.part res kinds (some c.ty))
    let x := readUniN32 c c.a
    runUniPlan c (rawOf ent) res
      (planAccess c.s c.g.part res (lowestLane c.sel) ent write (.ok x) (fun e => .ok (namedFlat e x)) (op c)
        (skipped c) (dropped c))) s

/-- R232: load an element by its index. -/
def execLd (d : BitVec 8) (a : BitVec 8) (b : BitVec 8) (m : Mods) (s : State) : Out :=
  laneAccess (.ld d a b m) [1, 2, 3] false id (planLoad .load flatName) s

/-- R232: store an element by its index. -/
def execSt (d : BitVec 7) (a : BitVec 8) (b : BitVec 8) (m : Mods) (s : State) : Out :=
  laneAccess (.st d a b m) [1, 2] true id (planStore .store flatName) s

/-- R232: load an element by its coordinates. -/
def execLdt (d : BitVec 8) (a : BitVec 8) (b : BitVec 8) (m : Mods) (s : State) : Out :=
  laneAccess (.ldt d a b m) [2, 3] false id (planLoad .load coordName) s

/-- R232: store an element by its coordinates. -/
def execStt (d : BitVec 7) (a : BitVec 8) (b : BitVec 8) (m : Mods) (s : State) : Out :=
  laneAccess (.stt d a b m) [2] true id (planStore .store coordName) s

/-- R164: load an element for the group. -/
def execUld (d : BitVec 7) (a : BitVec 8) (b : BitVec 8) (m : Mods) (s : State) : Out :=
  uniAccess (.uld d a b m) [1, 2, 3] false id (fun c => .ok (.load (c.g.uwin.toNat + c.d)))
    (fun c => writeUni c.g c.d (resultType c.ty false) 0) (fun c => c.g) s

/-- R164: store an element for the group. -/
def execUst (d : BitVec 7) (a : BitVec 8) (b : BitVec 8) (m : Mods) (s : State) : Out :=
  uniAccess (.ust d a b m) [1, 2] true id
    (fun c => .ok (.store (BitVec.ofNat 64 (slotValue c.g c.d (tyBits c.ty))))) (fun c => c.g) (fun c => c.g) s

/-! ### Scratch -/

/-- R217, R218: the bytes of scratch that a group reaches: its crew's region, or its cluster's. -/
def scratchLimit (s : State) (g : Group) (cluster : Bool) : Nat :=
  if cluster then 2 ^ 21 else match findKernel s g.part g.kern with | some kn => kn.scratch | none => 0

/-- R217: the place of scratch of a group: its cluster, or its crew. -/
def scratchPlace (k : Nat) (g : Group) (cluster : Bool) : Nat := if cluster then clusterOfCore (coreOfKey k) else g.crew

/-- R217: read `n` bytes of scratch. The region of a crew that has retired (R100) gives free values
(notes/assumptions/23). -/
def scratchRead (s : State) (cluster : Bool) (place off n : Nat) : Nat :=
  if cluster then memRead s.cscratch (place * 2 ^ 21 + off) n
  else match smFind s.crews place with
    | some c => memRead c.scratch off n
    | none => (Config.freeValue (s.freeCtr + off)).toNat % 2 ^ (8 * n)

/-- An engine has read the region of a crew that has retired: the free values it took are used up. -/
def countGone (s : State) (core : Bool) (place : Nat) : State :=
  if core && (smFind s.crews place).isNone then { s with freeCtr := s.freeCtr + 2 ^ 18 } else s

/-- R217: write `n` bytes of scratch. -/
def scratchWrite (s : State) (cluster : Bool) (place off n v : Nat) : State :=
  if cluster then { s with cscratch := memWrite s.cscratch (place * 2 ^ 21 + off) n v }
  else match smFind s.crews place with
    | some c => putCrew s place { c with scratch := memWrite c.scratch off n v }
    | none => s

/-- R234: the byte offset of a scratch access. -/
def scratchOffset (base i : Nat) (t : BitVec 5) : Nat := if tyBits t = 4 then base + i / 2 else base + i * sizeOf t

/-- R218: the access leaves its tier or is not aligned. -/
def scratchFaults (limit o : Nat) (t : BitVec 5) : Bool := decide (limit < o + sizeOf t) || o % sizeOf t != 0

/-- R234: the element read from scratch. -/
def scratchElement (s : State) (cluster : Bool) (place o i : Nat) (t : BitVec 5) : Nat :=
  let v := scratchRead s cluster place o (sizeOf t)
  if tyBits t = 4 then bitsOf v (4 * (i % 2)) 4 else v

/-- R233, R234: the element written to scratch. -/
def scratchStore (s : State) (cluster : Bool) (place o i : Nat) (t : BitVec 5) (pat : Nat) : State :=
  if tyBits t = 4 then
    let old := scratchRead s cluster place o 1
    scratchWrite s cluster place o 1 (if i % 2 = 0 then old / 16 * 16 + pat % 16 else old % 16 + pat % 16 * 16)
  else scratchWrite s cluster place o (sizeOf t) pat

/-- R218, R234: the offset and index of a lane's scratch access, or its fault. The record names resource 0, because the
instruction names none (notes/assumptions/57). -/
def scratchName (cluster : Bool) (c : Ctx) : Except (BitVec 8 × MemInfo) (Nat × Nat) :=
  match readN32 c c.a with
  | .error x => .error (x, {})
  | .ok i =>
    let o := scratchOffset (resourceIndex c c.b) i c.ty
    if scratchFaults (scratchLimit c.s c.g cluster) o c.ty then .error (causeScratch, { va := o, elem := i, lane := c.l })
    else .ok (o, i)

/-- R234: one lane's scratch load. -/
def scratchLoadLane (cluster : Bool) (c : Ctx) : Except (BitVec 8 × MemInfo) Lane :=
  if regInside c.g c.ln c.d (tyBits c.ty) then do
    let (o, i) ← scratchName cluster c
    .ok (writeAbs c.ln (c.ln.win.toNat + c.d) c.ty (scratchElement c.s cluster (scratchPlace c.k c.g cluster) o i c.ty))
  else .error (causeIllegalOperand, {})

/-- R234: one lane's scratch store, into the state that the lanes below it leave. -/
def scratchStoreLane (cluster : Bool) (c : Ctx) (s : State) : Except (BitVec 8 × MemInfo) State :=
  if regInside c.g c.ln c.d (tyBits c.ty) then do
    let (o, i) ← scratchName cluster c
    .ok (scratchStore s cluster (scratchPlace c.k c.g cluster) o i c.ty (regValue c.ln c.d (tyBits c.ty)))
  else .error (causeIllegalOperand, {})

/-- R234: the bytes of scratch that the lanes of E access. -/
def scratchRanges (cluster : Bool) (c : Ctx) : List (Nat × Nat) :=
  (lanesOf c.e).filterMap fun l =>
    let x := mkCtx c.s c.k c.g c.r c.i c.sel c.e l
    match scratchName cluster x with
    | .ok (o, _) => some (o, sizeOf x.ty)
    | .error _ => none

/-- R234, R241, R297: copies and list instructions in flight hold bytes that the lanes of E access. -/
def scratchWaits (cluster store : Bool) (c : Ctx) : Bool :=
  scratchHeld c.s cluster (scratchPlace c.k c.g cluster) store (scratchRanges cluster c)

/-- R234: a scratch load. -/
def scratchLoad (i : Instr) (cluster : Bool) (s : State) : Out :=
  execGroup i false true (fun c =>
    if scratchWaits cluster false c then
      .stall (.bytes cluster (scratchPlace c.k c.g cluster) false (scratchRanges cluster c)) c.s c.g
    else
    .done c.s (mapLanes c.g fun l ln =>
      if c.e.getLsbD l then
        match scratchLoadLane cluster (mkCtx c.s c.k c.g c.r c.i c.sel c.e l) with
        | .ok x => x
        | .error (cause, x) => parkLane ln (mkRec c.g c.r (encode c.i) l cause 0 x)
      else ln)) s

/-- R203: a lane of a store writes an extent that an older matrix instruction of the group has still to take. -/
def scratchClaimed (c : Ctx) : Bool :=
  (lanesOf c.e).any fun l =>
    let x := mkCtx c.s c.k c.g c.r c.i c.sel c.e l
    match scratchName true x with
    | .ok (o, _) => extentClaimed c.s c.k (clusterOfCore (coreOfKey c.k)) o (sizeOf x.ty) c.s.nextItem
    | .error _ => false

/-- R233, R234: a scratch store, lanes in ascending order. It waits for copies and list instructions in flight over its bytes, and
to cluster scratch for the ownership point of the group's queued matrix instructions (R203). -/
def scratchStoreAll (i : Instr) (cluster : Bool) (s : State) : Out :=
  execGroup i false true (fun c =>
    if cluster && scratchClaimed c then .stall (.engine 0xFFFF) c.s c.g
    else if scratchWaits cluster true c then
      .stall (.bytes cluster (scratchPlace c.k c.g cluster) true (scratchRanges cluster c)) c.s c.g
    else
    let r := (lanesOf c.e).foldl (fun (acc : State × Group) l =>
      match scratchStoreLane cluster (mkCtx c.s c.k c.g c.r c.i c.sel c.e l) acc.1 with
      | .ok t => (t, acc.2)
      | .error (cause, x) => (acc.1, setLane acc.2 l (parkLane (getLane c.g l) (mkRec c.g c.r (encode c.i) l cause 0 x))))
      (c.s, c.g)
    .done r.1 r.2) s

/-- R234: load from core scratch. -/
def execLds (d : BitVec 8) (a : BitVec 8) (b : BitVec 8) (m : Mods) (s : State) : Out :=
  scratchLoad (.lds d a b m) false s

/-- R234: store to core scratch. -/
def execSts (d : BitVec 7) (a : BitVec 8) (b : BitVec 8) (m : Mods) (s : State) : Out :=
  scratchStoreAll (.sts d a b m) false s

/-- R234: load from cluster scratch. -/
def execLdc (d : BitVec 8) (a : BitVec 8) (b : BitVec 8) (m : Mods) (s : State) : Out :=
  scratchLoad (.ldc d a b m) true s

/-- R234: store to cluster scratch. -/
def execStc (d : BitVec 7) (a : BitVec 8) (b : BitVec 8) (m : Mods) (s : State) : Out :=
  scratchStoreAll (.stc d a b m) true s

/-! ### Prefetch and fence -/

/-- R243: no effect but that every latch becomes stale; a lane that cannot read its index traps, and one whose access
would fault is dropped. -/
def execPref (d : BitVec 8) (a : BitVec 8) (b : BitVec 8) (m : Mods) (s : State) : Out :=
  execGroup (.pref d a b m) false true (fun c =>
    .done c.s (mapLanes c.g fun l ln =>
      if c.e.getLsbD l then
        match readN32 (mkCtx c.s c.k c.g c.r c.i c.sel c.e l) c.a with
        | .ok _ => ln
        | .error cause => parkLane ln (mkRec c.g c.r (encode c.i) l cause 0 {})
      else ln)) s

/-- R244, R250: the group's earlier accesses are performed already when it issues (R93), so it is a switch point and
no more. -/
def execFence (m : Mods) (s : State) : Out :=
  execGroup (.fence m) false true (fun c => .done c.s c.g) s

/-! ### The steps that perform accesses -/

/-- The first access of a lane that is still to be performed and meets a test. -/
def openAcc (q : Req) (test : Acc → Bool) : Option Nat := q.accs.findIdx? fun a => !a.done && test a

/-- An ordinary load or store. -/
def isOrdinary (a : Acc) : Bool :=
  match a.op with
  | .load _ => true
  | .store _ => true
  | _ => false

/-- R378: an access of a partition with a rate limit has been injected, or needs no injection. -/
def injectedOk (s : State) (q : Req) (a : Acc) : Bool :=
  a.injected || (match smFind s.parts q.part with | some x => x.rate == 0 | none => true)

/-- R257: an access that can be performed: it is injected, and nothing holds its line. -/
def accReady (s : State) (q : Req) (a : Acc) : Bool :=
  injectedOk s q a && !accHeld s q a

/-- R233: a lower lane's open store to the same element is performed before a store. -/
def inLaneOrder (q : Req) (a : Acc) : Bool :=
  match a.op with
  | .store _ => !(q.accs.any fun b => !b.done && decide (b.lane < a.lane) && b.coords == a.coords)
  | _ => true

/-- Perform an open access of a request that meets a test. -/
def performWhere (s : State) (req : Nat) (test : Req → Acc → Bool) : Out :=
  match smFind s.reqs req with
  | none => .fault .notEnabled
  | some q =>
    match openAcc q fun a => accReady s q a && test q a with
    | none => .fault .notEnabled
    | some n => .next (performAcc s req n)

/-- R257, R229, R233: an ordinary load or store is performed at the tier of its scope, after the stores of lower lanes to the
same element. -/
def execAccessPerformed (req lane : Nat) (s : State) : Out :=
  performWhere s req fun q a => a.lane == lane && isOrdinary a && inLaneOrder q a

/-- R311: a store through an entry with `GWE` passes through the graph of its channel. -/
def execWriteStreamGraph (req lane : Nat) (s : State) : Out :=
  performWhere s req fun q a => a.lane == lane && (entryOf q.entry).gwe && inLaneOrder q a

/-- R378: the bytes of the accesses of a request that are still to be injected. -/
def requestBytes (q : Req) : Nat :=
  (q.accs.filter fun a => !a.done && !a.injected).length * sizeOf (entryOf q.entry).fmt

/-- R378: the requests of an instruction are injected once their bytes are in the bucket of its die. -/
def execRateInject (req : Nat) (s : State) : Out :=
  match smFind s.reqs req with
  | none => .fault .notEnabled
  | some q =>
    let die := dieOfCore (coreOfKey q.group)
    if q.accs.any (fun a => !a.done && !a.injected) && rateAllows s q.part die (requestBytes q) then
      let t := takeBytes s q.part die (requestBytes q)
      .next { t with reqs := smPut t.reqs req { q with accs := q.accs.map fun a => { a with injected := true } } }
    else .fault .notEnabled

/-! ### A channel's request -/

/-- R25: the bytes of a request for a line at its channel. -/
def lineTraffic (s : State) (q : Req) (va : Nat) : State :=
  match smFind s.parts q.part with
  | some x => countTraffic s (channelOf x va) (launchOfReq s q) 128
  | none => s

/-- R219, R286: a channel serves the line of a lane's access, in one request for all accesses of the instruction on that line:
it translates, checks `W` for a store (R220), and reads the line for the others; the accesses are performed later. A failed
check parks their lanes. The other lines that blocks reach into are requested with it. A request that needs a bank that a running job holds is
not served (R318, R330). -/
def execChannelRequest (req lane : Nat) (s : State) : Out :=
  match smFind s.reqs req with
  | none => .fault .notEnabled
  | some q =>
    match openAcc q fun a => accReady s q a && !a.translated && a.lane == lane with
    | none => .fault .notEnabled
    | some n =>
      match q.accs[n]? with
      | none => .fault .notEnabled
      | some a =>
        let e := entryOf q.entry
        let va := elemAddr e a.coords
        let at_ := dataAddr s q.part e a.coords
        let mates := lineMates q a
        let store := match a.op with | .store _ => true | .scatter _ => true | _ => false
        let core := coreOfKey q.group
        let places := matePlaces s q a
        if inPeerWindow s q.part va || places.any (bankBusy s q.part) then .fault .notEnabled
        else match channelTranslate (lineTraffic s q at_) q.part at_ with
          | none => .next (failLine (lineTraffic s q at_) req q mates causePage at_)
          | some s1 =>
            let served := if store then (writablePlace s1 q.part at_).map (fun _ => s1) else serveLine s1 q.part at_ core
            match served with
            | .error c => .next (failLine s1 req q mates c at_)
            | .ok s2 =>
              let others := places.filter fun b => lineOf b != lineOf at_
              .next (servedLine (lineRequests s2 q.part core (launchOfReq s q) others []) req q mates)

end Sys2Proof.Machine
end

