-- ==== Sys2Proof/Machine/Atomics.lean ====
section
/-!
DEFINITION. Atomics, opcodes 0xAE and 0xAF (spec/13 R260 to R267), and the step of the home slice that performs one
(spec/95: HOME_SLICE_ATOMIC).
-/
namespace Sys2Proof.Machine

/-- R56, R262: the operation of an atomic, without its `.acqrel` bit. -/
def atomOpOf (i : Instr) : BitVec 5 := (extOf i).md &&& 15

/-- R262: the bits of an operand: `.bf16` takes a pair of halves in one register. -/
def atomBits (t : BitVec 5) : Nat := if t = 18 then 32 else tyBits t

/-- R262, R263: where the second operand stands after the first. -/
def atomSecond (t : BitVec 5) : Nat := if atomBits t = 64 then 2 else 1

/-- R262: an operation with a second operand. -/
def atomTwo (op : BitVec 5) : Bool := op == 7 || op == 10

/-- R262: the element of an atomic; an odd index of `.bf16` is a fault of the format (R262). -/
def atomName (t : BitVec 5) (e : Entry) (i : Nat) : Except (BitVec 8) Named :=
  if t = 18 then
    if i % 2 = 1 then .error causeFormat
    else .ok { elem := i, coords := coordsOf e i, inside := i + 1 < elementCount e }
  else .ok (namedFlat e i)

/-- R262, R263: the operands of a lane. -/
def atomLaneOp (c : Ctx) : Except (BitVec 8) AccOp :=
  let op := atomOpOf c.i
  let w := atomBits c.ty
  let d2 := c.d + atomSecond c.ty
  if regInside c.g c.ln c.d w && (!atomTwo op || regInside c.g c.ln d2 w) then
    .ok (.atom op (c.ln.win.toNat + c.d) (BitVec.ofNat 64 (regValue c.ln c.d w))
      (BitVec.ofNat 64 (if atomTwo op then regValue c.ln d2 w else 0)))
  else .error causeIllegalOperand

/-- R264: a lane whose element is skipped. -/
def atomMissed (zero : Bool) (c : Ctx) : Lane :=
  let l1 := if zero then writeAbs c.ln (c.ln.win.toNat + c.d) (resultType c.ty (c.ty == 18)) 0 else c.ln
  if atomTests (atomOpOf c.i).toNat then atomPreds l1 false else l1

/-- R264: a lane of `ATOM`. -/
def planAtom (ent : Except (BitVec 8) (BitVec 512 × Entry)) (res : Nat) (write : Bool) (c : Ctx) : Planned Lane :=
  match planAccess c.s c.g.part res c.l ent write (readN32 c c.a)
      (fun e => do
        let i ← readN32 c c.a
        atomName c.ty e i)
      (atomLaneOp c) (atomMissed true c) (atomMissed false c) with
  | .trap cause x => .trap cause (if cause = causeFormat then { x with elem := ((readN32 c c.a).toOption).getD 0 } else x)
  | p => p

/-- R264: one atomic for each lane of E. -/
def execAtom (d : BitVec 7) (a : BitVec 8) (b : BitVec 8) (m : Mods) (s : State) : Out :=
  laneAccess (.atom d a b m) [1, 2] true noWriteGraph planAtom s

/-- R262, R266: the operands of the group. -/
def atomUniOp (c : Ctx) : AccOp :=
  let op := atomOpOf c.i
  let w := atomBits c.ty
  .atom op (c.g.uwin.toNat + c.d) (BitVec.ofNat 64 (slotValue c.g c.d w))
    (BitVec.ofNat 64 (if atomTwo op then slotValue c.g (c.d + atomSecond c.ty) w else 0))

/-- R266: the group when its element is skipped. -/
def atomUniMissed (zero : Bool) (c : Ctx) : Group :=
  let g1 := if zero then writeUni c.g c.d (resultType c.ty (c.ty == 18)) 0 else c.g
  if atomTests (atomOpOf c.i).toNat then atomUpreds g1 false else g1

/-- R266: one atomic for the group. -/
def execUatom (d : BitVec 7) (a : BitVec 8) (b : BitVec 8) (m : Mods) (s : State) : Out :=
  execGroup (.uatom d a b m) true false (fun c =>
    let res := resourceIndex c c.b
    let ent := noWriteGraph (namedEntry c.s c.g.part res [1, 2] (some c.ty))
    let x := readUniN32 c c.a
    runUniPlan c (rawOf ent) res
      (match planAccess c.s c.g.part res (lowestLane c.sel) ent true (.ok x) (fun e => atomName c.ty e x)
          (.ok (atomUniOp c)) (atomUniMissed true c) (atomUniMissed false c) with
      | .trap cause y => .trap cause (if cause = causeFormat then { y with elem := x } else y)
      | p => p)) s

/-- An atomic, or an addition of `SCATADD`. -/
def isAtomic (a : Acc) : Bool :=
  match a.op with
  | .atom _ _ _ _ => true
  | .addTo _ => true
  | _ => false

/-- R260, R291: the home slice performs the open atomics of one instruction on one element, in ascending lane order:
those on the element of the lowest lane that is open. -/
def execHomeSliceAtomic (req : Nat) (s : State) : Out :=
  match smFind s.reqs req with
  | none => .fault .notEnabled
  | some q =>
    match openAcc q fun a => accReady s q a && isAtomic a with
    | none => .fault .notEnabled
    | some n =>
      match q.accs[n]? with
      | none => .fault .notEnabled
      | some a =>
        .next ((List.range q.accs.length).foldl (fun t j =>
          if (q.accs[j]?).any fun b => isAtomic b && b.elem == a.elem then performAcc t req j else t) s)

end Sys2Proof.Machine
end

