-- ==== Sys2Proof/Machine/Grant.lean ====
section
/-!
DEFINITION. Shape registers and grants (spec/10 R192 to R194), the side record of a tile (R191), and the context
image of a group (spec/19 R351 to R353, R361).
-/
namespace Sys2Proof.Machine

/-! ### Shapes -/

/-- R193: the supported M. -/
def sizesM : List Nat := [16, 32, 64]
/-- R193: the supported N. -/
def sizesN : List Nat := [16, 32, 64, 128]

/-- R193: the K of `MMA` and `MMABX` of a format. -/
def sizeK (fmt : BitVec 5) : Nat :=
  match fmt.toNat with
  | 17 => 32 | 18 => 32 | 1 => 64 | 2 => 64 | 19 => 64 | 20 => 64 | 9 => 128 | 10 => 128
  | _ => 32

/-- R193: the K of `MMAS` of a format; 0 for block formats. -/
def sizeKS (fmt : BitVec 5) : Nat := if tyIsBlock fmt then 0 else sizeK fmt * 3 / 2

/-- R194: the smallest supported size at or above a request, or the largest. -/
def grantOf (sizes : List Nat) (req : Nat) : Nat := (sizes.find? fun x => req ≤ x).getD (sizes.getLast?.getD 0)

/-- R192: the fields of a shape register. -/
structure ShapeReg where
  rm : Nat
  rn : Nat
  rk : Nat
  gm : Nat
  gn : Nat
  gk : Nat
  gks : Nat
  fmt : BitVec 5
  v : Bool
  deriving DecidableEq, Repr

/-- R192: read the fields. -/
def shapeFields (z : BitVec 128) : ShapeReg :=
  let n := z.toNat
  { rm := bitsOf n 112 16, rn := bitsOf n 96 16, rk := bitsOf n 80 16, gm := bitsOf n 72 8, gn := bitsOf n 64 8,
    gk := bitsOf n 56 8, gks := bitsOf n 48 8, fmt := BitVec.ofNat 5 (bitsOf n 43 5), v := bitsOf n 42 1 == 1 }

/-- R192: the register of the fields. -/
def shapeBits (x : ShapeReg) : BitVec 128 :=
  BitVec.ofNat 128 (x.rm % 2 ^ 16 * 2 ^ 112 + x.rn % 2 ^ 16 * 2 ^ 96 + x.rk % 2 ^ 16 * 2 ^ 80 + x.gm % 2 ^ 8 * 2 ^ 72
    + x.gn % 2 ^ 8 * 2 ^ 64 + x.gk % 2 ^ 8 * 2 ^ 56 + x.gks % 2 ^ 8 * 2 ^ 48 + x.fmt.toNat * 2 ^ 43
    + (if x.v then 2 ^ 42 else 0))

/-- R194, R210: the register that a request writes. -/
def grantShape (fmt : BitVec 5) (m n k : Nat) : ShapeReg :=
  { rm := min m 65535, rn := min n 65535, rk := k, gm := grantOf sizesM m, gn := grantOf sizesN n, gk := sizeK fmt,
    gks := sizeKS fmt, fmt := fmt, v := true }

/-- A group's shape register. -/
def shapeReg (g : Group) (z : Nat) : ShapeReg := shapeFields (smGet 0 g.shapes z)

/-- R208: the recomputed grant of a saved shape register equals the saved one. -/
def grantHolds (z : BitVec 128) : Bool :=
  let x := shapeFields z
  let y := grantShape x.fmt x.rm x.rn x.rk
  !x.v || (y.gm == x.gm && y.gn == x.gn && y.gk == x.gk && y.gks == x.gks)

/-! ### Tiles -/

/-- R191: the side record of a tile as a number. -/
def sideRecord (t : Tile) : Nat :=
  t.poison.toNat * 2 ^ 3136 + t.xfmt.toNat * 2 ^ 3072
    + leNat ((List.range 256).map fun i => smGet 0 t.xb i) * 2 ^ 1024 + leNat ((List.range 128).map fun i => smGet 0 t.xa i)

/-- A table from a list of entries in key order. -/
def smOfList {α : Type} [DecidableEq α] (d : α) (from_ : Nat) (xs : List α) : SMap α :=
  match xs with
  | [] => []
  | x :: rest => if x = d then smOfList d (from_ + 1) rest else (from_, x) :: smOfList d (from_ + 1) rest

/-- The words that bytes in order make up. -/
def wordsOf (bs : List Byte) : List Word :=
  match bs with
  | a :: b :: c :: d :: rest => (d ++ c ++ b ++ a) :: wordsOf rest
  | _ => []

/-- The bytes of words in order. -/
def bytesOfWords (ws : List Word) : List Byte := ws.flatMap fun w => leBytes 4 w.toNat

/-- R191: a tile from its 32,768 bytes of elements and its side record. -/
def tileOfBytes (bs : List Byte) : Tile :=
  let side := bs.drop 32768
  { elems := smOfList 0 0 (wordsOf (bs.take 32768))
    poison := BitVec.ofNat 64 (leNat ((side.drop 392).take 8))
    xfmt := BitVec.ofNat 5 (leNat ((side.drop 384).take 1))
    xa := smOfList 0 0 (side.take 128)
    xb := smOfList 0 0 ((side.drop 128).take 256) }

/-- A group's tile. -/
def tileOf (g : Group) (t : Nat) : Tile := smGet Tile.zero g.tiles t

/-- Put a tile. -/
def putTile (g : Group) (t : Nat) (x : Tile) : Group := { g with tiles := smSet Tile.zero g.tiles t x }

/-! ### Context images -/

/-- R351: the size of a group's image. -/
def imageSize (g : Group) : Nat := 0x1100 + 128 * g.nreg + 33280 * g.nacc

/-- R352: the header, for an image without positions inside blocks. -/
def imageHeader (g : Group) : Nat :=
  ((List.range 63).foldl (fun acc b => acc + smGet 0 g.waits b % 256 * 2 ^ (1048 + 8 * b)) 0)
    + g.bclose % 2 ^ 32 * 2 ^ 992 + g.uwin.toNat * 2 ^ 967 + (g.qpreds ||| 1).toNat * 2 ^ 952 + g.nacc % 2 ^ 8 * 2 ^ 944
    + g.nreg / 32 % 2 ^ 8 * 2 ^ 936 + g.kern % 2 ^ 32 * 2 ^ 896 + 1 * 2 ^ 880

/-- R353, R361: a lane's state with its position at offset 0 and every latch stale; `lat` is what the stale latches
hold. -/
def imageLane (ln : Lane) (lat : BitVec 256) : Nat :=
  lat.toNat * 2 ^ 256 + 15 * 2 ^ 124
    + (match ln.hold with | .waiting (some _) => 2 ^ 117 | _ => 0)
    + (ln.preds ||| 1).toNat * 2 ^ 96 + ln.win.toNat * 2 ^ 88 + ln.lb.toNat * 2 ^ 58

/-- The free contents of four stale latches (notes/assumptions/10). -/
def freeLatches (ctr : Nat) : BitVec 256 :=
  Config.freeValue (ctr + 3) ++ Config.freeValue (ctr + 2) ++ Config.freeValue (ctr + 1) ++ Config.freeValue ctr

/-- R351: the image of a group with a header and lane states. -/
def imageWith (g : Group) (header : Nat) (lane : Nat → Nat) : List Byte :=
  leBytes 256 header
    ++ laneIxs.flatMap (fun l => leBytes 64 (lane l))
    ++ bytesOfWords ((List.range 384).map fun u => getUreg g u)
    ++ (List.range 4).flatMap (fun t => leBytes 48 (smGet identityTable g.pms t).toNat)
    ++ (List.range 8).flatMap (fun z => leBytes 16 (smGet 0 g.shapes z).toNat)
    ++ (List.range 4).flatMap (fun m => leBytes 8 (smGet 0 g.rowm m).toNat)
    ++ (List.range 4).flatMap (fun m => leBytes 16 (smGet 0 g.colm m).toNat)
    ++ leBytes 96 0
    ++ (List.range g.nreg).flatMap (fun n => bytesOfWords (laneIxs.map fun l => getReg (getLane g l) n))
    ++ (List.range g.nacc).flatMap (fun t =>
        bytesOfWords ((List.range 8192).map fun e => smGet 0 (tileOf g t).elems e) ++ leBytes 512 (sideRecord (tileOf g t)))

/-- R351, R361: the image of a group that `CTXSV` saves; `ctr` numbers the free values that its stale latches take. -/
def imageBytes (g : Group) (ctr : Nat) : List Byte :=
  imageWith g (imageHeader g) fun l => imageLane (getLane g l) (freeLatches (ctr + 4 * l))

/-- R353, R354: a lane's state with its position and latches as they stand; `free` gives what stale latches hold. -/
def savedLaneBits (ln : Lane) (free : Nat → DWord) : Nat :=
  let lat := [ln.lat0, ln.lat1, ln.lat2, ln.lat3]
  (lat.zipIdx.foldl (fun acc x => acc + (x.1.getD (free x.2)).toNat * 2 ^ (256 + 64 * x.2) + if x.1.isNone then 2 ^ (124 + x.2) else 0) 0)
    + (match ln.hold with | .waiting (some _) => 2 ^ 117 | _ => 0)
    + (ln.preds ||| 1).toNat * 2 ^ 96 + ln.win.toNat * 2 ^ 88 + ln.rpt.toNat * 2 ^ 80 + ln.off.toNat * 2 ^ 64 + ln.lb.toNat * 2 ^ 58

/-- R354: the image of a group that is pre-empted: `FLAGS` bit 0 is set at an instruction boundary, or when a lane stands inside its
block. -/
def savedImage (g : Group) (boundary : Bool) (ctr : Nat) : List Byte :=
  let inside := boundary || laneIxs.any fun l => (getLane g l).off != 0 || (getLane g l).rpt != 0
  imageWith g (imageHeader g + if inside then 2 ^ 928 else 0) fun l =>
    savedLaneBits (getLane g l) fun i => Config.freeValue (ctr + 4 * l + i)

/-- Bytes [off + n - 1 : off] of an image, as a number. -/
def imageNat (bs : List Byte) (off n : Nat) : Nat := leNat ((bs.drop off).take n)

/-- R361: the image fits the group: its format, kernel and sizes. -/
def imageFits (g : Group) (bs : List Byte) : Bool :=
  let h := imageNat bs 0 256
  bitsOf h 880 16 == 1 && bitsOf h 928 1 == 0 && bitsOf h 896 32 == g.kern && bitsOf h 936 8 == g.nreg / 32
    && bitsOf h 944 8 == g.nacc

/-- R208: every grant of the image's shape registers holds. -/
def imageGrants (bs : List Byte) : Bool :=
  (List.range 8).all fun z => grantHolds (BitVec.ofNat 128 (imageNat bs (0x0FC0 + 16 * z) 16))

/-- R353: a lane of an image without positions inside blocks, at offset 0 of its block; a lane that awaits release takes a park code that the image does not hold
(notes/assumptions/10). -/
def laneOfImage (bs : List Byte) (nreg l : Nat) (code : BitVec 16) : Lane :=
  let x := imageNat bs (0x0100 + 64 * l) 64
  let lat := fun i : Nat => if bitsOf x (124 + i) 1 = 1 then none else some (BitVec.ofNat 64 (bitsOf x (256 + 64 * i) 64))
  { lb := BitVec.ofNat 6 (bitsOf x 58 6), nb := none
    hold := if bitsOf x 117 1 = 1 then .waiting (some code) else .free
    off := 0, rpt := 0
    regs := smOfList 0 0 ((List.range nreg).map fun n => BitVec.ofNat 32 (imageNat bs (0x1100 + 128 * n + 4 * l) 4))
    preds := BitVec.ofNat 16 (bitsOf x 96 16) ||| 1, win := BitVec.ofNat 8 (bitsOf x 88 8)
    lat0 := lat 0, lat1 := lat 1, lat2 := lat 2, lat3 := lat 3 }

/-- R192: a shape register of an image; its reserved bits read zero (R3). -/
def shapeOfImage (bs : List Byte) (z : Nat) : BitVec 128 :=
  let v := imageNat bs (0x0FC0 + 16 * z) 16
  BitVec.ofNat 128 (v - bitsOf v 0 42)

/-- R361: install every item of an image; batches up to `BCLOSE` are complete. -/
def installImage (g : Group) (bs : List Byte) (ctr : Nat) : Group :=
  let h := imageNat bs 0 256
  { g with
    lanes := laneIxs.map fun l => laneOfImage bs g.nreg l ((Config.freeValue (ctr + l)).setWidth 16)
    uregs := smOfList 0 0 (wordsOf ((bs.drop 0x0900).take 1536))
    qpreds := BitVec.ofNat 8 (bitsOf h 952 8) ||| 1
    uwin := BitVec.ofNat 9 (bitsOf h 967 9)
    waits := smOfList 0 0 ((List.range 63).map fun b => bitsOf h (1048 + 8 * b) 8)
    bclose := bitsOf h 992 32
    batches := g.batches.filter fun b => bitsOf h 992 32 < b.num
    pms := smOfList identityTable 0 ((List.range 4).map fun t => BitVec.ofNat 384 (imageNat bs (0x0F00 + 48 * t) 48))
    shapes := smOfList 0 0 ((List.range 8).map (shapeOfImage bs))
    rowm := smOfList 0 0 ((List.range 4).map fun m => BitVec.ofNat 64 (imageNat bs (0x1040 + 8 * m) 8))
    colm := smOfList 0 0 ((List.range 4).map fun m => BitVec.ofNat 128 (imageNat bs (0x1060 + 16 * m) 16))
    tiles := smOfList Tile.zero 0 ((List.range g.nacc).map fun t =>
      tileOfBytes ((bs.drop (0x1100 + 128 * g.nreg + 33280 * t)).take 33280)) }

end Sys2Proof.Machine
end

