-- ==== Sys2Proof/Machine/Gates.lean ====
section
/-!
DEFINITION. The gate automaton (spec/06 R101 to R120): gate tables, the choice of a gate, miss records, strand runs,
`GEND` and the vote, replay; the handler pass (spec/19 R334 to R337); pre-emption at a vote (spec/05 R95).
-/
namespace Sys2Proof.Machine

/-! ### Context images -/

/-- R361: write bytes as stores; whether every byte could be stored. -/
def storeBytes (s : State) (p va : Nat) (bs : List Byte) : Bool × State :=
  match bs with
  | [] => (true, s)
  | b :: rest =>
    match writeBytes s p va 1 b.toNat with
    | .ok t => storeBytes t p (va + 1) rest
    | .error _ =>
      let r := storeBytes s p (va + 1) rest
      (false, r.2)

/-- R220, R345: the events of stores to a line that its page does not permit. -/
def storeEvent (p core : Nat) (s : State) (line : Nat) : State :=
  match writeBytes s p line 1 0 with
  | .ok _ => s
  | .error c => faultEvent s p c line core

/-- Bytes as the patterns of elements of `z` bytes. -/
def patternsBy (z : Nat) (bs : List Byte) (fuel : Nat) : List Nat :=
  match fuel with
  | 0 => []
  | fuel + 1 => if bs.isEmpty then [] else leNat (bs.take z) :: patternsBy z (bs.drop z) fuel

/-- R311: the bytes that reach memory when bytes are stored at `va` through an entry: through the graph of its channel when it has
one, all elements over the lines as they were. -/
def bytesThrough (s : State) (p : Nat) (e : Entry) (va : Nat) (bs : List Byte) : List Byte :=
  let z := sizeOf e.fmt
  let all := (patternsBy z bs bs.length).zipIdx.map fun x => (va + z * x.2, x.1)
  if e.gwe then
    all.flatMap fun x => leBytes z ((placedPattern s p e all (coordsOf e ((x.1 - e.base) / z)) x.2).toOption.getD x.2)
  else bs

/-- R361: write an image as package-scope stores through its resource; lines that are stored whole are good again (R348). Stores
that pass through a graph make requests at their channels (R311, R222). -/
def storeImage (s : State) (p core : Nat) (of : Option Nat) (e : Entry) (va : Nat) (bs : List Byte) : Bool × State :=
  let lines := linesFrom va bs.length
  let s1 := takeBytes s p (dieOfCore core) bs.length
  let s2 := lines.foldl (storeEvent p core) (if e.gwe then lineRequests s1 p core of [] lines else s1)
  let r := storeBytes (if e.gwe then { s2 with freeCtr := s2.freeCtr + 128 } else s2) p va (bytesThrough s p e va bs)
  (r.1, if r.1 then healRanges r.2 p [(va, bs.length)] else r.2)

/-- R257, R318, R361, R378: whether a requested save must wait: queued matrix instructions or closed batches of the group are open,
something holds a line of the image, a job its bank when it passes a graph, or the limit its bytes. -/
def ctxWaits (s : State) (k : Nat) (g : Group) : Bool :=
  match g.ctxReq with
  | some (.save _ va raw) =>
    let lines := linesFrom va (imageSize g)
    engineBusy s k || (g.batches.any fun b => !b.complete) || accessWaits s g.part (coreOfKey k) lines (imageSize g)
      || ((entryOf raw).gwe && lines.any fun l => !inPeerWindow s g.part l && bankBusy s g.part l)
  | some (.load _) => engineBusy s k
  | none => false

/-- R361: step 3 of R109 for a requested save or load. -/
def ctxStep (s : State) (k : Nat) (g : Group) : State × Group :=
  match g.ctxReq with
  | none => (s, g)
  | some (.load image) =>
    ({ s with freeCtr := s.freeCtr + 32 }, { installImage g image s.freeCtr with ctxReq := none })
  | some (.save dest va raw) =>
    let r := storeImage { s with freeCtr := s.freeCtr + 128 } g.part (coreOfKey k) (some g.launch) (entryOf raw) va (imageBytes g s.freeCtr)
    (r.2, { setUreg g dest (if r.1 then 0 else 1) with ctxReq := none })

/-! ### Gate tables -/

/-- R103: a slot of a gate table: block set, length in words, offset in words. -/
structure GateSlot where
  index : Nat
  mask : BitVec 64
  len : Nat
  off : Nat
  deriving DecidableEq, Repr

/-- R104: what a slot holds. -/
inductive SlotState where
  | empty
  | broken
  | loaded (g : GateSlot)
  deriving DecidableEq, Repr

/-- R103, R104: read a slot's 16 bytes. -/
def slotOf (m : List Host.Cell) (key i : Nat) : SlotState :=
  if (memGet m (key + 7)).getLsbD 7 then
    let v := memRead m key 16
    let x : GateSlot := { index := i, mask := BitVec.ofNat 64 (bitsOf v 64 64), len := bitsOf v 36 16, off := bitsOf v 0 32 }
    if x.mask ≠ 0 && !x.mask.getLsbD 63 && bitsOf v 52 11 == 0 && bitsOf v 32 4 == 0 && 2 ≤ x.len then .loaded x
    else .broken
  else .empty

/-- R103: the slots of a kernel's table, with their states; the table of 65,536 bytes lies on one page or two. A slot in a lost line is
read as empty (notes/assumptions/58). -/
def tableSlots (s : State) (p : Nat) (kn : Kernel) : List (Nat × SlotState) :=
  let first := kn.gateTable / 65536
  let gone := lostIn s p kn.gateTable 65536
  let lo := translate s p kn.gateTable
  let hi := translate s p (kn.gateTable + 65535)
  (List.range 4096).map fun i =>
    let va := kn.gateTable + 16 * i
    let key := if va / 65536 = first then lo.map fun x => x.1 + 16 * i
               else hi.map fun x => x.1 - (65535 - 16 * i)
    match key with
    | some k => (i, if !gone.isEmpty && gone.contains (lineOf va) then .empty else slotOf s.mem k i)
    | none => (i, .empty)

/-- R104: the loaded gates. -/
def loadedGates (xs : List (Nat × SlotState)) : List GateSlot :=
  xs.filterMap fun x => match x.2 with
    | .loaded g => some g
    | _ => none

/-- R104: the broken slots. -/
def brokenSlots (xs : List (Nat × SlotState)) : List Nat :=
  xs.filterMap fun x => match x.2 with
    | .broken => some x.1
    | _ => none

/-- R104: the name under which a core remembers a broken slot that it has reported. -/
def faultKey (core p handle slot : Nat) : Nat := ((p * 2 ^ 32 + handle) * 512 + core) * 4096 + slot

/-- R104: report broken slots that this core has not reported. -/
def reportSlots (s : State) (core p handle : Nat) (xs : List Nat) : State :=
  xs.foldl (fun t i =>
    let key := faultKey core p handle i
    if t.tableFaults.contains key then t
    else deviceEvent { t with tableFaults := key :: t.tableFaults } p 0x13 { kernel := handle, core := core }) s

/-- R104: the singleton gate of a block, in its slot. -/
def singletonOf (gs : List GateSlot) (b : Nat) : Option GateSlot :=
  gs.find? fun g => g.index == b && g.mask == BitVec.ofNat 64 (2 ^ b)

/-! ### The vote -/

/-- The number of blocks of a set. -/
def setSize (m : BitVec 64) : Nat := ((List.range 63).filter fun b => m.getLsbD b).length

/-- R111: the block of S with the greatest wait count, the lowest on a tie. -/
def oldestBlock (waits : SMap Nat) (set : BitVec 64) : Nat :=
  ((List.range 63).foldl (fun (acc : Option (Nat × Nat)) b =>
    if set.getLsbD b then
      match acc with
      | none => some (b, smGet 0 waits b)
      | some (_, w) => if w < smGet 0 waits b then some (b, smGet 0 waits b) else acc
    else acc) none).elim 0 (·.1)

/-- R111: the gate of a sidestep: the most blocks among the subsets of S that contain o, the lowest index on a tie. -/
def sidestepGate (gs : List GateSlot) (set : BitVec 64) (o : Nat) : Option GateSlot :=
  gs.foldl (fun acc g =>
    if g.mask &&& ~~~ set = 0 && g.mask.getLsbD o then
      match acc with
      | none => some g
      | some a => if setSize a.mask < setSize g.mask then some g else acc
    else acc) none

/-- R109: the wait counts after a vote. -/
def newWaits (waits : SMap Nat) (set gate : BitVec 64) : SMap Nat :=
  (List.range 63).foldl (fun acc b =>
    smSet 0 acc b (if gate.getLsbD b then 0 else if set.getLsbD b then min (smGet 0 waits b + 1) 255 else 0)) []

/-- R115: the filter entry that a new pair replaces: the one whose last record is oldest, the first of the list when several are
equally old (notes/assumptions/57). -/
def oldestEntry (xs : List FilterEntry) : Option FilterEntry :=
  xs.foldl (fun acc x => match acc with
    | none => some x
    | some a => if x.cyc < a.cyc then some x else acc) none

/-- R115: put an entry into a core's filter. -/
def filterPut (xs : List FilterEntry) (e : FilterEntry) : List FilterEntry :=
  let rest := xs.filter fun x => !(x.kern == e.kern && x.set == e.set)
  if rest.length < 16 then rest ++ [e]
  else match oldestEntry rest with
    | some o => (rest.filter fun x => x ≠ o) ++ [e]
    | none => [e]

/-- R113: the 32 bytes of a miss record. -/
def missRecord (set gate : BitVec 64) (cyc : DWord) (handle supp core : Nat) : List Byte :=
  leBytes 32 (set.toNat * 2 ^ 192 + gate.toNat * 2 ^ 128 + cyc.toNat * 2 ^ 64 + handle % 2 ^ 32 * 2 ^ 32
    + supp % 2 ^ 16 * 2 ^ 16 + core % 2 ^ 9)

/-- R113 to R115: a sidestep's miss record, unless the core's filter suppresses it. A filter's entries go when their partition is
destroyed, and stay when a kernel is unloaded or a cluster changes hands (the model's choice, notes/assumptions/59). -/
def missStep (s : State) (core p handle : Nat) (set gate : BitVec 64) : State :=
  let xs := smGet [] s.filters core
  let put := fun (t : State) (e : FilterEntry) => { t with filters := smSet [] t.filters core (filterPut xs e) }
  match xs.find? fun x => x.kern == handle && x.set == set with
  | some e =>
    if s.cycle - e.cyc < 65536 then put s { e with supp := if e.supp = 65535 then 65535 else e.supp + 1 }
    else
      pushWalked (put s { e with cyc := s.cycle, supp := 0 }) p .miss
        (missRecord set gate s.cycle handle e.supp.toNat core) core
  | none =>
    pushWalked (put s { kern := handle, set := set, cyc := s.cycle, supp := 0 }) p .miss
      (missRecord set gate s.cycle handle 0 core) core

/-- R103, R105: the walk over the code of a gate, from its first word. -/
def openGate (kn : Kernel) (handle : Nat) (gate : GateSlot) (replay : Option Word) : Run :=
  { kern := handle, mask := gate.mask, base := kn.codeBase + 4 * gate.off, len := gate.len, pos := 0, strand := none,
    offs := [], rpt := 0, replay := replay }

/-- R103, R345: a group begins a gate, whose code is read with its events. A group whose gate has lost words is contained, as by a gate
integrity fault (notes/assumptions/58). -/
def enterGate (s : State) (k : Nat) (g : Group) (kn : Kernel) (handle : Nat) (gate : GateSlot) (replay : Option Word) : State :=
  let va := kn.codeBase + 4 * gate.off
  let t := rangeRead s g.part (coreOfKey k) va (4 * gate.len)
  if (lostIn s g.part va (4 * gate.len)).isEmpty then putGroup t k { g with ctl := .run (openGate kn handle gate replay) }
  else containGroup (putGroup t k g) k g 0x14 0

/-- R109 step 4: the vote over a non-empty set: choose a gate of the kernel, count waits, write a miss record on a
sidestep. A singleton gate that is missing contains the group (R104); the record names no lane (notes/assumptions/51). -/
def vote (s : State) (k : Nat) (g : Group) (handle : Nat) (set : BitVec 64) : State :=
  let core := coreOfKey k
  match findKernel s g.part handle with
  | none => containGroup (putGroup s k g) k g 0x13 0
  | some kn =>
    let slots := tableSlots s g.part kn
    let gs := loadedGates slots
    let s1 := reportSlots (rangeRead s g.part core kn.gateTable 65536) core g.part handle (brokenSlots slots)
    let chosen := fun (gate : GateSlot) => { staleAll g with waits := newWaits g.waits set gate.mask }
    match gs.find? fun x => x.mask == set with
    | some gate => enterGate s1 k (chosen gate) kn handle gate none
    | none =>
      match sidestepGate gs set (oldestBlock g.waits set) with
      | some gate => enterGate (missStep s1 core g.part handle set gate.mask) k (chosen gate) kn handle gate none
      | none => containGroup (putGroup s1 k g) k g 0x13 0

/-! ### Between gates -/

/-- R109 step 1: commit the terminator that a lane has executed. -/
def commitLane (ln : Lane) : Lane :=
  match ln.nb with
  | some b => { ln with lb := b, nb := none, off := 0, rpt := 0 }
  | none => ln

/-- R119: a released lane at offset 0 takes part in the next vote; one sent to block 63 has left (R357). -/
def settleReplay (ln : Lane) : Lane :=
  if ln.hold = .replay && ((ln.off = 0 && ln.rpt = 0) || ln.lb = 63) then { ln with hold := .free, off := 0, rpt := 0 }
  else ln

/-- The pending record of a lane. -/
def pendingOf (ln : Lane) : Option TrapRec :=
  match ln.hold with
  | .pending r => some r
  | _ => none

/-- R335: the lanes with a pending memory fault other than entry unbound. -/
def faultLanes (g : Group) : Word :=
  maskOf fun l => (pendingOf (getLane g l)).any fun r => isMemCause r.cause && r.cause != causeUnbound

/-- R335: the lanes with a pending trap. -/
def trapLanes (g : Group) : Word :=
  maskOf fun l => (pendingOf (getLane g l)).any fun r => !isMemCause r.cause

/-- R335: the lanes whose entry is unbound. -/
def unboundLanes (g : Group) : Word :=
  maskOf fun l => (pendingOf (getLane g l)).any fun r => r.cause == causeUnbound

/-- R119: the lanes that are to be replayed. -/
def replayLanes (g : Group) : Word := maskOf fun l => (getLane g l).hold == .replay

/-- R109: the blocks that lanes occupy, of a set of lanes. -/
def occupiedOf (g : Group) (m : Word) : BitVec 64 :=
  (lanesOf m).foldl (fun acc l =>
    let ln := getLane g l
    if ln.hold = .free && ln.lb ≠ 63 then acc ||| BitVec.ofNat 64 (2 ^ ln.lb.toNat) else acc) 0

/-- R119: the lowest block among the lanes to be replayed. -/
def replayBlock (g : Group) : Option Nat :=
  (List.range 63).find? fun b => (lanesOf (replayLanes g)).any fun l => (getLane g l).lb.toNat == b

/-- R119: start the replay of a block through its singleton gate; where that is missing, the record of R104 names the lanes
to be replayed (notes/assumptions/51). -/
def startReplay (s : State) (k : Nat) (g : Group) (b : Nat) : State :=
  match findKernel s g.part g.kern with
  | none => containGroup (putGroup s k g) k g 0x13 (replayLanes g)
  | some kn =>
    let t := rangeRead s g.part (coreOfKey k) kn.gateTable 65536
    match singletonOf (loadedGates (tableSlots s g.part kn)) b with
    | some gate => enterGate t k g kn g.kern gate (some 0)
    | none => containGroup (putGroup t k g) k g 0x13 (replayLanes g)

/-- R334: a kernel that can be a handler. -/
def isHandler (kn : Kernel) : Bool := kn.nreg == 64 && kn.nureg == 48

/-- R335: the lanes of M enter the handler. -/
def enterHandler (g : Group) (fault : Bool) (m : Word) (h : Nat) (entry : Nat) : Group :=
  let recs := (lanesOf m).filterMap fun l => (pendingOf (getLane g l)).map fun r =>
    (l, ({ trec := { r with tmask := m }, orig := { r with tmask := m }, disp := .finish, edited := false, blk := r.blk, off := r.off, rpt := r.rpt } : PassLane))
  let g1 := mapLanes g fun l ln =>
    if m.getLsbD l then
      { staleLane ln with lb := BitVec.ofNat 6 entry, nb := none, hold := .free, preds := 1,
                          win := BitVec.ofNat 8 (g.nreg - 64) }
    else ln
  { g1 with
    pass := some { fault := fault, mask := m, handler := h, waits := g.waits, uwin := g.uwin, qpreds := g.qpreds,
                   lanes := recs }
    waits := [], uwin := 336, ctl := .between }

/-- R335, R336: one lane when the pass ends. -/
def leaveLane (ln : Lane) (x : PassLane) : Lane :=
  let back := { ln with preds := x.trec.pred ||| 1, win := x.trec.lwin, nb := none }
  match x.disp with
  | .finish => { back with lb := 63, hold := .free, off := 0, rpt := 0 }
  | .resume => settleReplay { back with lb := x.trec.blk, off := x.trec.off, rpt := x.trec.rpt, hold := .replay }
  | .park code => { back with lb := x.blk, off := x.off, rpt := x.rpt, hold := .waiting (some code) }

/-- R335: the end of a pass: restore what the pass saved, apply the dispositions, every latch becomes stale. -/
def leaveHandler (g : Group) (p : Pass) : Group :=
  let g1 := mapLanes g fun l ln =>
    match smFind p.lanes l with
    | some x => if p.mask.getLsbD l then leaveLane ln x else ln
    | none => ln
  staleAll { g1 with waits := p.waits, qpreds := p.qpreds, uwin := p.uwin, pass := none, ctl := .between }

/-- R335, R345: event 0x15 for the lanes of M, which stay parked with no record pending. -/
def noFaultHandler (s : State) (k : Nat) (g : Group) (m : Word) : State × Group :=
  let core := coreOfKey k
  let body := match pendingOf (getLane g (lowestLane m)) with
    | some r => memRecord r core
    | none => 0
  (deviceEvent s g.part 0x15 { body := body, mask := m.toNat, kernel := g.kern, core := core },
   mapLanes g fun l ln => if m.getLsbD l then { ln with hold := .waiting none } else ln)

/-- R96, R118: the position of a lane that is saved by pre-emption: a lane parked on an unbound entry is saved
unparked at its position (R354). -/
def savedLane (ln : Lane) : Lane :=
  match ln.hold with
  | .pending r => if r.cause = causeUnbound then { ln with hold := .replay } else ln
  | _ => ln

/-- R95: what a pre-empted group waits for when it resumes: waits for its core's engine and scratch are asked anew. -/
def savedWait (w : Wait) : Wait :=
  match w with
  | .req _ => .none
  | .engine _ => .none
  | .moves _ => .none
  | .bytes _ _ _ _ => .none
  | .lines _ _ => .none
  | w => w

/-- R354, notes/assumptions/13: the bytes of a part of the save area, which holds one image and, after a crew's last image, the
states of its barriers. -/
def areaBytes : Nat := 2 ^ 20

/-- R354: the lowest part of a partition's save area that holds no image. -/
def freeArea (s : State) (p : Nat) : Nat :=
  let used := (s.crews.filter fun e => e.2.part == p).flatMap fun e => e.2.areas
  ((List.range (used.length + 1)).find? fun n => !used.contains n).getD 0

/-- R268, R354: the states of a crew's barriers, in their layout. -/
def barrierBytes (bars : SMap Barrier) : List Byte :=
  (List.range 16).flatMap fun n =>
    let b := smGet Barrier.zero bars n
    leBytes 4 (b.round.toNat * 2 ^ 16 + b.exp.toNat * 2 ^ 6 + b.arr.toNat)

/-- R354: a pre-empted group's image is written into the save area, with the crew's barriers after the image of its last group. -/
def writeSaved (s : State) (g : Group) (boundary : Bool) (area : Nat) (bars : SMap Barrier) (last : Bool) : State :=
  match smFind s.parts g.part with
  | none => s
  | some x =>
    pokeVa { s with freeCtr := s.freeCtr + 128 } g.part (x.regs.svbase.toNat + areaBytes * area)
      (savedImage g boundary s.freeCtr ++ if last then barrierBytes bars else [])

/-- R95, R96, R354: a pre-empted group leaves its slot, its image in the save area; when every group of its crew has, the crew
leaves its core and its launch returns to Placing. `boundary`: at an instruction boundary. -/
def savePreempted (s : State) (k : Nat) (g : Group) (boundary : Bool) : State :=
  let saved : Group :=
    { mapLanes g (fun _ ln => savedLane ln) with ctl := .between, preempt := false, wait := savedWait g.wait }
  let s1 := { s with groups := smErase s.groups k, cur := none }
  match smFind s1.crews g.crew with
  | none => s1
  | some c =>
    let area := freeArea s1 g.part
    leaveCore (writeSaved s1 saved boundary area c.bars (c.saved.length + 1 = c.live)) g.crew
      { c with saved := c.saved ++ [saved], areas := c.areas ++ [area] }

/-- R109: a group between gates, outside a pass, with no lane to replay and no record to deliver: pre-emption, once the
matrix engine has done the group's instructions (R200), context images, then the vote or retirement. A group that is saved has a
requested context image written or loaded after it resumes (the model's choice, notes/assumptions/59). -/
def lastSteps (s : State) (k : Nat) (g : Group) : State :=
  if g.preempt then (if engineBusy s k then putGroup s k g else savePreempted s k g false)
  else
    let (s1, g1) := ctxStep s k g
    let set := occupiedOf g1 0xFFFFFFFF
    if set = 0 then
      if !engineBusy s1 k && laneIxs.all fun l => (getLane g1 l).hold == .free then retireGroup s1 k g1 else putGroup s1 k g1
    else vote s1 k g1 g1.kern set

/-- R335: the pass for the lanes of M of one kind, or what stands in its place when no handler can take it. -/
def startPass (s : State) (k : Nat) (g : Group) (fault : Bool) (m : Word) (h : Nat) : State :=
  match findKernel s g.part h with
  | none => containGroup (putGroup s k g) k g 0x12 m
  | some kn =>
    if isHandler kn then
      let g1 := enterHandler g fault m h kn.entry
      vote s k g1 h (occupiedOf g1 m)
    else containGroup (putGroup s k g) k g 0x12 m

/-- R109 steps 2 to 4 of a group outside a pass (R335): replay, then memory faults, then traps, then the wait for a
binding, then the vote. -/
def outsidePass (s : State) (k : Nat) (g0 : Group) : State :=
  let g := mapLanes { g0 with ctl := .between } fun _ ln => settleReplay ln
  match replayBlock g with
  | some b => startReplay s k g b
  | none =>
    let fltvec := match smFind s.parts g.part with | some x => x.regs.fltvec.toNat | none => 0
    let fm := faultLanes g
    if fm ≠ 0 && fltvec ≠ 0 then startPass s k g true fm fltvec
    else
      let (s1, g1) := if fm ≠ 0 then noFaultHandler s k g fm else (s, g)
      let tm := trapLanes g1
      if tm ≠ 0 then
        if g1.trapvec = 0 then containGroup (putGroup s1 k g1) k g1 0x10 tm
        else startPass s1 k g1 false tm g1.trapvec.toNat
      else if unboundLanes g1 ≠ 0 && !g1.preempt then putGroup s1 k g1
      else if ctxWaits s1 k g1 && !g1.preempt then putGroup s1 k g1
      else lastSteps s1 k g1

/-- R109, R335: a group that stands between gates goes on: in a pass with the vote of the handler, whose empty set
ends the pass. -/
def boundary (s : State) (k : Nat) (g : Group) : State :=
  match g.pass with
  | some p =>
    let set := occupiedOf g p.mask
    if set = 0 then outsidePass s k (leaveHandler g p) else vote s k g p.handler set
  | none => outsidePass s k g

/-- R93, R109, R335: whether a group between gates can go on. It retires once the engine has performed its instructions
(notes/assumptions/24). -/
def boundaryReady (s : State) (k : Nat) (g : Group) : Bool :=
  g.pass.isSome || replayLanes g ≠ 0 || faultLanes g ≠ 0 || trapLanes g ≠ 0
    || (if g.preempt then !engineBusy s k
        else if unboundLanes g ≠ 0 then false
        else if ctxWaits s k g then false
        else g.ctxReq.isSome || occupiedOf g 0xFFFFFFFF ≠ 0
          || (!engineBusy s k && laneIxs.all fun l => (getLane g l).hold == .free))

/-! ### Strand runs and replay -/

/-- R119: the lanes that wait to join the replay of a block. -/
def waitingLanes (g : Group) (blk : BitVec 6) : List Nat :=
  laneIxs.filter fun l => (getLane g l).hold == .replay && (getLane g l).lb == blk

/-- R119: a lane joins the replay at the instruction of its offset and at its repeat index. -/
def joinReplay (g : Group) (r : Run) : Group × Run :=
  match r.replay, r.strand with
  | some j, some st =>
    let here := (waitingLanes g st.blk).filter fun l => (getLane g l).off.toNat == offOf r
    let rpt := if maskOf (laneSelected g r st.blk) = 0 then leastOf r.rpt (here.map fun l => (getLane g l).rpt.toNat) else r.rpt
    let joining := here.filter fun l => (getLane g l).rpt.toNat ≤ rpt
    let r' := { r with rpt := rpt, replay := some (j ||| maskOf fun l => joining.contains l) }
    let g' := mapLanes g fun l ln => if joining.contains l then { ln with hold := .free, off := 0, rpt := 0 } else ln
    ({ g' with ctl := .run r' }, r')
  | _, _ => (g, r)

/-- R51, R106, R119: `STR` opens a run. A run that selects no lane is skipped whole; in a replay a run opens at the
lowest offset of the lanes that wait for it. -/
def openStrand (g : Group) (r : Run) (blk : BitVec 6) (n : Nat) : Group :=
  let b := blk.toNat
  let cur := smGet 0 r.offs b
  let skipped := { g with ctl := .run { r with pos := r.pos + 1 + n, offs := smSet 0 r.offs b (cur + n) } }
  let opened := fun skip => { g with ctl := .run { r with pos := r.pos + 1 + skip, rpt := 0, offs := smSet 0 r.offs b (cur + skip),
                                                           strand := some { blk := blk, left := n - skip } } }
  if maskOf (laneSelected g r blk) ≠ 0 then opened 0
  else match r.replay with
    | none => skipped
    | some _ =>
      let low := leastOf (cur + n) ((waitingLanes g blk).map fun l => (getLane g l).off.toNat)
      if r.mask.getLsbD b && cur ≤ low && low < cur + n then opened (low - cur) else skipped

/-- R119: a terminator ends a replay: it commits the next block of the lanes that executed it, and no vote follows. -/
def endReplay (g : Group) : Group :=
  { mapLanes g (fun _ ln => if ln.nb.isSome then staleLane (commitLane ln) else ln) with ctl := .between }

/-- R127: the lanes selected in the gate that have not executed their terminator. -/
def unfinishedLanes (g : Group) (r : Run) : Word :=
  maskOf fun l => laneSelected g r (getLane g l).lb l && (getLane g l).lb ≠ 63

/-- R109, R127: the last word of a gate ends it: terminators are committed, every latch becomes stale, and the group goes
on between gates. In a replay the lanes that have still to join keep theirs (R96, R119). -/
def endGate (s : State) (k : Nat) (g : Group) : State :=
  boundary (endTurn s k) k { staleSwitch (mapLanes g fun _ ln => commitLane ln) with ctl := .between }

/-- R57, R127: a faulty word of gate code outside a run: the lanes that the gate has still to finish trap, each at the
position of its next instruction (notes/assumptions/46). -/
def trapOutside (g : Group) (r : Run) (ws : List Word) (cause : BitVec 8) : Group :=
  mapLanes g fun l ln =>
    if (unfinishedLanes g r).getLsbD l then
      parkLane ln { mkRec g r ws l cause 0 {} with blk := ln.lb, off := BitVec.ofNat 16 (smGet 0 r.offs ln.lb.toNat), rpt := 0 }
    else ln

/-- R127: a `GEND` that is not the one a gate ends with: before the last word it is an illegal instruction, with a prefix
as well; as the last word with a non-zero D, A or B it is an illegal operand, and the gate ends there. `ws` are its words. -/
def faultyGend (s : State) (k : Nat) (g : Group) (r : Run) (ws : List Word) : State :=
  let last := decide (r.len ≤ r.pos + ws.length)
  let g1 := trapOutside g r ws (if last && ws.length = 1 then causeIllegalOperand else causeIllegalInstruction)
  let m := passTrapped g1
  if m ≠ 0 then containGroup (putGroup s k g1) k g1 0x11 m
  else if last then endGate s k g1
  else switched s k { g1 with ctl := .run { r with pos := r.pos + ws.length } }

end Sys2Proof.Machine
end

