-- ==== Sys2Proof/Machine/Issue.lean ====
section
/-!
DEFINITION. Issue on a sequencer (spec/05 R93): which group is ready, which one a sequencer picks, how the next
word of its gate is fetched and read (spec/03 R50, R51, R57).
-/
namespace Sys2Proof.Machine

/-- R268: a barrier of a crew or of a cluster. -/
def barrierOf (s : State) (cluster : Bool) (key n : Nat) : Barrier :=
  if cluster then smGet Barrier.zero s.cbars (key * 8 + n)
  else match smFind s.crews key with
    | some c => smGet Barrier.zero c.bars n
    | none => Barrier.zero

/-- The items of a group in flight that meet a test. -/
def flightCount (s : State) (g : Group) (test : ItemKind → Bool) : Nat :=
  (s.items.filter fun e => e.2.owner == g.uid && inFlight e.2 && test e.2.kind).length

/-- A copy. -/
def isCopy (x : ItemKind) : Bool := match x with | .copy _ => true | _ => false

/-- A list instruction. -/
def isList (x : ItemKind) : Bool := match x with | .list _ => true | _ => false

/-- A job of `GJOB`. -/
def isJob (x : ItemKind) : Bool := match x with | .job j => j.fold.isNone | _ => false

/-- R203, R215: a copy or list instruction in flight, issued before item `since`, writes bytes of a cluster's scratch. -/
def copiesInto (s : State) (cluster off len since : Nat) : Bool :=
  s.items.any fun e => decide (e.1 < since) && inFlight e.2 && (match e.2.kind with
    | .copy c => !c.store && !c.core && c.place == cluster && rangesMeet c.off c.len off len
    | .list l => !l.scatter && !l.core && l.place == cluster && rangesMeet l.off l.len off len
    | _ => false)

/-- R242: the closed batches of a group that are not complete. -/
def openBatches (g : Group) : Nat := (g.batches.filter fun b => !b.complete).length

/-- R93, R270, R308: what a group waits for has come. -/
def waitOver (s : State) (k : Nat) (g : Group) : Bool :=
  match g.wait with
  | .none => true
  | .req id => (smFind s.reqs id).isNone
  | .bar cluster key n round => (barrierOf s cluster key n).round != round
  | .item id => match smFind s.items id with
    | none => true
    | some x => !inFlight x
  | .batch n => g.batches.all fun b => n < b.num || b.complete
  | .batchRoom => openBatches g < 16
  | .copyRoom => flightCount s g isCopy < 256
  | .listRoom => flightCount s g isList < 16
  | .jobRoom => flightCount s g isJob < 16
  | .engine tiles => !tilesBusy s k tiles
  | .moves queued => queueLength s k != queued
  | .bytes cluster place store ranges => !scratchHeld s cluster place store ranges
  | .lines addrs bytes => !accessWaits s g.part (coreOfKey k) addrs bytes

/-- R93: a group is ready when its next instruction can issue. -/
def groupReady (s : State) (k : Nat) (g : Group) : Bool :=
  waitOver s k g && (match g.ctl with
    | .between => boundaryReady s k g
    | .run _ => true)

/-- R93: the ready groups of a sequencer with their keys, slots ascending. -/
def readyGroups (s : State) (core seq : Nat) : List (Nat × Group) :=
  s.groups.filter fun e => e.1 / 8 == core * 4 + seq && groupReady s e.1 e.2

/-- R93: a sequencer's turn. -/
def seqOf (s : State) (q : Nat) : Seq := smGet Seq.zero s.seqs q

/-- R93: a cycle has passed since the last issue of a sequencer in which it issued nothing: a dependence stall. -/
def stalled (s : State) (q : Seq) : Bool := q.last.any fun c => c + 1 != s.cycle

/-- R93 step 1: the current group goes on: it is ready, no group of a higher class is, and it has not issued 256 times
while another of its class or higher is ready. A cycle in which the sequencer issued nothing ended its turn. -/
def currentGroup (s : State) (core seq : Nat) (ready : List (Nat × Group)) : Option (Nat × Group) :=
  let q := seqOf s (core * 4 + seq)
  if stalled s q then none
  else match q.slot with
    | none => none
    | some sl =>
      match ready.find? fun e => e.1 % 8 == sl with
      | none => none
      | some e =>
        if ready.any fun x => e.2.cls < x.2.cls then none
        else if q.streak ≥ 256 && ready.any fun x => x.1 ≠ e.1 && e.2.cls ≤ x.2.cls then none
        else some e

/-- R93 step 2: whether `b` is picked before `a`: a higher class, then the last issue further back. Ties go to the
lower slot, which comes first. -/
def pickedBefore (a b : Group) : Bool :=
  if a.cls = b.cls then
    match a.lastIssue, b.lastIssue with
    | none, _ => false
    | some _, none => true
    | some x, some y => y < x
  else a.cls < b.cls

/-- R93 step 2: the group that a sequencer picks. -/
def freshGroup (ready : List (Nat × Group)) : Option (Nat × Group) :=
  ready.foldl (fun acc e => match acc with
    | none => some e
    | some a => if pickedBefore a.2 e.2 then some e else acc) none

/-- R93: the group that a sequencer issues from. -/
def pickGroup (s : State) (core seq : Nat) : Option (Nat × Group) :=
  let ready := readyGroups s core seq
  match currentGroup s core seq ready with
  | some e => some e
  | none => freshGroup ready

/-- R93: the turn of a sequencer's current group goes on. -/
def goesOn (s : State) (core seq : Nat) : Bool := (currentGroup s core seq (readyGroups s core seq)).isSome

/-- R93: the picked group has the turn; an instruction counts as an issue, a word of gate code outside a run does not. -/
def takeTurn (s : State) (k : Nat) (g : Group) (counts : Bool) : State × Group :=
  let q := seqOf s (k / 8)
  let n := if q.slot = some (k % 8) then q.streak else 0
  ({ s with seqs := smSet Seq.zero s.seqs (k / 8)
              { slot := some (k % 8), streak := if counts then n + 1 else n, last := some s.cycle }, cur := some k
            prevIssue := g.lastIssue },
   { g with wait := .none, lastIssue := if counts then some s.cycle.toNat else g.lastIssue })

/-- The words of code from an address, until a page that is not mapped. -/
def fetchWords (s : State) (p va n : Nat) : List Word :=
  match n with
  | 0 => []
  | n + 1 =>
    match readVa s p va 4 with
    | some w => BitVec.ofNat 32 w :: fetchWords s p (va + 4) n
    | none => []

/-- What an issue comes to: no group is ready, a state is reached, an instruction is to be executed, or the gate's code
breaks R105. -/
inductive Plan where
  | idle
  | done (s : State)
  | run (i : Instr) (s : State)
  | broken

/-- R57: an instruction that cannot be read: every selected lane traps. -/
def trapWords (s : State) (k : Nat) (g : Group) (r : Run) (ws : List Word) (e : DecodeError) : State :=
  let cause := match e with
    | .illegalInstruction => causeIllegalInstruction
    | .illegalOperand => causeIllegalOperand
  trapRead s k g r ws cause

/-- R57: the cause of an instruction whose `STR` word is faulty: the first of R57's order that its words give. -/
def faultyStrCause (d : Decoded) : BitVec 8 :=
  match d.result with
  | .ok (.ill _ _) => causeIll
  | .ok (.illFf _ _) => causeIll
  | .ok (.unassignedOpcode _ _) => causeIllegalInstruction
  | .error .illegalInstruction => causeIllegalInstruction
  | _ => causeIllegalOperand

/-- R3, R51, R57: an `STR` word outside a run that is no `STR` of the loader. With `BLK` 63 its run selects no lane and
raises nothing. With a reserved bit set the instruction that it starts is faulty in every lane that the run selects. -/
def faultyStr (s : State) (k : Nat) (g : Group) (r : Run) (w : Word) : State :=
  let n := (w.extractLsb' 12 6).toNat + 1
  let g1 := openStrand g r (w.extractLsb' 18 6) n
  match runOf g1 with
  | none => putGroup s k g1
  | some r1 => match r1.strand with
    | none => putGroup s k g1
    | some st =>
      let ws := fetchWords s g.part (r1.base + 4 * r1.pos) (min st.left 5)
      if st.left = n && !ws.isEmpty then
        let (g2, r2) := joinReplay g1 r1
        let d := decodeInside ws
        trapRead s k g2 r2 d.words (faultyStrCause d)
      else putGroup s k g1

/-- R133, R168: the issue cycles of an instruction. -/
def issueCycles (i : Instr) : Nat :=
  let op := (partsOf i).op.toNat
  if (0x10 ≤ op && op ≤ 0x3F && is64 (typeOf i)) || ((match i with | .fcvt _ _ _ => true | _ => false) && (is64 (typeOf i) || is64 (sourceTypeOf i)))
  then 2 else 1

/-- R25: the issue of an instruction in `s`, which has led to `t`, counts for the launch of its group, unless the group waits and has
still to issue it. -/
def countIssue (i : Instr) (s t : State) : State :=
  match s.cur.bind fun k => (smFind s.groups k).map fun g => (k, g) with
  | none => t
  | some (k, g) =>
    let issued := g.lastIssue == some s.cycle.toNat && (match smFind t.groups k with
      | some h => h.uid != g.uid || h.lastIssue == g.lastIssue
      | none => true)
    if issued then countSlots t (coreOfKey k) g.launch (issueCycles i) else t

/-- R93: a group that was about to issue waits: a dependence stall. -/
def stallGroup (s : State) (k : Nat) (g : Group) (w : Wait) : State :=
  endTurn (putGroup s k { g with wait := w, lastIssue := s.prevIssue }) k

/-- R105, R109: the next word of a gate outside a run is `STR` or `GEND`. An instruction of another opcode stands in no
strand, so no lane is selected and it raises nothing (R57, notes/assumptions/46). -/
def planOutside (s : State) (k : Nat) (g : Group) (r : Run) : Plan :=
  match fetchWords s g.part (r.base + 4 * r.pos) (min (r.len - r.pos) 5) with
  | [] => .broken
  | w :: rest =>
    let (s1, g1) := takeTurn s k g false
    match (decode [w]).result with
    | .ok (.str b l) => .run (.str b l) (putGroup s1 k g1)
    | .ok .gend => .run .gend (putGroup s1 k g1)
    | _ =>
      if w.extractLsb' 24 8 == 0xFB then .done (faultyStr s1 k g1 r w)
      else
        let (pre, tail) := splitPrefixes (w :: rest)
        let skipped := fun (n : Nat) => putGroup s1 k { g1 with ctl := .run { r with pos := r.pos + n } }
        match tail with
        | [] => .done (skipped pre.length)
        | x :: _ =>
          if x.extractLsb' 24 8 == 0xFB then .done (skipped pre.length)
          else if x.extractLsb' 24 8 == 0x06 then .done (faultyGend s1 k g1 r (pre ++ [x]))
          else .done (skipped (pre.length + 1))

/-- R262: the registers that an atomic reads from D on, in units of its type: the compared value and the new one, or the addend and
the bound. -/
def atomSources (m : Mods) : Nat := if [7, 10].contains (bitsOf (m.ext.getD Ext.zero).md.toNat 0 4) then 2 else 1

/-- R45, R46: the window slots that an operand field names, `n` registers of it. -/
def fieldSlots (cls : FieldClass) (n code : Nat) : List (Nat × Nat) :=
  match cls with
  | .laneSrc => if code < 0x80 then [(code, n)] else []
  | .laneReg => if code < 0x80 then [(code, n)] else []
  | .laneOrSlot => if code < 0x80 then [(code, n)] else []
  | .rtrap => if code < 0x80 then [(code, n)] else []
  | _ => []

/-- R42, R46: the window slots of a D field that names a lane register, `n` registers of it. -/
def destSlots (cls : DestClass) (n code : Nat) : List (Nat × Nat) :=
  match cls with
  | .lane => if code < 0x80 then [(code, n)] else []
  | .laneWb => [(code, n)]
  | .lane7 => [(code, n)]
  | _ => []

/-- R231, R234, R278, R290: a D register is a source alone. -/
def readsD (i : Instr) : Bool :=
  match i with
  | .st _ _ _ _ | .stt _ _ _ _ | .sts _ _ _ _ | .stc _ _ _ _ | .wlpush _ _ _ _ | .wlins _ _ _ _ | .scat _ _ _ _ | .scatadd _ _ _ _ => true
  | _ => false

/-- R46: the registers of an operand. -/
def pairSize (i : Instr) (p : Pairing) : Nat := if pairs i p then 2 else 1

/-- R149: the register that `RGET` or `RPUT` names: its absolute number, in the context of a lane. -/
def indirectSlot (c : Ctx) : List (Nat × Nat) := [(readUniN32 c c.a, if is64 c.ty then 2 else 1)]

/-- R227: the coordinates that `LDT` or `STT` reads. -/
def coordCount (c : Ctx) : Nat :=
  match namedEntry c.s c.g.part (resourceIndex c c.b) [2, 3] (some c.ty) with
  | .ok (_, e) => e.ndim + 1
  | .error _ => 1

/-- R42, R45, R149, R227, R262: the registers, by their absolute numbers, that an instruction reads in a lane from a field. -/
def laneReads (c : Ctx) : List (Nat × Nat) :=
  let sh := shapeOf c.i
  let win := fun x : Nat × Nat => ((getLane c.g c.l).win.toNat + x.1, x.2)
  let n := pairSize c.i sh.aPair
  match c.i with
  | .rget _ _ _ => indirectSlot c
  | .ldt _ _ _ _ => (fieldSlots sh.a (coordCount c) c.a).map win
  | .stt _ _ _ _ => (fieldSlots sh.a (coordCount c) c.a ++ destSlots sh.d (pairSize c.i sh.dPair) c.d).map win
  | .atom _ _ _ m => (fieldSlots sh.a n c.a ++ destSlots sh.d (atomSources m * pairSize c.i sh.dPair) c.d).map win
  | _ => (fieldSlots sh.a n c.a ++ fieldSlots sh.b (pairSize c.i sh.bPair) c.b
      ++ if readsD c.i then destSlots sh.d (pairSize c.i sh.dPair) c.d else []).map win

/-- R42, R149: the registers, by their absolute numbers, that an instruction writes in a lane. -/
def laneWrites (c : Ctx) : List (Nat × Nat) :=
  match c.i with
  | .rput _ _ _ => indirectSlot c
  | i => if readsD i then [] else
      (destSlots (shapeOf i).d (pairSize i (shapeOf i).dPair) c.d).map fun x => ((getLane c.g c.l).win.toNat + x.1, x.2)

/-- R196: a matrix instruction. Those hold their own registers against the queue. -/
def isMatrix (i : Instr) : Bool := 0xC6 ≤ (partsOf i).op.toNat && (partsOf i).op.toNat ≤ 0xCF

/-- R54: the lanes of a strand that an instruction acts in: none when its uniform guard fails. -/
def activeMask (g : Group) (i : Instr) : Word :=
  if (shapeOf i).uniGuard then (if uniGuard g (extOf i) then selectedMask g else 0) else guardMask g (extOf i) (selectedMask g)

/-- R197: an instruction reads or writes, in a lane that it acts in, a lane register that a queued `ACCRD` of its group writes, or writes
one that a queued instruction reads as a fragment. -/
def meetsQueue (s : State) (k : Nat) (g : Group) (r : Run) (i : Instr) : Bool :=
  let e := activeMask g i
  (lanesOf e).any fun l =>
    let c := mkCtx s k g r i (selectedMask g) e l
    (laneReads c ++ laneWrites c).any (fun x => moveWrites s k l x.1 x.2) || (laneWrites c).any fun x => fragmentReads s k l x.1 x.2

/-- R98, R244, R246, R249, R251: the instructions that make an access of their group, or are a release: their group's queued accesses
come before. -/
def followsAccesses (i : Instr) : Bool :=
  match i with
  | .uld _ _ _ _ | .ust _ _ _ _ | .ld _ _ _ _ | .st _ _ _ _ | .ldt _ _ _ _ | .stt _ _ _ _ | .lds _ _ _ _ | .sts _ _ _ _
  | .ldc _ _ _ _ | .stc _ _ _ _ | .atom _ _ _ _ | .uatom _ _ _ _ | .wlpush _ _ _ _ | .wlpop _ _ _ _ | .wlins _ _ _ _
  | .wlbind _ _ _ _ | .wlcnt _ _ _ | .gath _ _ _ _ | .scat _ _ _ _ | .scatadd _ _ _ _ | .fence _ | .bara _ _ _ | .baraw _ _ _
  | .launch _ _ _ _ | .gload _ _ _ _ | .lattach _ _ _ _ | .lfree _ _ | .ctxld _ _ _ => true
  | _ => false

/-- R197, R249: an instruction waits at issue for instructions that its group has queued: one that meets their registers, and one that
makes an access or is a release while an access is queued (notes/assumptions/24). -/
def awaitsQueue (s : State) (k : Nat) (g : Group) (r : Run) (i : Instr) : Bool :=
  engineBusy s k && legal i && activeMask g i != 0 && !isMatrix i
    && ((followsAccesses i && accessQueued s k s.nextItem) || meetsQueue s k g r i)

/-- R223, R324: the entries that an instruction looks at at issue, and those whose freeze counts it reads. -/
def entryNames (c : Ctx) : List Nat × List Nat :=
  let a := resourceIndex c c.a
  let b := resourceIndex c c.b
  match c.i with
  | .ld _ _ _ _ | .ldt _ _ _ _ | .uld _ _ _ _ | .gath _ _ _ _ | .cpy _ _ _ _ | .pref _ _ _ _ | .wlpush _ _ _ _ | .wlpop _ _ _ _
  | .wlins _ _ _ _ | .wlbind _ _ _ _ | .gload _ _ _ _ | .gjob _ _ _ _ | .lfree _ _ | .ctxsv _ _ _ _ | .ctxld _ _ _ => ([b], [])
  | .st _ _ _ _ | .stt _ _ _ _ | .ust _ _ _ _ | .atom _ _ _ _ | .uatom _ _ _ _ | .scat _ _ _ _ | .scatadd _ _ _ _
  | .cpys _ _ _ _ => ([b], [b])
  | .lgath _ _ _ _ => ([a, b], [])
  | .lscat _ _ _ _ => ([a, b], [b])
  | .wlcnt _ _ _ | .launch _ _ _ _ => ([a], [])
  | .accld _ _ _ f _ => (if f = 0 then [a] else [], [])
  | .accst _ _ _ f _ => if f = 0 then ([a], [a]) else ([], [])
  | .lattach _ _ _ _ => ([b, a], [])
  | .gfold _ _ _ => let d := (getUreg c.g (c.g.uwin.toNat + c.d)).toNat; ([b, d], [d])
  | _ => ([], [])

/-- R223: the entries of a list that the resource table has. -/
def knownEntries (s : State) (p : Nat) (xs : List Nat) : List Nat :=
  xs.filter fun i => match smFind s.parts p with | some x => decide (i < x.regs.rtcnt.toNat) | none => false

/-- R241, R346: the places of those entries, and of those freeze counts. -/
def entryPlaces (s : State) (k : Nat) (g : Group) (r : Run) (i : Instr) : List Nat × List Nat :=
  let e := activeMask g i
  if legal i && e != 0 then
    let x := entryNames (mkCtx s k g r i (selectedMask g) e (lowestLane e))
    ((knownEntries s g.part x.1).map (entryVa s g.part), (knownEntries s g.part x.2).map (freezeAddr s g.part))
  else ([], [])

/-- R93, R197, R241, R346: an instruction that a group is about to issue in `s0` is issued, in `s` where the group has its turn: its
entries have been read, with the events of lines that are rebuilt. It waits where the engine's queue or something that holds the line
of an entry makes it. -/
def planInstr (s0 s : State) (k : Nat) (g : Group) (r : Run) (i : Instr) : Plan :=
  let places := entryPlaces s0 k g r i
  if awaitsQueue s0 k g r i then .done (stallGroup s k g (.moves (queueLength s0 k)))
  else if (places.1 ++ places.2).any (addressHeld s0 g.part) then .done (stallGroup s k g (.lines (places.1 ++ places.2) 0))
  else .run i (linesRead (putGroup s k g) g.part (coreOfKey k) places.1)

/-- R51, R57: the next instruction of an open run, read from the words that are left in it. More than four prefix words in a
row make one illegal instruction of five words (R40, notes/assumptions/56). -/
def planInside (s : State) (k : Nat) (g : Group) (r : Run) (left : Nat) : Plan :=
  let (s1, g1) := takeTurn s k g true
  let (g2, r2) := joinReplay g1 r
  let ws := fetchWords s g.part (r.base + 4 * r.pos) (min left 5)
  if ws.isEmpty then .broken
  else
    let d := decodeInside ws
    match d.result with
    | .ok i => planInstr s s1 k g2 r2 i
    | .error e => .done (trapWords (countSlots s1 (coreOfKey k) g2.launch 1) k g2 r2 d.words e)

/-- R93, R109: what the picked group does. -/
def planGroup (s : State) (k : Nat) (g : Group) : Plan :=
  match g.ctl with
  | .between =>
    let (s1, g1) := takeTurn s k g false
    .done (boundary s1 k g1)
  | .run r =>
    match r.strand with
    | none => planOutside s k g r
    | some st => planInside s k g r st.left

/-- R93: the cycle of an issue `wait` cycles after the last turn; a sequencer issues at most once in a cycle. -/
def issueCycle (s : State) (core seq wait : Nat) : DWord :=
  if wait = 0 && (seqOf s (core * 4 + seq)).last == some s.cycle then s.cycle + 1 else s.cycle + BitVec.ofNat 64 wait

/-- An issue on a sequencer, `wait` cycles after the last turn (notes/assumptions/4). A group that is picked afresh begins
a turn, with no issue counted (R93). -/
def planIssue (s : State) (core seq wait : Nat) (defer : Bool) : Plan :=
  let s1 := { s with cycle := issueCycle s core seq wait, defer := defer }
  match pickGroup s1 core seq with
  | none => .idle
  | some (k, g) => planGroup (if goesOn s1 core seq then s1 else endTurn s1 k) k g

/-- The sequencer that issues when the agenda is empty: the lowest that has a ready group (notes/assumptions/3). -/
def defaultSequencer (s : State) : Option Nat :=
  (s.groups.find? fun e => groupReady s e.1 e.2).map fun e => e.1 / 8

end Sys2Proof.Machine
end

