-- ==== Sys2Proof/Machine/Barriers.lean ====
section
/-!
DEFINITION. Barriers, opcodes 0xBD-0xBF (spec/13 R268 to R273, spec/02 R37).
-/
namespace Sys2Proof.Machine

/-- R272, R90: the crews of a group's cluster set. -/
def setSizeOf (s : State) (g : Group) : Nat :=
  match smFind s.launches g.launch with
  | none => 1
  | some x =>
    if x.chair.isSome then 1
    else
      let per := (x.lrec.extractLsb' 102 2).toNat + 1
      let all := (x.lrec.extractLsb' 128 32).toNat
      match smFind s.crews g.crew with
      | some c => min per (all - c.set * per)
      | none => 1

/-- R37: the greatest expected count. -/
def barrierLimit (s : State) (g : Group) (cluster : Bool) : Nat :=
  if cluster then setSizeOf s g else match smFind s.crews g.crew with | some c => c.size | none => 0

/-- R269: whether a barrier instruction names a cluster barrier. -/
def barrierIsCluster (i : Instr) : Bool := (extOf i).scope == 2

/-- R268: the name of a group's barriers: its cluster set, or its crew. -/
def barrierKey (s : State) (g : Group) (cluster : Bool) : Nat :=
  if cluster then setKey g.launch (match smFind s.crews g.crew with | some c => c.set | none => 0) else g.crew

/-- R268: write a barrier. -/
def putBarrier (s : State) (cluster : Bool) (key n : Nat) (b : Barrier) : State :=
  if cluster then { s with cbars := smSet Barrier.zero s.cbars (key * 8 + n) b }
  else match smFind s.crews key with
    | some c => putCrew s key { c with bars := smSet Barrier.zero c.bars n b }
    | none => s

/-- R270: an arrival at a barrier that expects `n`. -/
def arriveAt (b : Barrier) (n : Nat) : Barrier :=
  if b.arr.toNat + 1 = n then { round := b.round + 1, exp := 0, arr := 0 }
  else { b with exp := BitVec.ofNat 6 n, arr := b.arr + 1 }

/-- R270: a barrier instruction. -/
def barrierStep (arrives waits : Bool) (c : Ctx) : GroupOut :=
  let cl := barrierIsCluster c.i
  let key := barrierKey c.s c.g cl
  let id := c.d % 16
  let n := readUniN32 c c.a
  let b := barrierOf c.s cl key id
  if n = 0 || n > barrierLimit c.s c.g cl then .trap causeIllegalOperand {}
  else if b.exp ≠ 0 && n ≠ b.exp.toNat then .trap causeIllegalOperand {}
  else
    let b' := if arrives then arriveAt b n else b
    let s' := if arrives then putBarrier c.s cl key id b' else c.s
    .done s' (if waits && b'.round = b.round then { c.g with wait := .bar cl key id b.round } else c.g)

/-- R270: arrive. -/
def execBara (n : BitVec 4) (a : BitVec 8) (m : Mods) (s : State) : Out :=
  execGroup (.bara n a m) true false (barrierStep true false) s

/-- R270: wait. -/
def execBarw (n : BitVec 4) (a : BitVec 8) (m : Mods) (s : State) : Out :=
  execGroup (.barw n a m) true false (barrierStep false true) s

/-- R270: arrive and wait. -/
def execBaraw (n : BitVec 4) (a : BitVec 8) (m : Mods) (s : State) : Out :=
  execGroup (.baraw n a m) true false (barrierStep true true) s

end Sys2Proof.Machine
end

