-- ==== Sys2Proof/Machine/Bits.lean ====
section
/-!
DEFINITION. Bit matrices, bit fields and permutations, opcodes 0x60-0x65 (spec/09 R183 to R189).
-/
namespace Sys2Proof.Machine

/-- R184: one row of a product: the rows of b that the bits of `row` name, combined. -/
def bitRow (comb : Nat → Nat → Nat) (row b : Nat) : Nat :=
  (List.range 8).foldl (fun acc k => if row.testBit k then comb acc (bitsOf b (8 * k) 8) else acc) 0

/-- R184: the product of two 8 × 8 bit matrices. -/
def bitProduct (comb : Nat → Nat → Nat) (a b : Nat) : Nat :=
  (List.range 8).foldl (fun acc i => acc + 2 ^ (8 * i) * bitRow comb (bitsOf a (8 * i) 8) b) 0

/-- R184: both operands are pairs, the result a pair. -/
def laneBitMatrix (comb : Nat → Nat → Nat) (c : Ctx) : Except (BitVec 8) Lane := do
  let a ← readTy c c.a 8
  let b ← readTy c c.b 8
  writeLane c c.ln c.d 8 (bitProduct comb a b)

/-- R185: the set bits of a mask, ascending. -/
def maskBits (m : Nat) : List Nat := (List.range 32).filter fun j => m.testBit j

/-- R185: bit k of `a` to the k-th set bit of the mask. -/
def bitSpread (a m : Nat) : Nat :=
  ((maskBits m).zipIdx).foldl (fun acc x => if a.testBit x.2 then acc + 2 ^ x.1 else acc) 0

/-- R185: the bit of `a` at the k-th set bit of the mask to bit k. -/
def bitGather (a m : Nat) : Nat :=
  ((maskBits m).zipIdx).foldl (fun acc x => if a.testBit x.1 then acc + 2 ^ x.2 else acc) 0

/-- R185. -/
def laneBitField (op : Nat → Nat → Nat) (c : Ctx) : Except (BitVec 8) Lane := do
  let a ← readN32 c c.a
  let b ← readN32 c c.b
  writeLane c c.ln c.d 6 (op a b)

/-- R186: a group's permutation table. -/
def tableOf (g : Group) (t : Nat) : BitVec 384 := smGet identityTable g.pms t

/-- R188: bit i of the result is the bit of `a` that entry i of the table names. -/
def bitPermute (pm : BitVec 384) (a : Nat) : Nat :=
  (List.range 64).foldl (fun acc i => if a.testBit (pm.extractLsb' (6 * i) 6).toNat then acc + 2 ^ i else acc) 0

/-- R187: the table that twelve consecutive uniform slots hold. -/
def tableFromSlots (g : Group) (slot : Nat) : BitVec 384 :=
  BitVec.ofNat 384 ((List.range 12).foldl (fun acc k => acc + 2 ^ (32 * k) * slotValue g (slot + k) 32) 0)

/-- R184: the product over GF(2). -/
def execBmm8 (d : BitVec 8) (a : BitVec 8) (b : BitVec 8) (m : Mods) (s : State) : Out :=
  execLane (.bmm8 d a b m) (laneBitMatrix (· ^^^ ·)) s

/-- R184: the product over the Boolean semiring. -/
def execBmmor (d : BitVec 8) (a : BitVec 8) (b : BitVec 8) (m : Mods) (s : State) : Out :=
  execLane (.bmmor d a b m) (laneBitMatrix (· ||| ·)) s

/-- R185: deposit bits. -/
def execBsprd (d : BitVec 8) (a : BitVec 8) (b : BitVec 8) (m : Mods) (s : State) : Out :=
  execLane (.bsprd d a b m) (laneBitField bitSpread) s

/-- R185: extract bits. -/
def execBgath (d : BitVec 8) (a : BitVec 8) (b : BitVec 8) (m : Mods) (s : State) : Out :=
  execLane (.bgath d a b m) (laneBitField bitGather) s

/-- R188: permute the bits of a pair through the table that B names. -/
def execBperm (d : BitVec 8) (a : BitVec 8) (t : BitVec 2) (m : Mods) (s : State) : Out :=
  execLane (.bperm d a t m) (fun c => do
    let x ← readTy c c.a 8
    writeLane c c.ln c.d 8 (bitPermute (tableOf c.g c.b) x)) s

/-- R187: load a permutation table from twelve uniform slots. -/
def execBpld (t : BitVec 2) (a : BitVec 8) (m : Mods) (s : State) : Out :=
  execUni (.bpld t a m) (fun c =>
    .ok { c.g with pms := smSet identityTable c.g.pms c.d (tableFromSlots c.g (c.a - 0xD0)) }) s

end Sys2Proof.Machine
end

