-- ==== Sys2Proof/Machine/Control.lean ====
section
/-!
DEFINITION. The control instructions, opcodes 0x00-0x0C, 0xFB and 0xFF (spec/06 R121 to R132, R101 to R109; spec/03
R51, R57 to R59).
-/
namespace Sys2Proof.Machine

/-- R102, R122 to R125: the block count of the running kernel. -/
def blockCount (s : State) (g : Group) (r : Run) : Nat :=
  match findKernel s g.part r.kern with
  | some kn => kn.canon.length
  | none => 0

/-- R122 to R126: a terminator: every selected lane gets its next block, or traps with its cause. Its targets must be
blocks of the kernel, or it is an illegal operand in every selected lane. In a replay it ends the replay (R119). -/
def execTerm (i : Instr) (targets : List (BitVec 6)) (body : Nat → Ctx → Except (BitVec 8) Lane) (s : State) : Out :=
  match issuing s with
  | none => .fault .noIssuingGroup
  | some (k, g, r) =>
    let n := blockCount s g r
    if legal i && targets.all fun t => t.toNat < n then
      let sel := selectedMask g
      let g' := mapLanes g fun l ln =>
        if sel.getLsbD l then
          match body n (mkCtx s k g r i sel sel l) with
          | .ok x => x
          | .error c => parkLane ln (mkRec g r (encode i) l c 0 {})
        else ln
      let g2 := advance g' r i
      .next (settle s k (if r.replay.isSome then endReplay g2 else g2))
    else .next (trapSelected s k g r i causeIllegalOperand {})

/-- The next block of a lane; a stale value enters `b0` (R121). -/
def goTo (ln : Lane) (b : BitVec 6) : Lane := shiftLatches { ln with nb := some b } none

/-- R57, R59: an instruction that every selected lane traps on. -/
def execIllegal (i : Instr) (cause : BitVec 8) (s : State) : Out :=
  match issuing s with
  | none => .fault .noIssuingGroup
  | some (k, g, r) => .next (trapRead s k g r (encode i) cause)

/-- R132: the executing lanes park with a code. -/
def execStop (i : Instr) (cause : BitVec 8) (code : BitVec 16) (s : State) : Out :=
  match issuing s with
  | none => .fault .noIssuingGroup
  | some (k, g, r) =>
    if legal i then
      let e := guardMask g (guardOf i) (selectedMask g)
      .next (settle s k (advance (parkMask g r (encode i) e cause code {}) r i))
    else .next (trapSelected s k g r i causeIllegalOperand {})

/-- R130: whether a base is one of a lane's windows. -/
def windowOk (g : Group) (base : Nat) : Bool := base % 32 == 0 && base < g.nreg

/-- R131: whether a base is one of the group's uniform windows. -/
def uniWindowOk (base : Nat) : Bool := base % 48 == 0 && base ≤ 336

/-- R130: move the window of a lane. -/
def laneWindow (ln : Lane) (base : Nat) : Lane := shiftLatches { ln with win := BitVec.ofNat 8 base } none

/-- The group and walk that a word of gate code outside a run acts on. -/
def walking (s : State) : Option (Nat × Group × Run) :=
  match s.cur with
  | none => none
  | some k => match smFind s.groups k with
    | none => none
    | some g => (runOf g).map fun r => (k, g, r)

/-- R122: every selected lane goes to one block. -/
def execBr (t : BitVec 6) (s : State) : Out :=
  execTerm (.br t) [t] (fun _ c => .ok (goTo c.ln t)) s

/-- R123: the selected lanes split by a predicate. -/
def execBrc (p : BitVec 4) (a : BitVec 6) (b : BitVec 6) (s : State) : Out :=
  execTerm (.brc p a b) [a, b] (fun _ c => .ok (goTo c.ln (if lanePred c.ln p.toNat then a else b))) s

/-- R124: each selected lane goes to the block that its operand holds; 63 leaves. -/
def execBrx (a : BitVec 8) (s : State) : Out :=
  execTerm (.brx a) [] (fun n c => do
    let t ← readN32 c c.a
    if t = 63 || t < n then .ok (goTo c.ln (BitVec.ofNat 6 t)) else .error causeIllegalOperand) s

/-- R125: branch and record the return block. -/
def execBrl (d : BitVec 8) (a : BitVec 6) (b : BitVec 6) (s : State) : Out :=
  execTerm (.brl d a b) [a, b] (fun _ c => do
    let x ← writeLane c c.ln c.d 6 b.toNat
    .ok { x with nb := some a }) s

/-- R126: every selected lane leaves. -/
def execExit (s : State) : Out :=
  execTerm .exit [] (fun _ c => .ok (goTo c.ln 63)) s

/-- R127, R109: the end of a gate. Inside a run, or other than as the last word, it is an illegal instruction. A lane that
has not executed its terminator contains the group. -/
def execGend (s : State) : Out :=
  match walking s with
  | none => .fault .noIssuingGroup
  | some (k, g, r) =>
    if r.strand.isSome then .next (trapSelected s k g r .gend causeIllegalInstruction {})
    else if r.pos + 1 ≠ r.len then .next (faultyGend s k g r (encode .gend))
    else
      let left := unfinishedLanes g r
      if left ≠ 0 then .next (containGroup s k g 0x14 left)
      else .next (endGate s k g)

/-- R128: the turn of the group ends when a lane executes it. -/
def execYield (m : Mods) (s : State) : Out :=
  let i := (.yield m)
  match issuing s with
  | none => .fault .noIssuingGroup
  | some (k, g, _) =>
    let ends := legal i && guardMask g (guardOf i) (selectedMask g) ≠ 0
    execLane i (fun c => .ok (shiftLatches c.ln none)) (if ends then endTurn s k else s)

/-- R129: nothing but a stale value in `b0` of the lanes that execute it. -/
def execNop (m : Mods) (s : State) : Out :=
  execLane (.nop m) (fun c => .ok (shiftLatches c.ln none)) s

/-- R130: move the lane window to a base; a bad base is a fault of the encoding. -/
def execWin (i : BitVec 16) (m : Mods) (s : State) : Out :=
  let ins := (.win i m)
  match issuing s with
  | none => .fault .noIssuingGroup
  | some (k, g, r) =>
    if windowOk g i.toNat then execLane ins (fun c => .ok (laneWindow c.ln i.toNat)) s
    else .next (trapSelected s k g r ins causeIllegalOperand {})

/-- R130: move the lane window to the base that each lane holds. -/
def execWinOperand (a : BitVec 8) (m : Mods) (s : State) : Out :=
  execLane (.winOperand a m) (fun c => do
    let base ← readN32 c c.b
    if windowOk c.g base then .ok (laneWindow c.ln base) else .error causeIllegalOperand) s

/-- R131: move the uniform window to a base. -/
def execUwin (i : BitVec 16) (m : Mods) (s : State) : Out :=
  execUni (.uwin i m) (fun c => .ok { c.g with uwin := BitVec.ofNat 9 i.toNat }) s

/-- R131: move the uniform window to the base that the operand holds. -/
def execUwinOperand (a : BitVec 8) (m : Mods) (s : State) : Out :=
  execUni (.uwinOperand a m) (fun c =>
    let base := readUniN32 c c.b
    if uniWindowOk base then .ok { c.g with uwin := BitVec.ofNat 9 base } else .error causeIllegalOperand) s

/-- R132: breakpoint. -/
def execBrk (c : BitVec 16) (m : Mods) (s : State) : Out :=
  execStop (.brk c m) causeBreakpoint c s

/-- R132: program trap. -/
def execTrap (c : BitVec 16) (m : Mods) (s : State) : Out :=
  execStop (.trap c m) causeProgramTrap c s

/-- R59: `ILL`. -/
def execIll (pre : List Word) (i : BitVec 24) (s : State) : Out :=
  execIllegal (.ill pre i) causeIll s

/-- R59: `ILL`. -/
def execIllFf (pre : List Word) (i : BitVec 24) (s : State) : Out :=
  execIllegal (.illFf pre i) causeIll s

/-- R58, R59: an unassigned opcode is an illegal instruction. -/
def execUnassignedOpcode (pre : List Word) (w : Word) (s : State) : Out :=
  execIllegal (.unassignedOpcode pre w) causeIllegalInstruction s

/-- R51, R106: open a strand run; inside an open run it is an illegal instruction. -/
def execStr (b : BitVec 6) (l : BitVec 6) (s : State) : Out :=
  match walking s with
  | none => .fault .noIssuingGroup
  | some (k, g, r) =>
    if r.strand.isSome then .next (trapSelected s k g r (.str b l) causeIllegalInstruction {})
    else .next (putGroup s k (openStrand g r b (l.toNat + 1)))

end Sys2Proof.Machine
end

