-- ==== Sys2Proof/Machine/Copy.lean ====
section
/-!
DEFINITION. Copies and batches (spec/11 R238 to R242, spec/02 R36), opcodes 0xA8-0xAB, with the steps that move a copy
and complete a batch (spec/95: COPY_TRANSFER, BATCH_COMPLETE).
-/
namespace Sys2Proof.Machine

/-! ### Writes -/

/-- R226, R232, R324: the checks of a write to an element, in their order. -/
def writeChecks (s : State) (p res : Nat) (e : Entry) : Except (BitVec 8) Unit :=
  if e.ro || e.gre then .error causeWrite
  else if freezeCount s p res ≠ 0 then .error causeFrozen
  else .ok ()

/-! ### The units of a copy -/

/-- R240, R69: read bytes of a block as stored, one by one. -/
def blockBytesAt (s : State) (p va n : Nat) : Except MemFault (List Byte) :=
  match n with
  | 0 => .ok []
  | n + 1 => do
    let b ← faultAt va (readBytes s p va 1)
    let rest ← blockBytesAt s p (va + 1) n
    .ok (BitVec.ofNat 8 b :: rest)

/-- The bytes of a linear resource from an offset, through its read stream when it has one (R309). -/
def entryBytes (s : State) (p : Nat) (e : Entry) (off n : Nat) : Except MemFault (List Byte) :=
  if e.gre then streamBytes s p e off n else blockBytesAt s p (e.base + off) n

/-- R240: write bytes of a block as stored. -/
def putBlockBytes (s : State) (p va : Nat) (bs : List Byte) : Except MemFault State :=
  match bs with
  | [] => .ok s
  | b :: rest => do
    let t ← faultAt va (writeBytes s p va 1 b.toNat)
    putBlockBytes t p (va + 1) rest

/-- Put bytes into scratch. -/
def scratchPutBytes (s : State) (cluster : Bool) (place off : Nat) (bs : List Byte) : State :=
  match bs with
  | [] => s
  | b :: rest => scratchPutBytes (scratchWrite s cluster place off 1 b.toNat) cluster place (off + 1) rest

/-- Put an element of a scalar format into scratch. -/
def scratchPutElem (s : State) (cluster : Bool) (place : Nat) (at_ : Nat × Nat) (t : BitVec 5) (pat : Nat) : State :=
  scratchStore s cluster place at_.1 at_.2 t pat

/-- R240, R241: move one unit from memory, as it stands in `s0` at the copy's point, into scratch. -/
def copyIn (s0 s : State) (p : Nat) (c : CopyDesc) (e : Entry) (n : Nat) (xs : List Nat) : Except MemFault State :=
  let at_ := copyPlace c e n
  if tyIsBlock e.fmt then do
    let bs ← blockBytesAt s0 p (elemAddr e xs) (blockBytes e.fmt)
    .ok (scratchPutBytes s (!c.core) c.place at_.1 bs)
  else do
    let v ← readElement s0 p e xs
    .ok (scratchPutElem s (!c.core) c.place at_ e.fmt v)

/-- R240: what a `CPY` puts into scratch for a unit out of bounds under `BND` 2. -/
def copyZero (s : State) (c : CopyDesc) (e : Entry) (n : Nat) : State :=
  let at_ := copyPlace c e n
  if tyIsBlock e.fmt then scratchPutBytes s (!c.core) c.place at_.1 (List.replicate (blockBytes e.fmt) 0)
  else scratchPutElem s (!c.core) c.place at_ e.fmt 0

/-- R240: the element of unit `n` in scratch, unconverted. -/
def copySource (s : State) (c : CopyDesc) (e : Entry) (n : Nat) : Nat :=
  let at_ := copyPlace c e n
  scratchElement s (!c.core) c.place at_.1 at_.2 e.fmt

/-- R240, R241: move one unit from scratch into memory; `all` are the elements that the copy stores. -/
def copyOut (s0 s : State) (p : Nat) (c : CopyDesc) (e : Entry) (all : List (Nat × Nat)) (n : Nat) (xs : List Nat) :
    Except MemFault State :=
  if tyIsBlock e.fmt then
    putBlockBytes s p (elemAddr e xs)
      ((List.range (blockBytes e.fmt)).map fun i =>
        BitVec.ofNat 8 (scratchRead s (!c.core) c.place ((copyPlace c e n).1 + i) 1))
  else do
    let v ← placedPattern s0 p e all xs (copySource s c e n)
    writeElement s p { e with gwe := false } xs v

/-- R236, R240, R241: move unit `n` of a copy, or count its elements as dropped. -/
def copyUnit (s0 s : State) (p : Nat) (c : CopyDesc) (e : Entry) (all : List (Nat × Nat)) (n : Nat) :
    Except MemFault (State × CopyDesc) :=
  let (xs, flat, inside) := copyCoords c e n
  if inside then
    if c.store then
      match writeChecks s p c.res.toNat e with
      | .error x => .error (x, 0)
      | .ok _ => (copyOut s0 s p c e all n xs).map fun t => (t, c)
    else (copyIn s0 s p c e n xs).map fun t => (t, c)
  else if e.bnd = 0 then .error (causeBounds, 0)
  else if e.bnd = 1 then
    .ok (s, { c with drops := c.drops + (if tyIsBlock e.fmt then 32 else 1), dropElem := if c.drops = 0 then flat else c.dropElem })
  else .ok (if c.store then s else copyZero s c e n, c)

/-- R241: move the units of a copy from `next` on, `fuel` of them, until one faults. -/
def copyUnits (s0 s : State) (p : Nat) (c : CopyDesc) (e : Entry) (all : List (Nat × Nat)) (fuel : Nat) :
    State × CopyDesc × Option MemFault :=
  match fuel with
  | 0 => (s, c, none)
  | fuel + 1 =>
    match copyUnit s0 s p c e all c.next with
    | .error f => (s, c, some f)
    | .ok (t, c') => copyUnits s0 t p { c' with next := c'.next + 1 } e all fuel

/-- The addresses and patterns of the elements that a copy stores from its first unit not moved on (R311). -/
def copyStores (s : State) (c : CopyDesc) (e : Entry) : List (Nat × Nat) :=
  if c.store && e.gwe then
    ((List.range (c.rows * copyPerRow c)).drop c.next).filterMap fun n =>
      let x := copyCoords c e n
      if x.2.2 then some (elemAddr e x.1, copySource s c e n) else none
  else []

/-- The bytes that a copy has written in memory from unit `from_` to `to_` - 1 (R348): a byte of two 4-bit elements once both are
written. -/
def copyRanges (c : CopyDesc) (e : Entry) (from_ to_ : Nat) : List (Nat × Nat) :=
  if !c.store then []
  else
    let coords := ((List.range to_).drop from_).filterMap fun n =>
      let x := copyCoords c e n
      if x.2.2 then some x.1 else none
    if tyBits e.fmt = 4 && !tyIsBlock e.fmt then
      let odd := (coords.filter fun xs => xs.getD 0 0 % 2 = 1).map (elemAddr e)
      (coords.filter fun xs => xs.getD 0 0 % 2 = 0 && odd.contains (elemAddr e xs)).map fun xs => (elemAddr e xs, 1)
    else coords.map fun xs => (elemAddr e xs, unitBytes e)

/-- R236, R241: the record of an item that stops on a fault. -/
def itemRec (x : Item) (cause : BitVec 8) (va elem res ndrop : Nat) : TrapRec :=
  { x.trec with cause := cause, va := BitVec.ofNat 64 va, elem := BitVec.ofNat 32 elem, res := BitVec.ofNat 32 res,
                ndrop := BitVec.ofNat 6 (min ndrop 63), cpyf := true }

/-- R237, R298: the drop report of an item at its completion. -/
def itemDrops (s : State) (x : Item) (res drops elem : Nat) : State :=
  dropReport s x.part x.core x.trec elem res drops x.trec.lane.toNat (BitVec.ofNat 32 (2 ^ x.trec.lane.toNat)) true

/-- R287, R221: an item has read addresses: those in a peer's memory, or on aliased pages, use up free values. -/
def countPeers (s : State) (p : Nat) (addrs : List Nat) : State :=
  match addrs.find? fun a => inPeerWindow s p a || aliasedAt s p a with
  | some a => countPeer s p a
  | none => s

/-- R219, R220, R222, R346: the line requests of the units that a copy has moved, and its walks for a freeze count or a handle's
record. -/
def copyRequests (s : State) (x : Item) (c : CopyDesc) (to_ : Nat) : State :=
  let e := entryOf c.entry
  let addrs := (copyAddrs s x.part c c.next to_).flatMap fun a => [a, a + unitBytes e - 1]
  if addrs.isEmpty then s
  else if c.store then lineRequests (freezeEvent s x.part c.res.toNat x.core) x.part x.core (some x.launch) [] addrs
  else countPeers (lineRequests (handleEvent s x.part x.core e) x.part x.core (some x.launch) addrs []) x.part addrs

/-- R241: the copy engine takes ownership at one point and moves the copy, until it ends or an element faults. -/
def moveCopy (s : State) (id : Nat) (x : Item) (c : CopyDesc) : State :=
  let e := entryOf c.entry
  let total := c.rows * copyPerRow c
  let (s1, c1, f) := copyUnits s s x.part c e (copyStores s c e) (total - c.next)
  let s2a := copyRequests (countGone (healRanges s1 x.part (copyRanges c e c.next c1.next)) c.core c.place) x c c1.next
  let s2 := if c.store && e.gwe then { s2a with freeCtr := s2a.freeCtr + 128 } else s2a
  match f with
  | some (cause, va) =>
    let flat := (copyCoords c1 e c1.next).2.1
    let s3 := faultEvent s2 x.part cause va x.core
    stopItem s3 id { x with kind := .copy c1, istate := .stopped (itemRec x cause va flat c1.res.toNat 0) }
  | none =>
    putItem (itemDrops s2 x c1.res.toNat c1.drops c1.dropElem) id { x with kind := .copy c1, istate := .complete }

/-- The group of a name. -/
def groupOfUid (s : State) (uid : Nat) : Option (Nat × Group) := s.groups.find? fun e => e.2.uid == uid

/-- R203: a copy or list instruction that writes scratch waits for the ownership points of matrix instructions that its
group queued before it. -/
def itemClaimed (s : State) (item : Nat) (x : Item) (cluster off len : Nat) : Bool :=
  match groupOfUid s x.owner with
  | some (k, _) => extentClaimed s k cluster off len item
  | none => false

/-- R254, R316: the engine has still to perform an access that the group of an item issued before it. -/
def itemFollows (s : State) (item : Nat) (x : Item) : Bool :=
  match groupOfUid s x.owner with
  | some (k, _) => accessQueued s k item
  | none => false

/-- R257, R378: the addresses of an item's lines can be moved, and their bytes injected. -/
def itemReady (s : State) (item : Nat) (x : Item) (addrs : List Nat) (bytes : Nat) : Bool :=
  (addrs.all (lineFree s x.part item)) && rateAllows s x.part (dieOfCore x.core) bytes

/-- R240, R378: an item has reached its engine before another: at its issue, or when it was restarted. `a` and `b` are their
places with their numbers. -/
def reachedBefore (a b : Nat × Nat) : Bool := decide (a.1 < b.1) || (a.1 == b.1 && decide (a.2 < b.2))

/-- R240: the copy engine of a cluster has earlier copies to move. -/
def copyQueued (s : State) (item : Nat) (x : Item) (c : CopyDesc) : Bool :=
  s.items.any fun e => inFlight e.2 && clusterOfCore e.2.core == clusterOfCore x.core && (match e.2.kind with
    | .copy d => reachedBefore (d.reached, e.1) (c.reached, item)
    | _ => false)

/-- The units that a copy has still to move. -/
def unitsLeft (c : CopyDesc) : Nat := c.rows * copyPerRow c - c.next

/-- The first and the last byte of each unit that a copy has still to move. -/
def copyEnds (s : State) (p : Nat) (c : CopyDesc) : List Nat :=
  (copyAddrs s p c c.next (c.rows * copyPerRow c)).flatMap fun a => [a, a + unitBytes (entryOf c.entry) - 1]

/-- R203, R240, R241, R254: a copy can reach its ownership point: its engine has moved those before it, the earlier accesses of its
group are performed, no queued matrix instruction of its group has still to own the bytes that it writes, and no copy that has stopped
holds its bytes of scratch. -/
def copyFree (s : State) (item : Nat) (x : Item) (c : CopyDesc) : Bool :=
  !copyQueued s item x c && (c.store || c.core || !itemClaimed s item x c.place c.off c.len)
    && !stoppedHolds s item (!c.core) c.place (!c.store) (copyBytes c) && !itemFollows s item x

/-- R241: a copy reaches its ownership point and moves. -/
def execCopyTransfer (item : Nat) (s : State) : Out :=
  match smFind s.items item with
  | none => .fault .notEnabled
  | some x =>
    match x.kind with
    | .copy c =>
      let bytes := unitsLeft c * unitBytes (entryOf c.entry)
      if inFlight x && copyFree s item x c
          && itemReady s item x (copyEnds s x.part c) bytes then
        .next (moveCopy (takeBytes s x.part (dieOfCore x.core) bytes) item x c)
      else .fault .notEnabled
    | _ => .fault .notEnabled

/-! ### CPY and CPYS -/

/-- R238: the descriptor slots of a copy. -/
structure CopySlots where
  dim : Nat
  core : Bool
  z : Nat
  off : Nat
  rp : Nat
  mp : Nat
  reserved : Bool
  deriving DecidableEq, Repr

/-- R238: read the descriptor slots. -/
def copySlots (g : Group) (code : Nat) : CopySlots :=
  let w0 := slotValue g (code - 0xD0) 32
  let w1 := slotValue g (code - 0xD0 + 1) 32
  { dim := bitsOf w0 28 2, core := bitsOf w0 27 1 == 1, z := bitsOf w0 24 3, off := bitsOf w0 0 21
    rp := bitsOf w1 0 16, mp := slotValue g (code - 0xD0 + 2) 32
    reserved := bitsOf w0 30 2 != 0 || bitsOf w1 16 16 != 0 }

/-- R238: the rows and columns of a tile. -/
def copyShape (z : ShapeReg) (dim : Nat) : Nat × Nat :=
  match dim with
  | 0 => (z.gm, z.gk)
  | 1 => (z.gk, z.gn)
  | _ => (z.gm, z.gn)

/-- R240: the origin: `n` values from lane registers of the lowest lane of E, or from slots; none when one of them
does not exist. -/
def copyOrigin (c : Ctx) (n : Nat) : Option (List Nat) :=
  if c.a < 0x80 then
    if c.a + n ≤ 0x80 && (List.range n).all fun j => regInside c.g c.ln (c.a + j) 32 then
      some ((List.range n).map fun j => regValue c.ln (c.a + j) 32)
    else none
  else if c.a + n ≤ 0x100 then some ((List.range n).map fun j => slotValue c.g (c.a - 0xD0 + j) 32)
  else none

/-- R240, R321: whether a resource is addressed as linear; a handle counts as the kind of its base. -/
def addressedLinear (s : State) (p : Nat) (e : Entry) : Bool :=
  if e.kind = 3 then
    match handleRecord s p e with
    | some l => ((entryAt s p l.base).getD Entry.none).kind == 1
    | none => false
  else e.kind == 1

/-- R240: the checks of a copy whose entry and slots have been read. -/
def copyChecks (c : Ctx) (sl : CopySlots) (e : Entry) (lin : Bool) : Option (List Nat) :=
  let (rows, cols) := copyShape (shapeReg c.g sl.z) sl.dim
  let z := sizeOf e.fmt
  let extent := sl.off + (rows - 1) * sl.rp + rowBytes e.fmt cols
  match copyOrigin c (if lin then 1 else e.ndim + 1) with
  | none => none
  | some o =>
    if sl.off % z = 0 && sl.rp % z = 0 && extent ≤ scratchLimit c.s c.g (!sl.core)
        && (if lin then sl.mp != 0 else sl.mp == 0)
        && (!tyIsBlock e.fmt || (cols % 32 == 0 && o.getD 0 0 % 32 == 0))
    then some o else none

/-- An item of the issuing group. -/
def newItem (c : Ctx) (lane : Nat) (istate : ItemState) (kind : ItemKind) : Item :=
  { owner := c.g.uid, launch := c.g.launch, part := c.g.part, core := coreOfKey c.k, kind := kind, istate := istate,
    trec := mkRec c.g c.r (encode c.i) lane 0 0 { lane := lane } }

/-- R36: an item enters the group's pending items, which the next `BATCH` closes. -/
def addItem (s : State) (g : Group) (x : Item) : State × Group :=
  ({ s with nextItem := s.nextItem + 1, items := smPut s.items s.nextItem x }, { g with pend := g.pend ++ [s.nextItem] })

/-- R240: a copy at issue. The spec gives its checks no order: the model looks at the reserved bits, `DIM` and the shape register
first, then at the resource, then at the rest (notes/assumptions/57). -/
def issueCopy (store : Bool) (c : Ctx) : GroupOut :=
  let sl := copySlots c.g c.d
  let z := shapeReg c.g sl.z
  let res := resourceIndex c c.b
  if sl.reserved || sl.dim = 3 || !z.v then .trap causeIllegalOperand {}
  else match namedEntry c.s c.g.part res (if store then [1, 2] else [1, 2, 3]) none with
    | .error x => .trap x { entryInfo c.s c.g.part res 0 c.l x with cpyf := true }
    | .ok (raw, e) =>
      let lin := addressedLinear c.s c.g.part e
      match copyChecks c sl e lin with
      | none => .trap causeIllegalOperand {}
      | some o =>
        if flightCount c.s c.g isCopy ≥ 256 then .stall .copyRoom c.s c.g
        else
          let (rows, cols) := copyShape z sl.dim
          let desc : CopyDesc :=
            { store := store, lin := lin, entry := raw, res := BitVec.ofNat 32 res, core := sl.core
              place := scratchPlace c.k c.g (!sl.core), off := sl.off
              len := (rows - 1) * sl.rp + rowBytes e.fmt cols, rp := sl.rp, mp := sl.mp, rows := rows, cols := cols,
              origin := o, next := 0, drops := 0, dropElem := 0, reached := c.s.nextItem }
          let r := addItem c.s c.g (newItem c c.l .running (.copy desc))
          .done r.1 r.2

/-- R240: copy a tile from a resource into scratch. -/
def execCpy (d : BitVec 8) (a : BitVec 8) (b : BitVec 8) (m : Mods) (s : State) : Out :=
  execGroup (.cpy d a b m) false true (issueCopy false) s

/-- R240: copy a tile from scratch into a resource. -/
def execCpys (d : BitVec 8) (a : BitVec 8) (b : BitVec 8) (m : Mods) (s : State) : Out :=
  execGroup (.cpys d a b m) false true (issueCopy true) s

/-! ### Batches -/

/-- R241: every item of a batch has finished, complete or stopped. -/
def itemsFinished (s : State) (items : List Nat) : Bool :=
  items.all fun n => match smFind s.items n with
    | some x => !inFlight x
    | none => true

/-- R314: the channel that homes a row of a job: that of the address of element 32r of phase 0's `S0`. -/
def rowChannel (x : Partition) (e : Entry) (row : Nat) : Nat := channelOf x (elemAddr e (coordsOf e (32 * row)))

/-- R314: the rows of a job at each channel of the partition. -/
def jobRows (x : Partition) (j : JobDesc) : SMap (List Nat) :=
  let e := entryOf ((j.phases.map (·.s0)).headD 0)
  (List.range j.count).foldl (fun acc i =>
    let c := rowChannel x e (j.first + i)
    smSet [] acc c (smGet [] acc c ++ [j.first + i])) []

/-- R301, R314: a job as it reaches the channels of its partition. -/
def sendJob (s : State) (p : Nat) (j : JobDesc) : JobDesc :=
  match smFind s.parts p with
  | none => j
  | some x =>
    { j with
      sent := s.stamp, queued := s.stamp
      chans := (jobRows x j).map fun e =>
        (e.1, { rows := e.2, phase := 0, acc := [], prev := [], images := [], suspended := false, stopped := false
                counted := false }) }

/-- R314, R329: a pending item goes to its channels when its batch closes. -/
def sendItems (s : State) (items : List Nat) : State :=
  items.foldl (fun t n => match smFind t.items n with
    | some x => match x.istate, x.kind with
      | .pending, .job j => { putItem t n { x with istate := .running, kind := .job (sendJob t x.part j) } with stamp := t.stamp + 1 }
      | .pending, _ => putItem t n { x with istate := .running }
      | _, _ => t
    | none => t) s

/-- R36, R242: close the pending items into the next batch. -/
def closeBatch (c : Ctx) : GroupOut :=
  let n := c.g.bclose + 1
  if n = 2 ^ 32 then .trap causeIllegalOperand {}
  else if openBatches c.g ≥ 16 then .stall .batchRoom c.s c.g
  else
    let b : Batch := { num := n, items := c.g.pend, complete := itemsFinished c.s c.g.pend, shown := false }
    .done (sendItems c.s c.g.pend)
      (writeUni { c.g with bclose := n, batches := c.g.batches ++ [b], pend := [] } c.d 6 n)

/-- R36: close the pending copies of the group into the next batch. -/
def execBatch (d : BitVec 7) (m : Mods) (s : State) : Out :=
  execGroup (.batch d m) true false closeBatch s

/-- The record of an item that has stopped. -/
def stoppedRec (s : State) (n : Nat) : Option TrapRec :=
  match smFind s.items n with
  | some x => match x.istate with
    | .stopped r => some r
    | _ => none
  | none => none

/-- R241: the record of a faulted batch: that of the faulted item that the group issued first. -/
def batchFault (s : State) (b : Batch) : Option TrapRec := b.items.findSome? (stoppedRec s)

/-- What a trap record says of a memory fault. -/
def infoOf (r : TrapRec) : MemInfo :=
  { va := r.va.toNat, elem := r.elem.toNat, res := r.res.toNat, ndrop := r.ndrop.toNat, cpyf := r.cpyf, lane := r.lane.toNat }

/-- R315: a job that stopped reaches its stopped channels again, where it goes on with the images that its slots then
hold (R308). -/
def restartJob (s : State) (j : JobDesc) : JobDesc :=
  { j with queued := s.stamp, fault := none
           chans := j.chans.map fun e => (e.1, if e.2.stopped then { e.2 with stopped := false, images := [] } else e.2) }

/-- R308: no `GLOAD` waits for a job that has stopped. -/
def unwaited (n : Nat) (x : Item) : Item :=
  match x.kind with
  | .gload slot im t jobs => { x with kind := .gload slot im t (jobs.filter (· ≠ n)) }
  | _ => x

/-- R241, R298, R315: restart an item that has stopped. -/
def restartItem (s : State) (n : Nat) (x : Item) : State :=
  match x.kind with
  | .job j =>
    let t := { s with stamp := s.stamp + 1, items := s.items.map fun e => (e.1, unwaited n e.2) }
    putItem t n { x with istate := .running, kind := .job (restartJob s j) }
  | .copy c => putItem s n { x with istate := .running, kind := .copy { c with reached := s.nextItem } }
  | .list l => putItem s n { x with istate := .running, kind := .list { l with reached := s.nextItem } }
  | _ => putItem s n { x with istate := .running }

/-- R241, R298, R315: a replayed `WAITB` restarts the faulted items of the batches it covers. -/
def restartItems (s : State) (items : List Nat) : State :=
  items.foldl (fun t n => match smFind t.items n with
    | some x => match x.istate with
      | .stopped _ => restartItem t n x
      | _ => t
    | none => t) s

/-- R241: the faulted batches up to `n` restart in a replay, when an earlier `WAITB` has shown their faults. -/
def restartBatches (s : State) (g : Group) (n : Nat) : State × Group :=
  g.batches.foldl (fun (acc : State × Group) b =>
    if b.num ≤ n && b.complete && b.shown && (batchFault s b).isSome then
      (restartItems acc.1 b.items,
       { acc.2 with batches := acc.2.batches.map fun y => if y.num = b.num then { y with complete := false, shown := false } else y })
    else acc) (s, g)

/-- The items of batches that have been waited on leave the state; jobs stay for `GSTAT` (R317). -/
def forgetItems (s : State) (items : List Nat) : State :=
  { s with items := s.items.filter fun e => !(items.contains e.1) || (match e.2.kind with | .job _ => true | _ => false) }

/-- R36, R241, R242: wait for the batches up to `n`. -/
def waitBatch (c : Ctx) : GroupOut :=
  let n := readUniN32 c c.a
  if n > c.g.bclose then .trap causeIllegalOperand {}
  else
    let (s1, g1) := if c.r.replay.isSome then restartBatches c.s c.g n else (c.s, c.g)
    let covered := g1.batches.filter fun b => b.num ≤ n
    if covered.any fun b => !b.complete then .stall (.batch n) s1 g1
    else match covered.findSome? (batchFault s1) with
      | some r =>
        .fail s1 { g1 with batches := g1.batches.map fun b => if b.num ≤ n && (batchFault s1 b).isSome then { b with shown := true } else b }
          r.cause (infoOf r)
      | none =>
        .done (forgetItems s1 (covered.flatMap (·.items))) { g1 with batches := g1.batches.filter fun b => n < b.num }

/-- R36: wait until every batch numbered n or lower has completed. -/
def execWaitb (a : BitVec 8) (m : Mods) (s : State) : Out :=
  execGroup (.waitb a m) true false waitBatch s

/-- R36, R241: a closed batch completes, normally or as faulted, when all its items have finished. -/
def execBatchComplete (owner batch : Nat) (s : State) : Out :=
  match groupOfUid s owner with
  | none => .fault .notEnabled
  | some (k, g) =>
    if g.batches.any fun b => b.num == batch && !b.complete && itemsFinished s b.items then
      .next (putGroup s k { g with batches := g.batches.map fun b => if b.num = batch then { b with complete := true } else b })
    else .fault .notEnabled

end Sys2Proof.Machine
end

