-- ==== Sys2Proof/Machine/Gather.lean ====
section
/-!
DEFINITION. Gathers and scatters, opcodes 0xC0-0xC4 (spec/14 R286 to R298), with the steps that serve a part and move
a list (spec/95: GATHER_PART_SERVE, LIST_TRANSFER).
-/
namespace Sys2Proof.Machine

/-! ### Lane gathers and scatters -/

/-- R291: gather an element in each lane. -/
def execGath (d : BitVec 8) (a : BitVec 8) (b : BitVec 8) (m : Mods) (s : State) : Out :=
  laneAccess (.gath d a b m) [1, 2, 3] false id (planLoad .gather flatName) s

/-- R291: scatter an element from each lane. -/
def execScat (d : BitVec 7) (a : BitVec 8) (b : BitVec 8) (m : Mods) (s : State) : Out :=
  laneAccess (.scat d a b m) [1, 2] true id (planStore .scatter flatName) s

/-- R291: add each lane's value to its element. -/
def execScatadd (d : BitVec 7) (a : BitVec 8) (b : BitVec 8) (m : Mods) (s : State) : Out :=
  laneAccess (.scatadd d a b m) [1, 2] true noWriteGraph (planStore .addTo flatName) s

/-- An access of the gather unit. -/
def isGather (a : Acc) : Bool :=
  match a.op with
  | .gather _ => true
  | .scatter _ => true
  | .addTo _ => true
  | _ => false

/-- R286: the home of a line: a die, or 4 and the number of the peer device. -/
def homeOf (s : State) (p va : Nat) : Nat :=
  match smFind s.parts p with
  | none => 0
  | some x => match peerWindowOf x va with
    | some w => 4 + w.device
    | none => homeDie x va

/-- R286, R291: the unit of a home serves the part it has received, in ascending lane order. -/
def execGatherPartServe (req home : Nat) (s : State) : Out :=
  match smFind s.reqs req with
  | none => .fault .notEnabled
  | some q =>
    let mine := fun (a : Acc) => !a.done && accReady s q a && isGather a
      && homeOf s q.part (elemAddr (entryOf q.entry) a.coords) == home
    if q.accs.any mine then
      .next ((List.range q.accs.length).foldl (fun t n => if (q.accs[n]?).any mine then performAcc t req n else t) s)
    else .fault .notEnabled

/-! ### Long gathers and scatters -/

/-- R295: the descriptor slots. -/
structure ListSlots where
  core : Bool
  off : Nat
  first : Nat
  cnt : Nat
  rp : Nat
  width : Nat
  reserved : Bool
  deriving DecidableEq, Repr

/-- R295: read the descriptor slots. -/
def listSlots (g : Group) (code : Nat) : ListSlots :=
  let v := fun j => slotValue g (code - 0xD0 + j) 32
  { core := bitsOf (v 0) 27 1 == 1, off := bitsOf (v 0) 0 21, first := v 1, cnt := bitsOf (v 2) 0 17
    rp := bitsOf (v 3) 16 16, width := bitsOf (v 3) 0 13
    reserved := bitsOf (v 0) 28 4 != 0 || bitsOf (v 0) 21 6 != 0 || bitsOf (v 2) 17 15 != 0 || bitsOf (v 3) 13 3 != 0 }

/-- R295, R296: the limits of the descriptor at an element size `z`. -/
def listSlotsOk (x : ListSlots) (z limit : Nat) : Bool :=
  !x.reserved && 1 ≤ x.cnt && x.cnt ≤ 65536 && 1 ≤ x.width && x.width ≤ 4096 && x.off % z == 0 && x.rp % z == 0
    && x.width * z ≤ x.rp && x.off + (x.cnt - 1) * x.rp + x.width * z ≤ limit

/-- R295: an index list: a linear resource of `.n32` or `.s32`. -/
def listEntry (s : State) (p idx : Nat) : Except (BitVec 8) (BitVec 512 × Entry) := do
  let (raw, e) ← namedEntry s p idx [1] none
  if e.fmt = 5 || e.fmt = 6 then .ok (raw, e) else .error causeKind

/-- R296: a list instruction at issue. -/
def issueList (scatter : Bool) (c : Ctx) : GroupOut :=
  let x := listSlots c.g c.d
  let li := resourceIndex c c.a
  let di := resourceIndex c c.b
  let fault := fun res cause => GroupOut.trap cause { entryInfo c.s c.g.part res 0 c.l cause with cpyf := true }
  if !listSlotsOk x (sizeOf c.ty) (scratchLimit c.s c.g (!x.core)) then .trap causeIllegalOperand {}
  else match listEntry c.s c.g.part li with
    | .error cause => fault li cause
    | .ok (lraw, le) =>
      match namedEntry c.s c.g.part di (if scatter then [1, 2] else [1, 2, 3]) (some c.ty) with
      | .error cause => fault di cause
      | .ok (draw, _) =>
        if x.first + x.cnt > le.dim0 then
          .trap causeBounds { elem := max x.first le.dim0, res := li, cpyf := true, lane := c.l }
        else if flightCount c.s c.g isList ≥ 16 then .stall .listRoom c.s c.g
        else
          let desc : ListDesc :=
            { scatter := scatter, list := lraw, data := draw, res := BitVec.ofNat 32 di, core := x.core
              place := scratchPlace c.k c.g (!x.core), off := x.off
              len := (x.cnt - 1) * x.rp + x.width * sizeOf c.ty, first := x.first, width := x.width, rp := x.rp
              todo := List.range x.cnt, drops := 0, dropElem := 0, reached := c.s.nextItem }
          let r := addItem c.s c.g (newItem c c.l .running (.list desc))
          .done r.1 r.2

/-- R296: gather rows into scratch. -/
def execLgath (d : BitVec 8) (a : BitVec 8) (b : BitVec 8) (m : Mods) (s : State) : Out :=
  execGroup (.lgath d a b m) false false (issueList false) s

/-- R296: scatter rows from scratch. -/
def execLscat (d : BitVec 8) (a : BitVec 8) (b : BitVec 8) (m : Mods) (s : State) : Out :=
  execGroup (.lscat d a b m) false false (issueList true) s

/-- R295: the value of list entry `r`: none when it is below 0. -/
def listValue (s : State) (p : Nat) (l : ListDesc) (r : Nat) : Except MemFault (Option Nat) := do
  let e := entryOf l.list
  let v ← readElement s p e [l.first + r, 0, 0, 0]
  .ok (if e.fmt = 5 && intVal 5 v < 0 then none else some v)

/-- R295: whether the row of a value lies in bounds. -/
def rowInside (e : Entry) (w j : Nat) : Bool := j * w + w ≤ elementCount e

/-- R295: the scratch byte of element `w` of row `r`. -/
def listPlace (l : ListDesc) (e : Entry) (r w : Nat) : Nat := l.off + r * l.rp + w * sizeOf e.fmt

/-- R296, R297: read the elements of a row from `w` on, as they stand in `s0` at the instruction's point, into scratch. -/
def gatherRow (s0 s : State) (p : Nat) (l : ListDesc) (e : Entry) (r j w n : Nat) : Except MemFault State :=
  match n with
  | 0 => .ok s
  | n + 1 => do
    let xs := coordsOf e (j * l.width + w)
    let v ← readElement s0 p e xs
    gatherRow s0 (scratchWrite s (!l.core) l.place (listPlace l e r w) (sizeOf e.fmt) v) p l e r j (w + 1) n

/-- R296: write zeros to row `r` from element `w` on. -/
def zeroRow (s : State) (l : ListDesc) (e : Entry) (r w n : Nat) : State :=
  match n with
  | 0 => s
  | n + 1 => zeroRow (scratchWrite s (!l.core) l.place (listPlace l e r w) (sizeOf e.fmt) 0) l e r (w + 1) n

/-- R296: the element of scratch that goes to element `w` of row `r`. -/
def listSource (s : State) (l : ListDesc) (e : Entry) (r w : Nat) : Nat :=
  scratchRead s (!l.core) l.place (listPlace l e r w) (sizeOf e.fmt)

/-- R296, R311: write the elements of a row from `w` on from scratch. -/
def scatterRow (s0 s : State) (p : Nat) (l : ListDesc) (e : Entry) (all : List (Nat × Nat)) (r j w n : Nat) : Except MemFault State :=
  match n with
  | 0 => .ok s
  | n + 1 => do
    let xs := coordsOf e (j * l.width + w)
    let v ← placedPattern s0 p e all xs (listSource s l e r w)
    let t ← writeElement s p { e with gwe := false } xs v
    scatterRow s0 t p l e all r j (w + 1) n

/-- What a list instruction has done so far: the state, the entries that faulted, those dropped. -/
structure ListRun where
  s : State
  faults : List (Nat × MemFault)
  drops : List Nat

/-- R296: one entry of a list instruction. -/
def listEntryStep (s0 : State) (p : Nat) (l : ListDesc) (all : List (Nat × Nat)) (x : ListRun) (r : Nat) : ListRun :=
  let e := entryOf l.data
  let fail := fun f => { x with faults := x.faults ++ [(r, f)] }
  match listValue s0 p l r with
  | .error f => fail f
  | .ok v =>
    match v.filter (rowInside e l.width) with
    | none =>
      if e.bnd = 0 then fail (causeBounds, 0)
      else if e.bnd = 1 then { x with drops := x.drops ++ [r] }
      else if l.scatter then x
      else { x with s := zeroRow x.s l e r 0 l.width }
    | some j =>
      if l.scatter then
        match writeChecks s0 p l.res.toNat e with
        | .error c => fail (c, 0)
        | .ok _ =>
          match scatterRow s0 x.s p l e all r j 0 l.width with
          | .ok t => { x with s := t }
          | .error f => fail f
      else match gatherRow s0 x.s p l e r j 0 l.width with
        | .ok t => { x with s := t }
        | .error f => fail f

/-- R296, R311: the addresses and patterns that an `LSCAT` stores, the highest entry first. -/
def listStores (s : State) (p : Nat) (l : ListDesc) : List (Nat × Nat) :=
  let e := entryOf l.data
  if l.scatter && e.gwe then
    l.todo.reverse.flatMap fun r =>
      match (listValue s p l r).toOption.bind fun v => v.filter (rowInside e l.width) with
      | some j => (List.range l.width).map fun w => (elemAddr e (coordsOf e (j * l.width + w)), listSource s l e r w)
      | none => []
  else []

/-- The bytes in memory that an `LSCAT` has written for the entries of a list (R348). -/
def listRanges (s : State) (p : Nat) (l : ListDesc) (done : List Nat) : List (Nat × Nat) :=
  let e := entryOf l.data
  if l.scatter then
    done.flatMap fun r =>
      match (listValue s p l r).toOption.bind fun v => v.filter (rowInside e l.width) with
      | some j => (List.range l.width).map fun w => (elemAddr e (coordsOf e (j * l.width + w)), sizeOf e.fmt)
      | none => []
  else []

/-- The addresses of the elements in the rows of entries of a list instruction, those that cannot be read or lie out of bounds
apart. -/
def listAddrs (s : State) (p : Nat) (l : ListDesc) (entries : List Nat) : List Nat :=
  let e := entryOf l.data
  entries.flatMap fun r =>
    match (listValue s p l r).toOption.bind fun v => v.filter (rowInside e l.width) with
    | some j => (List.range l.width).map fun w => dataAddr s p e (coordsOf e (j * l.width + w))
    | none => []

/-- The addresses of entries of the index list. -/
def indexAddrs (l : ListDesc) (entries : List Nat) : List Nat :=
  entries.map fun r => elemAddr (entryOf l.list) [l.first + r, 0, 0, 0]

/-- R297, R298: the addresses of the elements that a list instruction reaches for entry `r`: all those of its row; in a gathered
row with an element that faults, those before it, and its own line too when that is lost. -/
def rowReached (s : State) (p : Nat) (l : ListDesc) (faults : List (Nat × MemFault)) (r : Nat) : List Nat :=
  let row := listAddrs s p l [r]
  match faults.find? fun f => f.1 == r with
  | none => row
  | some (_, cause, va) =>
    if l.scatter || !row.contains va then []
    else row.take (row.findIdx (· == va) + if cause = causeData then 1 else 0)

/-- R286: the faults of a list instruction, one for each line and cause. -/
def faultLines (faults : List (Nat × MemFault)) : List MemFault :=
  faults.foldl (fun seen f =>
    if seen.any fun g => g.1 == f.2.1 && lineOf g.2 == lineOf f.2.2 then seen else seen ++ [f.2]) []

/-- R219, R220, R222, R346: the line requests of a run of a list instruction: of its index entries, `index`, and of the rows that
it reaches, `rows`; and its walks for a freeze count or a handle's record. -/
def listRequests (s : State) (x : Item) (l : ListDesc) (rows index : List Nat) : State :=
  let s1 := if rows.isEmpty then s
    else if l.scatter then freezeEvent s x.part l.res.toNat x.core else handleEvent s x.part x.core (entryOf l.data)
  let t := if l.scatter then lineRequests s1 x.part x.core (some x.launch) index rows
    else lineRequests s1 x.part x.core (some x.launch) (index ++ rows) []
  countPeers t x.part (if l.scatter then index else index ++ rows)

/-- R296 to R298: the gather unit performs a list instruction at one point. -/
def moveList (s : State) (id : Nat) (x : Item) (l : ListDesc) : State :=
  let run := l.todo.foldl (listEntryStep s x.part l (listStores s x.part l)) { s := s, faults := [], drops := [] }
  let drops := l.drops + run.drops.length
  let dropElem := if l.drops = 0 then run.drops.headD 0 else min l.dropElem (run.drops.headD l.dropElem)
  let moved := l.todo.filter fun r => !(run.faults.any fun f => f.1 == r)
  let e := entryOf l.data
  let t0 := listRequests (countGone (healRanges run.s x.part (if l.scatter then listRanges s x.part l moved else [])) l.core l.place)
    x l (l.todo.flatMap (rowReached s x.part l run.faults)) (indexAddrs l l.todo)
  let t := if l.scatter && e.gwe then { t0 with freeCtr := t0.freeCtr + 128 } else t0
  match run.faults with
  | [] =>
    putItem (itemDrops t x l.res.toNat drops dropElem) id
      { x with kind := .list { l with todo := [], drops := drops, dropElem := dropElem }, istate := .complete }
  | (r, cause, va) :: _ =>
    let t1 := (faultLines run.faults).foldl (fun t f => faultEvent t x.part f.1 f.2 x.core) t
    stopItem t1 id
      { x with kind := .list { l with todo := run.faults.map (·.1), drops := drops, dropElem := dropElem }
               istate := .stopped (itemRec x cause va r l.res.toNat run.faults.length) }

/-- R378: under a limit, the gather unit of a die has earlier list instructions of the partition to perform. -/
def listQueued (s : State) (item : Nat) (x : Item) (l : ListDesc) : Bool :=
  (match smFind s.parts x.part with | some y => y.rate != 0 | none => false)
    && s.items.any fun e => inFlight e.2 && e.2.part == x.part && dieOfCore e.2.core == dieOfCore x.core && (match e.2.kind with
      | .list d => reachedBefore (d.reached, e.1) (l.reached, item)
      | _ => false)

/-- R203, R241, R254, R297, R378: a list instruction can reach its point. -/
def listFree (s : State) (item : Nat) (x : Item) (l : ListDesc) : Bool :=
  !listQueued s item x l && (l.scatter || l.core || !itemClaimed s item x l.place l.off l.len)
    && !stoppedHolds s item (!l.core) l.place (!l.scatter) (listBytes l) && !itemFollows s item x

/-- R296: a list instruction reaches its point and is performed. -/
def execListTransfer (item : Nat) (s : State) : Out :=
  match smFind s.items item with
  | none => .fault .notEnabled
  | some x =>
    match x.kind with
    | .list l =>
      let bytes := l.todo.length * l.width * sizeOf (entryOf l.data).fmt
      if inFlight x && listFree s item x l
          && itemReady s item x (indexAddrs l l.todo ++ listAddrs s x.part l l.todo) bytes then
        .next (moveList (takeBytes s x.part (dieOfCore x.core) bytes) item x l)
      else .fault .notEnabled
    | _ => .fault .notEnabled

end Sys2Proof.Machine
end

