-- ==== Sys2Proof/Machine/Matrix.lean ====
section
/-!
DEFINITION. The matrix instructions, opcodes 0xC6-0xCF, and the runs of the matrix engine (spec/10 R190 to R216,
spec/04 R76 to R78; spec/95: ENGINE_RUN).
-/
namespace Sys2Proof.Machine

/-! ### Shapes and masks -/

/-- R195, R210: the bits below `n`. -/
def lowBits (w n : Nat) : BitVec w := BitVec.ofNat w (2 ^ n - 1)

/-- R196, R209: a matrix instruction. `encodingOk` holds the checks of the encoding that need the kernel (a tile at or
above the group's `.acc` count) or a constant's value: they are made whatever the guard. -/
def execMatrix (i : Instr) (encodingOk : Group → Bool) (body : Ctx → GroupOut) (s : State) : Out :=
  match issuing s with
  | none => .fault .noIssuingGroup
  | some (k, g, r) =>
    if selectedMask g ≠ 0 && legal i && !encodingOk g then .next (trapSelected s k g r i causeIllegalOperand {})
    else execGroup i true false body s

/-- R210: request a shape. -/
def setShape (c : Ctx) (z : BitVec 3) (kreq : Nat) : GroupOut :=
  let m := readUniN32 c c.a
  let n := readUniN32 c c.b
  if m = 0 || n = 0 then .trap causeIllegalOperand {}
  else
    let x := grantShape c.ty m n kreq
    .done c.s
      { c.g with
        shapes := smSet 0 c.g.shapes z.toNat (shapeBits x)
        rowm := smSet 0 c.g.rowm (z.toNat % 4) (lowBits 64 (min m x.gm))
        colm := smSet 0 c.g.colm (z.toNat % 4) (lowBits 128 (min n x.gn))
        qpreds := setPred c.g.qpreds 1 (x.gm == m && x.gn == n && x.gk == kreq) }

/-- R210: request a shape. A zero request from a constant is a fault of the encoding. -/
def execSetshape (k : BitVec 5) (z : BitVec 3) (a : BitVec 8) (b : BitVec 8) (m : Mods) (s : State) : Out :=
  execMatrix (.setshape k z a b m) (fun _ => a != 0x80 && b != 0x80) (fun c => setShape c z (8 * k.toNat)) s

/-- R211: read a grant. R211 says that it changes no lane latch: it produces no lane result. As a switch point (R93, R196) it makes
every latch stale, as R31 has it (the model's choice, notes/assumptions/59). -/
def execGetshape (d : BitVec 7) (z : BitVec 3) (sl : BitVec 1) (m : Mods) (s : State) : Out :=
  execMatrix (.getshape d z sl m) (fun _ => true) (fun c =>
    let x := shapeReg c.g z.toNat
    let v := fun n : Nat => if x.v then n else 0
    .done c.s (writeUni (writeUni (writeUni c.g c.d 6 (v x.gm)) (c.d + 1) 6 (v x.gn)) (c.d + 2) 6
      (v (if sl = 0 then x.gk else x.gks)))) s

/-! ### Operands -/

/-- R201: the bytes of the registers of a fragment: each lane's part through its own window, zeros for a lane that is
not selected; none when a slot does not exist or lies above the allocation of a lane that has a part: those that the strand selects
alone are looked at (notes/assumptions/57). -/
def fragBytes (c : Ctx) (code regs : Nat) : Option (List Byte) :=
  if code + regs ≤ 128 && (lanesOf c.sel).all fun l => (getLane c.g l).win.toNat + code + regs ≤ c.g.nreg then
    some ((List.range regs).flatMap fun j => laneIxs.flatMap fun l =>
      leBytes 4 (if c.sel.getLsbD l then regValue (getLane c.g l) (code + j) 32 else 0))
  else none

/-- The shape of an operand: its rows, the bytes of a row, the metadata bytes of a row. -/
structure OperandShape where
  rows : Nat
  width : Nat
  side : Nat
  deriving DecidableEq, Repr

/-- R202: the slots that describe an operand in cluster scratch. -/
structure ScratchSlots where
  off : Nat
  tp : Nat
  rp : Nat
  reserved : Bool
  deriving DecidableEq, Repr

/-- R202: read the slots. -/
def scratchSlots (g : Group) (code : Nat) : ScratchSlots :=
  let w0 := slotValue g (code - 0xD0) 32
  let w1 := slotValue g (code - 0xD0 + 1) 32
  { off := bitsOf w0 0 21, tp := bitsOf w1 16 16, rp := bitsOf w1 0 16, reserved := bitsOf w0 24 8 != 0 }

/-- R202: the extent of an operand in the scratch of a cluster: every byte from its offset to the end of its last row, and its
metadata. -/
def extentOf (cluster : Nat) (x : ScratchSlots) (sh : OperandShape) : List (Nat × Nat × Nat) :=
  (cluster, x.off, (sh.rows - 1) * x.rp + sh.width) :: if sh.side = 0 then [] else [(cluster, x.off + x.tp, sh.rows * sh.side)]

/-- R202: the slots are legal. -/
def scratchSlotsOk (x : ScratchSlots) (sh : OperandShape) : Bool :=
  !x.reserved && x.off % 4 == 0 && x.rp % 4 == 0 && x.tp % 4 == 0 && (sh.side != 0 || x.tp == 0)
    && (extentOf 0 x sh).all fun r => decide (r.2.1 + r.2.2 ≤ 2 ^ 21)

/-- R201: the registers of a fragment. -/
def fragCount (sh : OperandShape) : Nat := fragRegs (sh.rows * sh.width) + fragRegs (sh.rows * sh.side)

/-- R201, R202: an operand as captured at issue, with its extent in scratch; none: an illegal operand of the group. -/
def captureOperand (c : Ctx) (code : Nat) (sh : OperandShape) : Option (EngOperand × List (Nat × Nat × Nat)) :=
  if code < 0x80 then
    (fragBytes c code (fragCount sh)).map fun bs =>
      (.frag (bs.take (sh.rows * sh.width) ++ (bs.drop (128 * fragRegs (sh.rows * sh.width))).take (sh.rows * sh.side)), [])
  else
    let x := scratchSlots c.g code
    if scratchSlotsOk x sh then
      let cluster := clusterOfCore (coreOfKey c.k)
      some (.scratch cluster x.off x.rp (x.off + x.tp), extentOf cluster x sh)
    else none

/-- R197: the registers that an operand code names as a fragment: the first by lane, and how many. -/
def fragsOf (c : Ctx) (code : Nat) (sh : OperandShape) : List (List Nat × Nat) :=
  if code < 0x80 then [(laneIxs.map fun l => (getLane c.g l).win.toNat + code, fragCount sh)] else []

/-- The bytes of the rows of an operand and then of its metadata, as they stand now. -/
def operandBytes (s : State) (sh : OperandShape) (x : EngOperand) : List Byte :=
  match x with
  | .frag bs => bs
  | .scratch cluster off pitch side =>
    let base := cluster * 2 ^ 21
    ((List.range sh.rows).flatMap fun i => memBytes s.cscratch (base + off + i * pitch) sh.width)
      ++ memBytes s.cscratch (base + side) (sh.rows * sh.side)

/-- R201: the shape of the A operand of a product. -/
def shapeA (sparse : Bool) (t : BitVec 5) (m k : Nat) : OperandShape :=
  if sparse then { rows := m, width := rowBytes t (k / 2), side := k / 24 * 4 } else { rows := m, width := rowBytes t k, side := 0 }

/-- R201: the shape of the B operand of a product. -/
def shapeB (t : BitVec 5) (n k : Nat) : OperandShape := { rows := k, width := rowBytes t n, side := 0 }

/-- R201: the shape of `n` blocks. -/
def shapeBlocks (t : BitVec 5) (n : Nat) : OperandShape := { rows := n, width := blockBytes t, side := 0 }

/-- R215: the shape of the elements that `ACCLD` or `ACCST` moves in scratch. -/
def shapeMove (t : BitVec 5) (m n : Nat) : OperandShape := { rows := m, width := rowBytes t n, side := 0 }

/-- R203, R215: take read ownership of the operands of an instruction: their bytes as they stand. -/
def ownOperands (s : State) (o : EngOp) : List Byte × List Byte :=
  match o.kind with
  | .accld t _ m n (.scratch cluster off pitch) => (operandBytes s (shapeMove t m n) (.scratch cluster off pitch off), [])
  | .mma sparse t _ m n k a b => (operandBytes s (shapeA sparse t m k) a, operandBytes s (shapeB t n k) b)
  | .mmabx t _ m n a b => (operandBytes s (shapeBlocks t m) a, operandBytes s (shapeBlocks t n) b)
  | _ => ([], [])

/-- R203, R241: the point has not come: a copy that was in flight at issue still writes an extent, or one that has stopped holds
bytes of it. -/
def ownershipWaits (s : State) (o : EngOp) : Bool :=
  o.extents.any fun x => copiesInto s x.1 x.2.1 x.2.2 o.since || stoppedHolds s s.nextItem true x.1 false [(x.2.1, x.2.2)]

/-- R331: put an instruction in the queue: by the cycle of its issue, then by the sequencer of its group. -/
def insertOp (o : EngOp) (ops : List EngOp) : List EngOp :=
  match ops with
  | [] => [o]
  | x :: rest => if x.cycle == o.cycle && decide (o.group / 8 % 4 < x.group / 8 % 4) then o :: x :: rest else x :: insertOp o rest

/-- R197, R203: enter the engine's queue. Ownership is taken at once, unless the schedule, a copy or a queued access of the group puts
the point off (notes/assumptions/24). -/
def enqueue (c : Ctx) (kind : EngKind) (rowm : DWord) (colm : BitVec 128) (extents : List (Nat × Nat × Nat))
    (frags : List (List Nat × Nat)) : GroupOut :=
  let o : EngOp :=
    { group := c.k, sel := c.sel, kern := c.r.kern, cycle := c.s.cycle, cls := c.g.cls, kind := kind, rowm := rowm, colm := colm
      run := 0, extents := extents, frags := frags, since := c.s.nextItem, owned := none, lost := []
      trec := mkRec c.g c.r (encode c.i) c.l 0 0 { lane := c.l } }
  let o' : EngOp :=
    if !extents.isEmpty && (c.s.defer || ownershipWaits c.s o || accessQueued c.s c.k c.s.nextItem) then o
    else { o with owned := some (ownOperands c.s o) }
  let core := coreOfKey c.k
  .done { c.s with engines := smSet [] c.s.engines core (insertOp o' (smGet [] c.s.engines core)) } c.g

/-- R197, R209: capture the shape register and its masks; none: an illegal operand of the group. -/
def captureShape (c : Ctx) (z : Nat) (fmt : Option (BitVec 5)) : Option (ShapeReg × DWord × BitVec 128) :=
  let x := shapeReg c.g z
  if x.v && (match fmt with | some t => x.fmt == t | none => true) then
    some (x, smGet 0 c.g.rowm (z % 4), smGet 0 c.g.colm (z % 4))
  else none

/-! ### Issue -/

/-- R197: a fragment of an instruction names a register that a queued `ACCRD` of the group writes. -/
def fragMoved (c : Ctx) (code : Nat) (sh : OperandShape) : Bool :=
  decide (code < 0x80) && (lanesOf c.sel).any fun l =>
    moveWrites c.s c.k l ((getLane c.g l).win.toNat + code) (fragCount sh)

/-- R93, R197: the group waits for the engine's queue to grow shorter. -/
def stallQueue (c : Ctx) : GroupOut := .stall (.moves (queueLength c.s c.k)) c.s c.g

/-- R212: `MMA` and `MMAS` at issue. -/
def issueProduct (sparse : Bool) (z : BitVec 3) (t : BitVec 4) (c : Ctx) : GroupOut :=
  match captureShape c z.toNat (some c.ty) with
  | none => .trap causeIllegalOperand {}
  | some (x, rowm, colm) =>
    if tilesBusy c.s c.k (2 ^ t.toNat) then .stall (.engine (2 ^ t.toNat)) c.s c.g
    else
      let k := if sparse then x.gks else x.gk
      if fragMoved c c.a (shapeA sparse c.ty x.gm k) || fragMoved c c.b (shapeB c.ty x.gn k) then stallQueue c
      else match captureOperand c c.a (shapeA sparse c.ty x.gm k), captureOperand c c.b (shapeB c.ty x.gn k) with
      | some (a, ea), some (b, eb) => enqueue c (.mma sparse c.ty t.toNat x.gm x.gn k a b) rowm colm (ea ++ eb)
          (fragsOf c c.a (shapeA sparse c.ty x.gm k) ++ fragsOf c c.b (shapeB c.ty x.gn k))
      | _, _ => .trap causeIllegalOperand {}

/-- R212: dense multiply and accumulate. -/
def execMma (z : BitVec 3) (t : BitVec 4) (a : BitVec 8) (b : BitVec 8) (m : Mods) (s : State) : Out :=
  execMatrix (.mma z t a b m) (fun g => t.toNat < g.nacc) (issueProduct false z t) s

/-- R212: sparse multiply and accumulate. -/
def execMmas (z : BitVec 3) (t : BitVec 4) (a : BitVec 8) (b : BitVec 8) (m : Mods) (s : State) : Out :=
  execMatrix (.mmas z t a b m) (fun g => t.toNat < g.nacc) (issueProduct true z t) s

/-- R206, R213: block partials at issue. -/
def issueBlocks (z : BitVec 3) (t : BitVec 4) (c : Ctx) : GroupOut :=
  match captureShape c z.toNat (some c.ty) with
  | none => .trap causeIllegalOperand {}
  | some (x, rowm, colm) =>
    if tilesBusy c.s c.k (15 * 2 ^ t.toNat) then .stall (.engine (15 * 2 ^ t.toNat)) c.s c.g
    else if fragMoved c c.a (shapeBlocks c.ty x.gm) || fragMoved c c.b (shapeBlocks c.ty x.gn) then stallQueue c
    else
      match captureOperand c c.a (shapeBlocks c.ty x.gm), captureOperand c c.b (shapeBlocks c.ty x.gn) with
      | some (a, ea), some (b, eb) => enqueue c (.mmabx c.ty t.toNat x.gm x.gn a b) rowm colm (ea ++ eb)
          (fragsOf c c.a (shapeBlocks c.ty x.gm) ++ fragsOf c c.b (shapeBlocks c.ty x.gn))
      | _, _ => .trap causeIllegalOperand {}

/-- R213: block partials. -/
def execMmabx (z : BitVec 3) (t : BitVec 4) (a : BitVec 8) (b : BitVec 8) (m : Mods) (s : State) : Out :=
  execMatrix (.mmabx z t a b m) (fun g => t.toNat + 3 < g.nacc) (issueBlocks z t) s

/-- R207, R213: the fold of block partials at issue: `XFMT` must name a block format. -/
def issueFold (z : BitVec 3) (t p : BitVec 4) (c : Ctx) : GroupOut :=
  match captureShape c z.toNat none with
  | none => .trap causeIllegalOperand {}
  | some (x, rowm, colm) =>
    let tiles := Nat.lor (2 ^ t.toNat) (15 * 2 ^ p.toNat)
    if tilesBusy c.s c.k tiles then .stall (.engine tiles) c.s c.g
    else if tyIsBlock (tileOf c.g p.toNat).xfmt then enqueue c (.scacc t.toNat p.toNat x.gm x.gn) rowm colm [] []
    else .trap causeIllegalOperand {}

/-- R213: fold block partials. -/
def execScacc (z : BitVec 3) (t : BitVec 4) (p : BitVec 4) (m : Mods) (s : State) : Out :=
  execMatrix (.scacc z t p m) (fun g => t.toNat < g.nacc && p.toNat + 3 < g.nacc) (issueFold z t p) s

/-- R214: clear a tile. -/
def execAccz (t : BitVec 4) (m : Mods) (s : State) : Out :=
  execMatrix (.accz t m) (fun g => t.toNat < g.nacc) (fun c =>
    if tilesBusy c.s c.k (2 ^ t.toNat) then .stall (.engine (2 ^ t.toNat)) c.s c.g
    else enqueue c (.accz t.toNat) 0 0 [] []) s

/-! ### Elements and runs -/

/-- R201: the patterns of elements packed in bytes; of a 4-bit format the low nibble comes first. -/
def patternsOf (t : BitVec 5) (bs : List Byte) : List Nat :=
  match tyBits t with
  | 4 => bs.flatMap fun b => [bitsOf b.toNat 0 4, bitsOf b.toNat 4 4]
  | 8 => bs.map (·.toNat)
  | _ => pairsOf bs
where
  /-- Two bytes an element. -/
  pairsOf (bs : List Byte) : List Nat :=
    match bs with
    | a :: b :: rest => (a.toNat + 256 * b.toNat) :: pairsOf rest
    | _ => []

/-- `k` pieces of `n` things each. -/
def pieces {α : Type} (k n : Nat) (xs : List α) : List (List α) :=
  match k with
  | 0 => []
  | k + 1 => xs.take n :: pieces k n (xs.drop n)

/-- R190: change the elements of a tile with keys from `k` on, `n` of them; an element not listed is 0. -/
def walkTile (f : Nat → Word → Word) (k n : Nat) (m : SMap Word) : SMap Word :=
  match n with
  | 0 => m
  | n + 1 =>
    let old : Word := match m with | (k', v) :: _ => if k' = k then v else 0 | [] => 0
    let rest := match m with | (k', _) :: t => if k' = k then t else m | [] => []
    let v := f k old
    let tail := walkTile f (k + 1) n rest
    if v = 0 then tail else (k, v) :: tail

/-- R195, R212: the masks and the granted size select element (m, n). -/
def picks (o : EngOp) (gm gn m n : Nat) : Bool := decide (m < gm) && o.rowm.getLsbD m && decide (n < gn) && o.colm.getLsbD n

/-- The number of bits of `w` below bit `n` that are set. -/
def onesBelow (w n : Nat) : Nat := ((List.range n).filter fun i => w.testBit i).length

/-- R204: a metadata word is malformed. -/
def metaBad (w : Nat) : Bool := bitsOf w 24 8 != 0 || decide (12 < onesBelow w 32)

/-- R204: the eight patterns of a sparse row in run `r`: its value slots and its metadata words; absent positions have
none. -/
def sparseRun (vals words : List Nat) (r : Nat) : List (Option Nat) :=
  let g := r / 3
  let w := words.getD g 0
  (List.range 8).map fun i =>
    let j := 8 * (r % 3) + i
    if metaBad w || !w.testBit j then none
    else some (vals.getD (12 * g + onesBelow w j) 0)

/-- R76: the exact sum of products; an exact zero is -0 only when every product is. -/
def exactSum (xs : List FVal) : FVal :=
  match xs with
  | [] => .fin false 0 0
  | x :: rest => rest.foldl (fAdd .rne) x

/-- R76, R77: one run of one element: its accumulator, the eight factors of A (none: absent) and of B. -/
def runElement (t : BitVec 5) (old : Word) (as : List (Option Nat)) (bs : List Nat) : Word :=
  if tyIsFloat t then
    let f := formatOf t
    let s := exactSum (List.zipWith (fun a b => match a with
      | some x => fMul (fval f x) (fval f b)
      | none => .fin false 0 0) as bs)
    BitVec.ofNat 32 (roundVal (formatOf 16) .rne false (fAdd .rne (fval (formatOf 16) old.toNat) (toF32 s)))
  else
    (List.zipWith (fun a b => match a with
      | some x => intVal t x * intVal t b
      | none => 0) as bs).foldl (fun acc x => acc + BitVec.ofInt 32 x) old

/-- The metadata words of the rows of a sparse operand. -/
def metaRows (bs : List Byte) (sh : OperandShape) : List (List Nat) :=
  pieces sh.rows (sh.side / 4) ((wordsOf (bs.drop (sh.rows * sh.width))).map (·.toNat))

/-- R76, R204, R205: the factors of each row of A in run `r`; `lost` are the rows without a metadata word. -/
def runRows (sparse : Bool) (t : BitVec 5) (m k r : Nat) (lost : List Nat) (bs : List Byte) : List (List (Option Nat)) :=
  let sh := shapeA sparse t m k
  let vals := (pieces m sh.width bs).map (patternsOf t)
  if sparse then
    (List.zipWith (fun v w => sparseRun v w r) vals (metaRows bs sh)).zipIdx.map fun x =>
      if lost.contains x.2 then List.replicate 8 none else x.1
  else vals.map fun row => ((row.drop (8 * r)).take 8).map some

/-- R76: the factors of each column of B in run `r`. -/
def runColumns (t : BitVec 5) (n k r : Nat) (bs : List Byte) : List (List Nat) :=
  let sh := shapeB t n k
  let rows := (((pieces k sh.width bs).drop (8 * r)).take 8).map (patternsOf t)
  (List.range n).map fun c => rows.map fun row => row.getD c 0

/-- R205: the rows that the engine poisons in run `r`: it reads a group's metadata word in the group's first run. -/
def poisonedRows (o : EngOp) (t : BitVec 5) (m k r : Nat) (bs : List Byte) : List Nat :=
  if r % 3 = 0 then
    (List.range m).filter fun i => o.rowm.getLsbD i
      && (o.lost.contains i || metaBad (((metaRows bs (shapeA true t m k)).getD i []).getD (r / 3) 0))
  else []

/-- R205, R345: one event for each metadata word that poisons a row. -/
def poisonEvents (s : State) (p : Nat) (o : EngOp) (rows : List Nat) : State :=
  rows.foldl (fun t _ => deviceEvent t p 0x23 { mask := o.sel.toNat, kernel := o.kern, core := coreOfKey o.group }) s

/-- R205: set poison bits. -/
def poison (t : Tile) (rows : List Nat) : Tile :=
  { t with poison := rows.foldl (fun acc m => acc ||| BitVec.ofNat 64 (2 ^ m)) t.poison }

/-- R212: one run of a product on a tile. -/
def runProduct (o : EngOp) (sparse : Bool) (t : BitVec 5) (m n k r : Nat) (a b : List Byte) (tile : Tile) : Tile :=
  let rows := runRows sparse t m k r o.lost a
  let cols := runColumns t n k r b
  { tile with elems := walkTile (fun key old =>
      if picks o m n (key / 128) (key % 128) then runElement t old (rows.getD (key / 128) []) (cols.getD (key % 128) [])
      else old) 0 (128 * m) tile.elems }

/-! ### Block partials -/

/-- R69, R78: a block as its exponents and its elements: selector and signed magnitude. -/
def blockParts (t : BitVec 5) (bs : List Byte) : Nat × Nat × List (Bool × Int) :=
  let codes := patternsOf t (bs.drop 2)
  (blockExp ((bs.getD 0 0).toNat), blockExp ((bs.getD 1 0).toNat),
   codes.map fun c => let x := blockElem t (blockRead t c); (x.sel, toInt x.neg x.m))

/-- R78, R206: the partial (i, j) of a row's block and a column's block, scaled to an integer. -/
def partialSum (i j : Bool) (x y : List (Bool × Int)) : Int :=
  (List.zipWith (fun a b => if a.1 == i && b.1 == j then a.2 * b.2 else 0) x y).foldl (· + ·) 0

/-- R206: the exponents of rows or columns, from key `at_` on: e0 of each, then e1 of each. -/
def putExponents (m : SMap Byte) (half : Nat) (xs : List (Nat × Nat × List (Bool × Int))) : SMap Byte :=
  (List.range xs.length).foldl (fun acc i =>
    let x := xs.getD i (0, 0, [])
    smSet 0 (smSet 0 acc i (BitVec.ofNat 8 x.1)) (half + i) (BitVec.ofNat 8 x.2.1)) m

/-- R206: the four partial tiles, the exponents and the format. -/
def writePartials (g : Group) (o : EngOp) (t : BitVec 5) (tile m n : Nat) (a b : List Byte) : Group :=
  let rows := (pieces m (blockBytes t) a).map (blockParts t)
  let cols := (pieces n (blockBytes t) b).map (blockParts t)
  let part := fun (g : Group) (q : Nat) =>
    let old := tileOf g (tile + q)
    putTile g (tile + q)
      { old with elems := walkTile (fun key v =>
          if picks o m n (key / 128) (key % 128) then
            BitVec.ofInt 32 (partialSum (decide (2 ≤ q)) (q % 2 == 1) (rows.getD (key / 128) (0, 0, [])).2.2
              (cols.getD (key % 128) (0, 0, [])).2.2)
          else v) 0 (128 * m) old.elems }
  let g1 := [0, 1, 2, 3].foldl part g
  let x := tileOf g1 tile
  putTile g1 tile { x with xfmt := t, xa := putExponents x.xa 64 rows, xb := putExponents x.xb 128 cols }

/-- R78, R207: fold four partials into an accumulator. `ea` and `eb` give the exponents by selector. A partial of 0 is added as +0
(the model's choice, notes/assumptions/59). -/
def foldPartials (t : BitVec 5) (acc : Word) (parts : List Word) (ea eb : Nat → Nat) : Word :=
  (List.range 4).foldl (fun acc q =>
    let p := (parts.getD q 0).toInt
    let e : Int := (ea (q / 2) : Int) + eb (q % 2) - 254 - (2 * blockScale t : Int)
    BitVec.ofNat 32 (roundVal (formatOf 16) .rne false
      (fAdd .rne (fval (formatOf 16) acc.toNat) (.fin (p < 0) p.natAbs e)))) acc

/-- R205, R207: `SCACC` on the tiles of a group: a row that is poisoned in one of the four partial tiles poisons the destination's. -/
def foldTiles (g : Group) (o : EngOp) (tile part m n : Nat) : Group :=
  let ps := [0, 1, 2, 3].map fun q => tileOf g (part + q)
  let x := tileOf g part
  let old := tileOf g tile
  putTile g tile
    { old with poison := ps.foldl (fun acc p => acc ||| p.poison) old.poison, elems := walkTile (fun key v =>
        let r := key / 128
        let c := key % 128
        if picks o m n r c then
          foldPartials x.xfmt v (ps.map fun p => smGet 0 p.elems key)
            (fun i => blockExp (smGet 0 x.xa (64 * i + r)).toNat) (fun j => blockExp (smGet 0 x.xb (128 * j + c)).toNat)
        else v) 0 (128 * m) old.elems }

/-! ### Elements that move -/

/-- R215: an element of memory as it enters a tile. -/
def enterTile (t : BitVec 5) (pat : Nat) : Word :=
  BitVec.ofNat 32 (if tyBits t = 16 then convertTo 16 .rne false (valueAt t pat) else pat)

/-- R215, R216: an element of a tile as it leaves. -/
def leaveTile (t : BitVec 5) (e : Ext) (v : Word) : Nat :=
  if tyBits t = 16 then convertTo t (roundingOf e.rnd) e.sat (valueAt 16 v.toNat) else v.toNat

/-- R205: an instruction would read a selected element of a poisoned row. -/
def readsPoison (t : Tile) (els : List (Nat × Nat)) : Bool := els.any fun x => t.poison.getLsbD x.1

/-- What a move has done so far: the state, the elements of the tile, the elements that `BND` dropped. -/
structure TileMove where
  s : State
  elems : SMap Word
  drops : List Nat

/-- R215: move one element that lies in the resource. `s0` is the state before the move and `all` its stores, which pass a graph
together (R311). -/
def moveElement (s0 : State) (x : MoveArgs) (all : List (Nat × Nat)) (el : Nat × Nat) (y : TileMove) : Except MemFault TileMove :=
  let key := 128 * el.1 + el.2
  let xs := coordsOf x.entry (moveIndex x el)
  if x.store then
    match writeChecks y.s x.part x.res x.entry with
    | .error cause => .error (cause, 0)
    | .ok _ => do
      let v ← placedPattern s0 x.part x.entry all xs (leaveTile x.ty x.ext (smGet 0 y.elems key))
      let t ← writeElement y.s x.part { x.entry with gwe := false } xs v
      .ok { y with s := t }
  else do
    let v ← readElement y.s x.part x.entry xs
    .ok { y with s := countPeer y.s x.part (elemAddr x.entry xs), elems := smSet 0 y.elems key (enterTile x.ty v) }

/-- R215: move elements one after another, until one faults. The spec gives them no order; the model takes them row by row
(notes/assumptions/57). -/
def moveElements (s0 : State) (x : MoveArgs) (all : List (Nat × Nat)) (els : List (Nat × Nat)) (y : TileMove) :
    TileMove × Option (MemFault × Nat) :=
  match els with
  | [] => (y, none)
  | el :: rest =>
    let i := moveIndex x el
    if i < elementCount x.entry then
      match moveElement s0 x all el y with
      | .error f => (y, some (f, i))
      | .ok z => moveElements s0 x all rest z
    else if x.entry.bnd = 0 then (y, some ((causeBounds, 0), i))
    else if x.entry.bnd = 1 then moveElements s0 x all rest { y with drops := y.drops ++ [i] }
    else moveElements s0 x all rest (if x.store then y else { y with elems := smSet 0 y.elems (128 * el.1 + el.2) 0 })

/-- R215, R311: the elements of a move, from and to a tile's elements. -/
def moveAll (s : State) (x : MoveArgs) (els : List (Nat × Nat)) (elems : SMap Word) : TileMove × Option (MemFault × Nat) :=
  let all := if x.store && x.entry.gwe then
      (movesInside x els).map fun el => (moveAddr x el, leaveTile x.ty x.ext (smGet 0 elems (128 * el.1 + el.2)))
    else []
  moveElements s x all els { s := s, elems := elems, drops := [] }

/-- R257, R318, R378: a move has to wait: something holds one of its lines, a job the bank of a line whose stores pass a graph, or
the limit its bytes. -/
def moveBlocked (s : State) (x : MoveArgs) (els : List (Nat × Nat)) : Bool :=
  accessWaits s x.part x.core (moveAddrs x els) (moveBytes x els)
    || (x.store && x.entry.gwe && (moveAddrs x els).any fun va => !inPeerWindow s x.part va && bankBusy s x.part va)

/-- R215, R311, R324, R345: the move, with the line requests of stores through a graph and its events: the state, the tile's
elements, and the fault that ended it. `t` and `sel` are its record and its lanes. -/
def moveTileMemory (s : State) (x : MoveArgs) (els : List (Nat × Nat)) (elems : SMap Word) (t : TrapRec) (sel : Word) :
    State × SMap Word × Option (BitVec 8 × MemInfo) :=
  let addrs := moveAddrs x els
  let s1 := accessMade s x.part x.core (if x.store then [] else addrs) (moveBytes x els)
  let (y, f) := moveAll s1 x els elems
  let s2 := if x.store && !addrs.isEmpty then freezeEvent y.s x.part x.res x.core else y.s
  let s3 := if x.store && x.entry.gwe then lineRequests { s2 with freeCtr := s2.freeCtr + 128 } x.part x.core (some x.launch) [] addrs else s2
  match f with
  | some ((cause, va), i) =>
    (faultEvent s3 x.part cause va x.core, y.elems, some (cause, { va := va, elem := i, res := x.res, lane := t.lane.toNat }))
  | none =>
    let s4 := healRanges s3 x.part (if x.store then addrs.map fun a => (a, sizeOf x.ty) else [])
    (dropReport s4 x.part x.core t (y.drops.headD 0) x.res y.drops.length t.lane.toNat sel false, y.elems, none)

/-- R216: put an element of `size` bytes at byte `b` of a fragment; only selected lanes are written. `bases` are the first
registers of the fragment, by lane. -/
def putFragment (g : Group) (sel : Word) (bases : List Nat) (b size v : Nat) : Group :=
  let l := b % 128 / 4
  if sel.getLsbD l then
    let ln := getLane g l
    let n := bases.getD l 0 + b / 128
    let old := (getReg ln n).toNat
    let lo := 8 * (b % 4)
    setLane g l (setReg ln n (BitVec.ofNat 32 (old - bitsOf old lo (8 * size) * 2 ^ lo + v % 2 ^ (8 * size) * 2 ^ lo)))
  else g

/-! ### ENGINE_RUN -/

/-- R198, R200: whether an instruction is taken before another that is older: the instructions of a group that is
pre-empted come first, then the higher class. -/
def engineRank (s : State) (o : EngOp) : Nat :=
  (match smFind s.groups o.group with | some g => if g.preempt then 4 else 0 | none => 0) + o.cls.toNat

/-- R198: the place in the queue of the instruction that the engine takes: the oldest of the highest rank. -/
def engineChoice (s : State) (ops : List EngOp) : Option (Nat × EngOp) :=
  (ops.zipIdx.foldl (fun (acc : Option (Nat × EngOp)) x => match acc with
    | none => some (x.2, x.1)
    | some a => if engineRank s a.2 < engineRank s x.1 then some (x.2, x.1) else acc) none)

/-- R198: the runs of an instruction. -/
def engineRuns (x : EngKind) : Nat :=
  match x with
  | .mma _ _ _ _ _ k _ _ => k / 8
  | .mmabx _ _ _ _ _ _ => 4
  | _ => 1

/-- R203, R215, R257: a queued instruction has to wait: for a copy that writes an extent, for what holds a line in memory, or for a
copy or list instruction over the bytes that an `ACCST` writes. -/
def engineWaits (s : State) (g : Group) (o : EngOp) : Bool :=
  (o.owned.isNone && ownershipWaits s o)
    || (match opMove g o with | some x => moveBlocked s x (opElements o) | none => false)
    || (match o.kind with
      | .accst t _ _ m n (.scratch cluster off pitch) => scratchHeld s true cluster true [(off, (m - 1) * pitch + rowBytes t n)]
      | _ => false)

/-- R215: the elements of an `ACCLD` from the bytes of scratch that it owns. -/
def loadOwned (t : BitVec 5) (n : Nat) (bytes : List Byte) (els : List (Nat × Nat)) (elems : SMap Word) : SMap Word :=
  els.foldl (fun acc el => smSet 0 acc (128 * el.1 + el.2)
    (enterTile t (leNat ((bytes.drop (el.1 * rowBytes t n + el.2 * sizeOf t)).take (sizeOf t))))) elems

/-- R215: the elements of an `ACCST` into scratch. -/
def storeScratch (s : State) (cluster off pitch : Nat) (t : BitVec 5) (e : Ext) (els : List (Nat × Nat)) (elems : SMap Word) : State :=
  els.foldl (fun u el => scratchWrite u true cluster (off + el.1 * pitch + el.2 * sizeOf t) (sizeOf t)
    (leaveTile t e (smGet 0 elems (128 * el.1 + el.2)))) s

/-- R216: the elements of an `ACCRD` into the registers of the lanes. -/
def readFragment (g : Group) (sel : Word) (bases : List Nat) (t : BitVec 5) (e : Ext) (n : Nat) (els : List (Nat × Nat))
    (elems : SMap Word) : Group :=
  els.foldl (fun u el => putFragment u sel bases ((el.1 * n + el.2) * sizeOf t) (sizeOf t)
    (leaveTile t e (smGet 0 elems (128 * el.1 + el.2)))) g

/-- R215: a queued move in memory: the state, and the fault that ended it. -/
def engineMove (s : State) (g : Group) (o : EngOp) (tile : Nat) : State × Option (BitVec 8 × MemInfo) :=
  match opMove g o with
  | none => (s, none)
  | some x =>
    let old := tileOf g tile
    let (t, elems, f) := moveTileMemory s x (opElements o) old.elems o.trec o.sel
    (putGroup t o.group (putTile g tile { old with elems := elems }), f)

/-- R198, R212 to R216: one run of an instruction on its group's tiles, and the fault of a move in memory. -/
def engineEffect (s : State) (g : Group) (o : EngOp) (a b : List Byte) : State × Option (BitVec 8 × MemInfo) :=
  let k := o.group
  match o.kind with
  | .mma sparse t tile m n kk _ _ =>
    let bad := if sparse then poisonedRows o t m kk o.run a else []
    (poisonEvents (putGroup s k (putTile g tile (poison (runProduct o sparse t m n kk o.run a b (tileOf g tile)) bad)))
      g.part o bad, none)
  | .mmabx t tile m n _ _ => (if o.run = 3 then putGroup s k (writePartials g o t tile m n a b) else s, none)
  | .scacc tile part m n => (putGroup s k (foldTiles g o tile part m n), none)
  | .accz tile => (putGroup s k (putTile g tile Tile.zero), none)
  | .accld t tile _ n place =>
    match place with
    | .mem _ _ _ _ => engineMove s g o tile
    | .scratch _ _ _ =>
      let old := tileOf g tile
      (putGroup s k (putTile g tile { old with elems := loadOwned t n a (opElements o) old.elems }), none)
  | .accst t e tile _ _ place =>
    match place with
    | .mem _ _ _ _ => engineMove s g o tile
    | .scratch cluster off pitch => (storeScratch s cluster off pitch t e (opElements o) (tileOf g tile).elems, none)
  | .accrd t e tile _ n bases => (putGroup s k (readFragment g o.sel bases t e n (opElements o) (tileOf g tile).elems), none)

/-- R25: an instruction whose runs are accumulation steps: the spec does not define these, and the model counts the runs of the products
and of `SCACC` (notes/assumptions/16). -/
def isProduct (x : EngKind) : Bool :=
  match x with
  | .mma _ _ _ _ _ _ _ _ => true
  | .mmabx _ _ _ _ _ _ => true
  | .scacc _ _ _ _ => true
  | _ => false

/-- R205: the rows that stay without a metadata word in a run: those of `errors` when the run reads the words of its group
of 24 positions, else those of the group's first run. -/
def lostRows (o : EngOp) (errors : List Nat) : List Nat :=
  match o.kind with
  | .mma true _ _ _ _ _ _ _ => if o.run % 3 = 0 then errors else o.lost
  | _ => []

/-- R196, R338: a lane parks at a queued move that has faulted. -/
def lateLane (o : EngOp) (cause : BitVec 8) (x : MemInfo) (ln : Lane) : Lane :=
  { parkLane ln { o.trec with cause := cause, lwin := ln.win, pred := ln.preds ||| 1, lat0 := none, lat1 := none, lat2 := none
                              lat3 := none, va := BitVec.ofNat 64 x.va, elem := BitVec.ofNat 32 x.elem
                              res := BitVec.ofNat 32 x.res, lane := BitVec.ofNat 5 x.lane } with
    lb := o.trec.blk, nb := none }

/-- R196, R215: a move faults in the engine, which happens only to one whose elements were all accessible at issue: the lanes that
its strand selected park at it, and what the block has queued after it leaves the queue, to be issued again in the replay
(notes/assumptions/24). -/
def lateFault (s : State) (o : EngOp) (n : Nat) (cause : BitVec 8) (x : MemInfo) : State :=
  let core := coreOfKey o.group
  let ops := smGet [] s.engines core
  let kept := ops.take n ++ (ops.drop n).filter fun y => !(y.group == o.group && y.trec.blk == o.trec.blk)
  let t := { s with engines := smSet [] s.engines core kept }
  match smFind t.groups o.group with
  | none => t
  | some g => settle t o.group (mapLanes g fun l ln => if o.sel.getLsbD l then lateLane o cause x ln else ln)

/-- R198: the engine of a core performs one run, in a cycle after that of the instruction's issue, so that all that issue in one cycle
have entered the queue in their order (R331). It waits for copies that write an extent (R203), and for what holds a line or bytes that a
move accesses (R257). `turn.errors` are the rows whose metadata word storage reports as uncorrectable when this run
reads it (R205). -/
def execEngineRun (turn : EngineTurn) (s : State) : Out :=
  let ops := smGet [] s.engines turn.core
  match engineChoice s ops with
  | none => .fault .notEnabled
  | some (n, o) =>
    match smFind s.groups o.group with
    | none => .fault .notEnabled
    | some g =>
      if o.cycle == s.cycle || engineWaits s g o then .fault .notEnabled
      else
        let ab := o.owned.getD (ownOperands s o)
        let o1 := { o with owned := some ab, lost := lostRows o turn.errors }
        let ops' := if o.run + 1 < engineRuns o.kind then ops.set n { o1 with run := o.run + 1 } else ops.eraseIdx n
        let s1 := if isProduct o.kind then countStep s turn.core g.launch else s
        let r := engineEffect { s1 with engines := smSet [] s1.engines turn.core ops' } g o1 ab.1 ab.2
        match r.2 with
        | none => .next r.1
        | some (cause, x) => .next (lateFault r.1 o n cause x)

/-! ### Tiles to and from memory, scratch and registers, at issue -/

/-- R196, R215: the `mem` form of `ACCLD` and `ACCST` at issue. One that would fault as things stand faults before any element has moved
(notes/assumptions/24). -/
def issueMemory (store : Bool) (tile : Nat) (x : ShapeReg) (rowm : DWord) (colm : BitVec 128) (c : Ctx) : GroupOut :=
  let slot := fun j => slotValue c.g (c.a - 0xD0 + j) 32
  match namedEntry c.s c.g.part (slot 0) [1] (some c.ty) with
  | .error cause => .trap cause (entryInfo c.s c.g.part (slot 0) 0 c.l cause)
  | .ok (raw, e) =>
    let y : MoveArgs :=
      { part := c.g.part, launch := c.g.launch, core := coreOfKey c.k, store := store, ty := c.ty, ext := extOf c.i, entry := e, res := slot 0
        first := slot 1, pitch := slot 2 }
    let place := TilePlace.mem raw (slot 0) (slot 1) (slot 2)
    match (moveAll c.s y (pickedElements x.gm x.gn rowm colm) (tileOf c.g tile).elems).2 with
    | none =>
      enqueue c (if store then .accst c.ty (extOf c.i) tile x.gm x.gn place else .accld c.ty tile x.gm x.gn place) rowm colm [] []
    | some ((cause, va), i) => .trap cause { va := va, elem := i, res := y.res, lane := c.l }

/-- R215: the `scr` form of `ACCLD` and `ACCST` at issue. -/
def issueScratch (store : Bool) (tile : Nat) (x : ShapeReg) (rowm : DWord) (colm : BitVec 128) (c : Ctx) : GroupOut :=
  let y := scratchSlots c.g c.a
  let sh := shapeMove c.ty x.gm x.gn
  let cluster := clusterOfCore (coreOfKey c.k)
  let place := TilePlace.scratch cluster y.off y.rp
  if !scratchSlotsOk y sh then .trap causeIllegalOperand {}
  else if store then enqueue c (.accst c.ty (extOf c.i) tile x.gm x.gn place) rowm colm [] []
  else enqueue c (.accld c.ty tile x.gm x.gn place) rowm colm (extentOf cluster y sh) []

/-- R197, R205, R215: `ACCLD` and `ACCST` capture their shape and masks and enter the queue once no queued instruction of the group
names their tile. Poison is looked at before the resource and the slots (notes/assumptions/57). -/
def issueMove (store : Bool) (z : BitVec 3) (t : BitVec 4) (f : BitVec 1) (c : Ctx) : GroupOut :=
  match captureShape c z.toNat none with
  | none => .trap causeIllegalOperand {}
  | some (x, rowm, colm) =>
    if tilesBusy c.s c.k (2 ^ t.toNat) then .stall (.engine (2 ^ t.toNat)) c.s c.g
    else if store && readsPoison (tileOf c.g t.toNat) (pickedElements x.gm x.gn rowm colm) then .trap causePoison {}
    else if f = 0 then issueMemory store t.toNat x rowm colm c
    else issueScratch store t.toNat x rowm colm c

/-- R215: load a tile. -/
def execAccld (z : BitVec 3) (t : BitVec 4) (a : BitVec 8) (f : BitVec 1) (m : Mods) (s : State) : Out :=
  execMatrix (.accld z t a f m) (fun g => t.toNat < g.nacc) (issueMove false z t f) s

/-- R215: store a tile. -/
def execAccst (z : BitVec 3) (t : BitVec 4) (a : BitVec 8) (f : BitVec 1) (m : Mods) (s : State) : Out :=
  execMatrix (.accst z t a f m) (fun g => t.toNat < g.nacc) (issueMove true z t f) s

/-- R216: the fragment of `ACCRD` ends at slot 127 or before, and within the allocation of every lane that the strand selects. -/
def readFits (c : Ctx) (regs : Nat) : Bool :=
  decide (c.d + regs ≤ 128) && (lanesOf c.sel).all fun l => decide ((getLane c.g l).win.toNat + c.d + regs ≤ c.g.nreg)

/-- R197, R205, R216: `ACCRD` captures its shape, masks and registers and enters the queue once no queued instruction of the group
names its tile or reads one of its registers as a fragment. -/
def issueRead (z : BitVec 3) (t : BitVec 4) (c : Ctx) : GroupOut :=
  match captureShape c z.toNat none with
  | none => .trap causeIllegalOperand {}
  | some (x, rowm, colm) =>
    if tilesBusy c.s c.k (2 ^ t.toNat) then .stall (.engine (2 ^ t.toNat)) c.s c.g
    else if !readFits c (fragRegs (x.gm * x.gn * sizeOf c.ty)) then .trap causeIllegalOperand {}
    else if readsPoison (tileOf c.g t.toNat) (pickedElements x.gm x.gn rowm colm) then .trap causePoison {}
    else if (lanesOf c.sel).any fun l =>
        fragmentReads c.s c.k l ((getLane c.g l).win.toNat + c.d) (fragRegs (x.gm * x.gn * sizeOf c.ty)) then stallQueue c
    else
      enqueue c (.accrd c.ty (extOf c.i) t.toNat x.gm x.gn (laneIxs.map fun l => (getLane c.g l).win.toNat + c.d)) rowm colm [] []

/-- R216: read a tile into registers. -/
def execAccrd (d : BitVec 7) (t : BitVec 4) (z : BitVec 3) (m : Mods) (s : State) : Out :=
  execMatrix (.accrd d t z m) (fun g => t.toNat < g.nacc) (issueRead z t) s

end Sys2Proof.Machine
end

