-- ==== Sys2Proof/Machine/Groomer.lean ====
section
/-!
DEFINITION. The groomer instructions, opcodes 0xD0-0xD5 (spec/16 R306 to R329), and the steps of the groomers (spec/95:
JOB_ROW_STEP, JOB_SUSPEND, JOB_RESUME, GLOAD_COMMIT, LATTACH_FREEZE, LFREE_RELEASE).
-/
namespace Sys2Proof.Machine

/-- Every kind of resource: the checks of R226 without check 3. -/
def anyKind : List Nat := [1, 2, 3, 4, 5, 6]

/-- A memory fault of the group at a resource entry (R306, R223, R226). -/
def entryFault (c : Ctx) (res : Nat) (cause : BitVec 8) : GroupOut := .trap cause (entryInfo c.s c.g.part res 0 c.l cause)

/-- A memory fault of the group at an address. -/
def placeFault (c : Ctx) (res elem : Nat) (f : MemFault) : GroupOut :=
  let s := faultEvent c.s c.g.part f.1 f.2 (coreOfKey c.k)
  .fail s c.g f.1 { va := f.2, elem := elem, res := res, lane := c.l }

/-- The group, moved past its instruction, waits for an item, which is put under the next number. -/
def waitItem (c : Ctx) (s : State) (kind : ItemKind) : GroupOut :=
  let n := s.nextItem
  let t : State := { s with nextItem := n + 1, items := smPut s.items n (newItem c c.l .running kind) }
  .held (settle t c.k (staleSwitch (advance { c.g with wait := .item n } c.r c.i)))

/-- The item of a group is done: its group goes on. -/
def endItem (s : State) (n : Nat) : State := { s with items := smErase s.items n }

/-- R308, R314: a byte offset in a linear resource: its alignment and end. -/
def offsetOk (e : Entry) (off align len : Nat) : Bool := off % align == 0 && decide (off + len ≤ linearBytes e)

/-! ### GLOAD -/

/-- R308: the image takes the place of a slot's image in every channel of the partition. -/
def writeSlot (s : State) (p slot : Nat) (image : BitVec 1536) : State :=
  match smFind s.parts p with
  | none => s
  | some x => putPart s p { x with slots := smSet 0 x.slots slot image }

/-- R313: a job names a slot. -/
def namesSlot (j : JobDesc) (slot : Nat) : Bool := j.fold.isNone && j.phases.any fun ph => ph.slot == slot

/-- R308: the jobs of a partition at the channels that name a slot. -/
def slotJobs (s : State) (p slot : Nat) : List Nat :=
  (s.items.filter fun e => e.2.part == p && (match e.2.istate, e.2.kind with
    | .running, .job j => namesSlot j slot
    | _, _ => false)).map (·.1)

/-- R308: read the image of a `GLOAD`; it is written at once unless jobs, or the schedule, put that off. -/
def loadSlot (slot res off : Nat) (e : Entry) (c : Ctx) : GroupOut :=
  let p := c.g.part
  match entryBytes c.s p e off 192 with
  | .error f => placeFault c res 0 f
  | .ok bs =>
    let image := BitVec.ofNat 1536 (leNat bs)
    let s := countPeer c.s p (e.base + off)
    if !imageValid image then .fail s c.g causeIllegalOperand {}
    else
      let jobs := slotJobs s p slot
      if jobs.isEmpty && !s.defer then .done (writeSlot s p slot image) c.g
      else waitItem c { s with stamp := s.stamp + 1 } (.gload slot image s.stamp jobs)

/-- R308: `GLOAD` at issue. -/
def issueGload (slot : Nat) (c : Ctx) : GroupOut :=
  let off := readUniN32 c c.a
  let res := resourceIndex c c.b
  match namedEntry c.s c.g.part res [1] none with
  | .error cause => entryFault c res cause
  | .ok (_, e) =>
    if !offsetOk e off 64 192 then .trap causeIllegalOperand {}
    else whenFree c (linesFrom (e.base + off) 192) [] 192 (loadSlot slot res off e)

/-- R308: load a graph image into a slot. -/
def execGload (sl : BitVec 3) (a : BitVec 8) (b : BitVec 8) (m : Mods) (s : State) : Out :=
  execGroup (.gload sl a b m) true false (issueGload sl.toNat) s

/-- Whether an item is at work. -/
def itemRunning (s : State) (n : Nat) : Bool := (smFind s.items n).any fun x => x.istate == .running

/-- R308: the image is written once every job that it waits for has completed or stopped. -/
def execGloadCommit (item : Nat) (s : State) : Out :=
  match smFind s.items item with
  | none => .fault .notEnabled
  | some x =>
    match x.kind with
    | .gload slot image _ jobs =>
      if jobs.any (itemRunning s) then .fault .notEnabled
      else .next (writeSlot (endItem s item) x.part slot image)
    | _ => .fault .notEnabled

/-! ### GJOB and GSTAT -/

/-- R310: a format that can be streamed. -/
def streamable (t : BitVec 5) : Bool := t != 9 && t != 10 && !tyIsBlock t

/-- R314: the checks of a resource that a job names, against phase 0's `S0`. -/
def streamOk (kinds : List Nat) (e first : Entry) : Bool :=
  kinds.contains e.kind && streamable e.fmt && tyBits e.fmt == tyBits first.fmt && e.base % 2 ^ 21 == first.base % 2 ^ 21

/-- R313: a phase's fields. -/
structure PhaseFields where
  out : Nat
  s1 : Nat
  s0 : Nat
  oe : Bool
  s1e : Bool
  slot : Nat
  reserved : Bool
  deriving DecidableEq, Repr

/-- R313: read the fields of a phase. -/
def phaseFields (v : Nat) : PhaseFields :=
  { out := bitsOf v 112 16, s1 := bitsOf v 96 16, s0 := bitsOf v 80 16, oe := bitsOf v 5 1 == 1, s1e := bitsOf v 4 1 == 1
    slot := bitsOf v 0 3, reserved := bitsOf v 6 74 != 0 || bitsOf v 3 1 != 0 }

/-- An entry that a phase names, when it names one: a fault names its index. -/
def phaseEntry (s : State) (p idx : Nat) (used : Bool) : Except (BitVec 8 × Nat) (Option (BitVec 512)) :=
  if used then
    match namedEntry s p idx anyKind none with
    | .ok (raw, _) => .ok (some raw)
    | .error cause => .error (cause, idx)
  else .ok none

/-- R314: a phase with the entries it names. -/
def readPhase (s : State) (p : Nat) (x : PhaseFields) : Except (BitVec 8 × Nat) Phase := do
  let s0 ← phaseEntry s p x.s0 true
  let s1 ← phaseEntry s p x.s1 x.s1e
  let out ← phaseEntry s p x.out x.oe
  .ok { slot := x.slot, s0 := s0.getD 0, s0ix := BitVec.ofNat 32 x.s0, s1 := s1, s1ix := BitVec.ofNat 32 x.s1
        out := out, outIx := BitVec.ofNat 32 x.out }

/-- R314: the phases of a descriptor. -/
def readPhases (s : State) (p : Nat) (xs : List PhaseFields) : Except (BitVec 8 × Nat) (List Phase) :=
  match xs with
  | [] => .ok []
  | x :: rest => do
    let a ← readPhase s p x
    let as ← readPhases s p rest
    .ok (a :: as)

/-- R314: the resources of a phase fit. -/
def phaseOk (first : Entry) (x : Phase) : Bool :=
  streamOk [1, 2, 3] (entryOf x.s0) first && (x.s1.all fun e => streamOk [1, 2, 3] (entryOf e) first)
    && (x.out.all fun e => streamOk [1, 2] (entryOf e) first)

/-- A job as it stands before its batch closes. -/
def newJob (phases : List Phase) (first count : Nat) (fold : Option (BitVec 512)) : JobDesc :=
  { phases := phases, first := first, count := count, fold := fold, chans := [], sent := 0, queued := 0, skipped := 0
    skipElem := 0, skipRes := 0, rowsDone := 0, fault := none }

/-- R314: a checked job enters the pending items and takes the next job number. -/
def acceptJob (c : Ctx) (j : JobDesc) : GroupOut :=
  let n := c.g.njobs + 1
  if n = 2 ^ 32 then .fail c.s c.g causeIllegalOperand {}
  else
    let r := addItem c.s c.g (newItem c c.l .pending (.job j))
    .done r.1 (writeUni { r.2 with njobs := n, jobs := smPut r.2.jobs n c.s.nextItem } c.d 6 n)

/-- R313: the bytes of a descriptor that are read: its header, and its phases when they lie in the resource. -/
def descriptorBytes (c : Ctx) (e : Entry) (off : Nat) : Nat :=
  match entryBytes c.s c.g.part e off 32 with
  | .error _ => 32
  | .ok hb =>
    let n := 32 + 16 * (bitsOf (leNat hb) 0 4 + 1)
    if offsetOk e off 32 n then n else 32

/-- R313, R314: a job from the descriptor at byte `off` of a resource. A fault of a resource that it names is raised with the events
of the reads. -/
def jobFrom (res off : Nat) (e : Entry) (c : Ctx) : GroupOut :=
  let p := c.g.part
  let illegal := GroupOut.fail c.s c.g causeIllegalOperand {}
  match entryBytes c.s p e off 32 with
  | .error f => placeFault c res 0 f
  | .ok hb =>
    let h := leNat hb
    let n := bitsOf h 0 4 + 1
    let first := bitsOf h 32 32
    let count := bitsOf h 64 32
    if !offsetOk e off 32 (32 + 16 * n) || bitsOf h 4 28 != 0 || bitsOf h 96 160 != 0 || count == 0
        || decide (2 ^ 32 < first + count) then illegal
    else match entryBytes c.s p e (off + 32) (16 * n) with
      | .error f => placeFault c res 0 f
      | .ok pb =>
        let fields := (List.range n).map fun q => phaseFields (leNat ((pb.drop (16 * q)).take 16))
        if fields.any (·.reserved) then illegal
        else match readPhases c.s p fields with
          | .error (cause, idx) =>
            let x := entryInfo c.s p idx 0 c.l cause
            .fail (faultEvent c.s p cause x.va (coreOfKey c.k)) c.g cause x
          | .ok phases =>
            if phases.all (phaseOk (entryOf ((phases.map (·.s0)).headD 0))) then
              acceptJob { c with s := countPeer c.s p (e.base + off) } (newJob phases first count none)
            else illegal

/-- R313, R314: `GJOB` at issue; the seventeenth job in flight waits before its descriptor is read. -/
def issueGjob (c : Ctx) : GroupOut :=
  let off := readUniN32 c c.a
  let res := resourceIndex c c.b
  match namedEntry c.s c.g.part res [1] none with
  | .error cause => entryFault c res cause
  | .ok (_, e) =>
    if !offsetOk e off 32 32 then .trap causeIllegalOperand {}
    else if flightCount c.s c.g isJob ≥ 16 then .stall .jobRoom c.s c.g
    else
      let n := descriptorBytes c e off
      whenFree c (linesFrom (e.base + off) n) [] n (jobFrom res off e)

/-- R314: start a job. -/
def execGjob (d : BitVec 7) (a : BitVec 8) (b : BitVec 8) (m : Mods) (s : State) : Out :=
  execGroup (.gjob d a b m) true false issueGjob s

/-- R317: the state of a job. -/
def jobStatus (x : Item) (j : JobDesc) : Nat :=
  let st := match x.istate with
    | .pending => 1
    | .running => 2
    | .complete => 3
    | .stopped _ => 4
  st * 2 ^ 29 + (if j.chans.any fun e => e.2.suspended then 2 ^ 28 else 0) + min j.rowsDone (2 ^ 28 - 1)

/-- R317: the status that a job number gives. -/
def jobNumberStatus (s : State) (g : Group) (n : Nat) : Nat :=
  match (smFind g.jobs n).bind (smFind s.items) with
  | some x => match x.kind with
    | .job j => jobStatus x j
    | _ => 0
  | none => 0

/-- R317: read the state of a job. -/
def execGstat (d : BitVec 7) (b : BitVec 8) (m : Mods) (s : State) : Out :=
  execGroup (.gstat d b m) true false (fun c => .done c.s (writeUni c.g c.d 6 (jobNumberStatus c.s c.g (resourceIndex c c.b)))) s

/-! ### Row steps -/

/-- R316: a row of a resource lies in a peer window, in whole or in part. -/
def rowInPeer (s : State) (p row : Nat) (e : Entry) : Bool :=
  (rowElements e row).any fun x => x.any fun y => inPeerWindow s p (elemAddr e y)

/-- R315, R316: the fault of a row that lies out of bounds under `BND` 0, or in a peer window, with its resource. -/
def rowFault (s : State) (p row : Nat) (uses : List (Entry × Nat)) : Option (BitVec 8 × Nat) :=
  uses.findSome? fun u =>
    if (rowElements u.1 row).any (·.isNone) && u.1.bnd = 0 then some (causeBounds, u.2)
    else if rowInPeer s p row u.1 then some (causeKind, u.2)
    else none

/-- R316, R329: the fault of a fold's row in a peer window, with its resource. -/
def foldFault (s : State) (p row : Nat) (uses : List (Entry × Nat)) : Option (BitVec 8 × Nat) :=
  (uses.find? fun u => rowInPeer s p row u.1).map fun u => (causeKind, u.2)

/-- R315: the resource whose `BND` 1 skips a row. -/
def rowSkip (row : Nat) (uses : List (Entry × Nat)) : Option Nat :=
  (uses.find? fun u => u.1.bnd == 1 && (rowElements u.1 row).any (·.isNone)).map (·.2)

/-- R310: the row of a stream as lane values, 0 out of bounds. -/
def streamRow (s : State) (p : Nat) (im : BitVec 1536) (which : Nat) (e : Entry) (xs : List (Option (List Nat))) :
    Except MemFault (List Word) :=
  match xs with
  | [] => .ok []
  | x :: rest => do
    let v ← (match x with
      | some y => (readElement s p e y).map (enterLane im which e.fmt)
      | none => .ok 0)
    let vs ← streamRow s p im which e rest
    .ok (v :: vs)

/-- R301: one beat in every lane: the output, and the state after it. -/
def beatRow (im : BitVec 1536) (st : GraphState) (x0 x1 : List Word) : List Word × GraphState :=
  (List.range 32).foldl (fun (acc : List Word × GraphState) i =>
    let r := beatLane im i acc.2 (x0.getD i 0) (x1.getD i 0)
    (acc.1 ++ [r.1], r.2)) ([], st)

/-- The first write of a row that would fault. -/
def rowWriteFault (s : State) (p : Nat) (e : Entry) (xs : List (Option (List Nat))) : Except MemFault Unit :=
  match xs with
  | [] => .ok ()
  | some y :: rest => do
    let _ ← faultAt (elemAddr e y) (writablePlace s p (elemAddr e y))
    rowWriteFault s p e rest
  | none :: rest => rowWriteFault s p e rest

/-- R313, R311: write a row, as one event. -/
def writeRow (s0 s : State) (p : Nat) (e : Entry) (all : List (Nat × Nat)) (xs : List (Option (List Nat) × Nat)) :
    Except MemFault State :=
  match xs with
  | [] => .ok s
  | (some y, v) :: rest => do
    let w ← placedPattern s0 p e all y v
    let t ← writeElement s p { e with gwe := false } y w
    writeRow s0 t p e all rest
  | (none, _) :: rest => writeRow s0 s p e all rest

/-- R311, R315, R324, R348: the output of a row step: its checks, then the writes; a row out of bounds is not written. -/
def outputRow (s : State) (p row : Nat) (e : Entry) (res : Nat) (vals : List Nat) : Except MemFault State := do
  let xs := rowElements e row
  if xs.all (·.isNone) then .ok s
  else match writeChecks s p res e with
  | .error cause => .error (cause, 0)
  | .ok _ => do
    rowWriteFault s p e xs
    let all := (xs.zip vals).filterMap fun x => x.1.map fun y => (elemAddr e y, x.2)
    let t ← writeRow s s p e all (xs.zip vals)
    .ok { healRanges t p (all.map fun x => (x.1, sizeOf e.fmt)) with freeCtr := t.freeCtr + 128 }

/-- R313, R315: one row step of a job: the state and the channel's graph state after it; a fault with the index of its
resource. -/
def jobStep (s : State) (p : Nat) (im : BitVec 1536) (ph : Phase) (row : Nat) (st : GraphState) :
    Except (MemFault × Nat) (State × GraphState) := do
  let name := fun {α : Type} (res : Nat) (x : Except MemFault α) =>
    (match x with | .ok v => .ok v | .error f => .error (f, res) : Except (MemFault × Nat) α)
  let e0 := entryOf ph.s0
  let x0 ← name ph.s0ix.toNat (streamRow s p im 1 e0 (rowElements e0 row))
  let x1 ← (match ph.s1 with
    | some e => name ph.s1ix.toNat (streamRow s p im 2 (entryOf e) (rowElements (entryOf e) row))
    | none => .ok (List.replicate 32 0))
  let b := beatRow im st x0 x1
  match ph.out with
  | none => .ok (s, b.2)
  | some o => do
    let e := entryOf o
    let t ← name ph.outIx.toNat (outputRow s p row e ph.outIx.toNat (b.1.map (leaveLaneAs im e.fmt)))
    .ok (t, b.2)

/-- R329: the merged values of a row of a handle, 0 past its end. -/
def foldRow (s : State) (p : Nat) (h : Entry) (xs : List (Option (List Nat))) : Except MemFault (List Nat) :=
  match xs with
  | [] => .ok []
  | x :: rest => do
    let v ← (match x with | some y => readElement s p h y | none => .ok 0)
    let vs ← foldRow s p h rest
    .ok (v :: vs)

/-- R329: one row of a fold. -/
def foldRowStep (s : State) (p : Nat) (ph : Phase) (row : Nat) : Except (MemFault × Nat) State :=
  let h := entryOf ph.s0
  match foldRow s p h (rowElements h row) with
  | .error f => .error (f, ph.s0ix.toNat)
  | .ok vals =>
    let e := entryOf (ph.out.getD 0)
    match outputRow s p row e ph.outIx.toNat vals with
    | .error f => .error (f, ph.outIx.toNat)
    | .ok t => .ok t

/-- R313: the channel moves to the next phase, or past the row after its last. -/
def nextStep (j : JobDesc) (ch : ChanJob) : ChanJob × Nat :=
  if ch.phase + 1 < j.phases.length then ({ ch with phase := ch.phase + 1 }, 0)
  else ({ ch with phase := 0, rows := ch.rows.drop 1, counted := false }, 1)

/-- R314, R315: a job whose every channel has ended its rows, or stopped, is complete or stopped. -/
def settleJob (s : State) (n : Nat) (x : Item) (j : JobDesc) : State :=
  if j.chans.all fun e => e.2.rows.isEmpty || e.2.stopped then
    match j.fault with
    | some r => stopItem { s with items := s.items.map fun e => (e.1, unwaited n e.2) } n { x with kind := .job j, istate := .stopped r }
    | none => putItem (itemDrops s x j.skipRes j.skipped j.skipElem) n { x with kind := .job j, istate := .complete }
  else putItem s n { x with kind := .job j }

/-- R315: a row whose step is skipped is counted, once; the first in row order names the record. -/
def countSkip (j : JobDesc) (ch : ChanJob) (row res : Nat) : JobDesc :=
  if ch.counted then j
  else if j.skipped = 0 || 32 * row < j.skipElem then { j with skipped := j.skipped + 1, skipElem := 32 * row, skipRes := res }
  else { j with skipped := j.skipped + 1 }

/-- The state of a channel put back after a step. -/
def putChan (j : JobDesc) (channel : Nat) (ch : ChanJob) (rows : Nat) : JobDesc :=
  { j with chans := smPut j.chans channel ch, rowsDone := j.rowsDone + rows }

/-- R315: the channel stops the job before a row step that faults and keeps its state. -/
def stopChan (s : State) (n : Nat) (x : Item) (j : JobDesc) (channel : Nat) (ch : ChanJob) (row : Nat) (f : MemFault) (res : Nat) : State :=
  let s1 := faultEvent s x.part f.1 f.2 x.core
  let r := itemRec x f.1 f.2 (32 * row) res 0
  settleJob s1 n x { putChan j channel { ch with stopped := true } 0 with fault := some (j.fault.getD r) }

/-- The addresses of a row of a resource. -/
def rowAddrs (s : State) (x : Item) (row : Nat) (e : Entry) : List Nat :=
  (rowElements e row).filterMap fun xs => xs.map (dataAddr s x.part e)

/-- R318, R220, R222, R346: the line requests of a row step for its streams' lines, with the walks for the records of handles. -/
def stepReads (s : State) (x : Item) (row : Nat) (ph : Phase) : State :=
  let streams := entryOf ph.s0 :: (ph.s1.map entryOf).toList
  lineRequests (streams.foldl (fun t e => handleEvent t x.part x.core e) s) x.part x.core (some x.launch)
    (streams.flatMap (rowAddrs s x row)) []

/-- R318, R220, R222: the line requests of a row step for its output's lines, with the walk for the freeze count. -/
def stepWrites (s : State) (x : Item) (row : Nat) (ph : Phase) : State :=
  let addrs := (ph.out.map entryOf).toList.flatMap (rowAddrs s x row)
  if addrs.isEmpty then s else lineRequests (freezeEvent s x.part ph.outIx.toNat x.core) x.part x.core (some x.launch) [] addrs

/-- R315, R316, R329: one row step of a job or fold at a channel. -/
def stepChan (s : State) (n : Nat) (x : Item) (j : JobDesc) (channel : Nat) (ch : ChanJob) (row : Nat) (ph : Phase) : State :=
  let p := x.part
  let uses := phaseUses ph
  let done := fun (t : State) (ch' : ChanJob) (j' : JobDesc) =>
    let r := nextStep j' ch'
    settleJob t n x (putChan j' channel r.1 r.2)
  if j.fold.isSome then
    match foldFault s p row uses with
    | some (cause, res) => stopChan s n x j channel ch row (cause, 0) res
    | none => match foldRowStep (stepReads s x row ph) p ph row with
      | .ok t => done (stepWrites t x row ph) ch j
      | .error (f, res) => stopChan s n x j channel ch row f res
  else match rowFault s p row uses with
    | some (cause, res) => stopChan s n x j channel ch row (cause, 0) res
    | none =>
      match rowSkip row uses with
      | some res => done s { ch with counted := true } (countSkip j ch row res)
      | none =>
        match jobStep (stepReads s x row ph) p (ch.images.getD ch.phase 0) ph row { acc := ch.acc, prev := ch.prev } with
        | .error (f, res) => stopChan s n x j channel ch row f res
        | .ok (t, st) => done (stepWrites t x row ph) { ch with acc := st.acc, prev := st.prev } j

/-- R314: the running jobs and folds that still have rows at a channel, with their places in its order. -/
def channelQueue (s : State) (p channel : Nat) : List (Nat × Nat) :=
  s.items.filterMap fun e =>
    match e.2.istate, e.2.kind with
    | .running, .job j =>
      match smFind j.chans channel with
      | some ch => if e.2.part == p && !ch.rows.isEmpty && !ch.stopped then some (e.1, j.queued) else none
      | none => none
    | _, _ => none

/-- R314: it is an item's turn at a channel: no job reached it earlier. -/
def channelTurn (s : State) (p channel n queued : Nat) : Bool :=
  (channelQueue s p channel).all fun q => q.1 == n || decide (queued < q.2) || (q.2 == queued && decide (n < q.1))

/-- R308: a job sent after a `GLOAD` of one of its slots issued starts at a channel only after the image is written. -/
def gloadBlocks (s : State) (p : Nat) (j : JobDesc) : Bool :=
  s.items.any fun e => e.2.part == p && (match e.2.kind with
    | .gload slot _ issued _ => namesSlot j slot && decide (issued < j.sent)
    | _ => false)

/-- R308: the images of a job's phases as the slots hold them. -/
def phaseImages (s : State) (p : Nat) (j : JobDesc) : List (BitVec 1536) := j.phases.map fun ph => slotImage s p ph.slot

/-- The job of an item with its state at a channel. -/
def jobAt (s : State) (item channel : Nat) : Option (Item × JobDesc × ChanJob) :=
  match smFind s.items item with
  | none => none
  | some x => match x.istate, x.kind with
    | .running, .job j => (smFind j.chans channel).map fun ch => (x, j, ch)
    | _, _ => none

/-- R314, R318: the lines of a row step that other channels home: ordinary requests to them. -/
def farLines (s : State) (p channel row : Nat) (ph : Phase) : List Nat :=
  match smFind s.parts p with
  | none => []
  | some y => (rowLines s p row ph).filter fun l => (peerWindowOf y l).isNone && channelOf y l != channel

/-- R257, R316, R318, R349: a row step can be performed: the earlier accesses of its group are, no line of it is held by a stopped copy
or by its channel, and no job holds the bank of a line at another channel. -/
def rowReady (s : State) (item : Nat) (x : Item) (channel row : Nat) (ph : Phase) : Bool :=
  !itemFollows s item x && !channelHeld s channel && ((rowLines s x.part row ph).all fun l => inPeerWindow s x.part l || !addressHeld s x.part l)
    && !(farLines s x.part channel row ph).any (bankBusy s x.part)

/-- R378: the bytes of those ordinary requests. -/
def farBytes (s : State) (x : Item) (channel row : Nat) (ph : Phase) : Nat := 128 * (farLines s x.part channel row ph).length

/-- The die of a channel. -/
def dieOfChannel (c : Nat) : Nat := stackOfChannel c / 2

/-- R316: a channel performs the next row step of a job. -/
def execJobRowStep (item channel : Nat) (s : State) : Out :=
  match jobAt s item channel with
  | none => .fault .notEnabled
  | some (x, j, ch) =>
    match ch.rows, j.phases[ch.phase]? with
    | row :: _, some ph =>
      let far := farBytes s x channel row ph
      if ch.stopped || ch.suspended || !channelTurn s x.part channel item j.queued || !rowReady s item x channel row ph
          || (ch.images.isEmpty && gloadBlocks s x.part j)
          || (far ≠ 0 && !rateAllows s x.part (dieOfChannel channel) far) then .fault .notEnabled
      else
        let ch' := if ch.images.isEmpty then { ch with images := phaseImages s x.part j } else ch
        .next (stepChan (takeBytes s x.part (dieOfChannel channel) far) item x j channel ch' row ph)
    | _, _ => .fault .notEnabled

/-- The addresses of the lines that an item of a copy engine or gather unit has still to move. -/
def itemAddrs (s : State) (x : Item) : List Nat :=
  match x.kind with
  | .copy c => copyEnds s x.part c
  | .list l => indexAddrs l l.todo ++ listAddrs s x.part l l.todo
  | _ => []

/-- R314, R318: the lines at other channels of the row steps that are next at the channels of a job. -/
def waitingLines (s : State) (n : Nat) (x : Item) : List Nat :=
  match x.istate, x.kind with
  | .running, .job j => j.chans.flatMap fun e => match e.2.rows, j.phases[e.2.phase]? with
      | row :: _, some ph =>
        if e.2.stopped || e.2.suspended || !channelTurn s x.part e.1 n j.queued then [] else farLines s x.part e.1 row ph
      | _, _ => []
  | _, _ => []

/-- R311: the lines that queued `ACCST`s and requested saves of a partition send through graphs. -/
def graphLines (s : State) (p : Nat) : List Nat :=
  (s.engines.flatMap fun e => e.2.flatMap fun o => match queuedMove s p o with
      | some x => if x.store && x.entry.gwe then moveAddrs x (opElements o) else []
      | none => [])
    ++ s.groups.flatMap fun e => match e.2.ctxReq with
      | some (.save _ va raw) => if e.2.part = p && (entryOf raw).gwe then linesFrom va (imageSize e.2) else []
      | _ => []

/-- R318, R319, R330: an ordinary request of a partition waits for one of some banks of a channel: an access that is open, a
copy or list instruction in flight, the next row step of a job at another channel, a completion add, or a store through a graph has a
line there. -/
def ordinaryWaits (s : State) (p channel : Nat) (banks : List Nat) : Bool :=
  match smFind s.parts p with
  | none => false
  | some x =>
    let there := fun va => channelOf x va == channel && banks.contains (bankOf va)
    (s.reqs.any fun e => e.2.part == p && e.2.accs.any fun a =>
        !a.done && (!a.translated || throughGraph s e.2 a) && (accPlaces s e.2 a).any there)
      || (s.items.any fun e => e.2.part == p && inFlight e.2 && (itemAddrs s e.2).any there)
      || (s.items.any fun e => e.2.part == p && (waitingLines s e.1 e.2).any there)
      || (s.launches.any fun e => e.2.part == p && e.2.lstate == .completing && recSignal e.2.lrec != 0 && there (recSignal e.2.lrec))
      || (graphLines s p).any there

/-- The banks that a job would hold at a channel if it ran. -/
def wouldHold (s : State) (x : Item) (j : JobDesc) (channel : Nat) (ch : ChanJob) : List Nat :=
  match smFind s.parts x.part with
  | some y => jobBanks s x.part y j channel { ch with suspended := false }
  | none => []

/-- R319, R349: a job suspends at a channel between two row steps, when an ordinary request waits for a bank that it holds, or the
channel is held. -/
def execJobSuspend (item channel : Nat) (s : State) : Out :=
  match jobAt s item channel with
  | none => .fault .notEnabled
  | some (x, j, ch) =>
    if ch.rows.isEmpty || ch.stopped || ch.suspended || ch.images.isEmpty
        || !(channelHeld s channel || ordinaryWaits s x.part channel (wouldHold s x j channel ch)) then .fault .notEnabled
    else .next (putItem s item { x with kind := .job (putChan j channel { ch with suspended := true } 0) })

/-- R320, R349: a suspended job resumes when no ordinary request waits for a bank that it would hold and its channel serves
requests. -/
def execJobResume (item channel : Nat) (s : State) : Out :=
  match jobAt s item channel with
  | none => .fault .notEnabled
  | some (x, j, ch) =>
    if ch.suspended && !channelHeld s channel && !ordinaryWaits s x.part channel (wouldHold s x j channel ch) then
      .next (putItem s item { x with kind := .job (putChan j channel { ch with suspended := false } 0) })
    else .fault .notEnabled

/-! ### Layered handles -/

/-- The formats of R322. -/
def layerFormat (t : BitVec 5) : Bool := t == 16 || t == 17 || t == 18

/-- R226: an entry that passes checks 1 and 2. -/
def soundEntry (s : State) (p idx : Nat) : Option Entry :=
  match namedEntry s p idx anyKind none with
  | .ok (_, e) => some e
  | .error _ => none

/-- R322: the indices of a list from `k` on are strictly ascending and below a bound. -/
def indicesAscend (s : State) (p : Nat) (list : Entry) (bound : Nat) (prev : Int) (k n : Nat) : Except MemFault Bool :=
  match n with
  | 0 => .ok true
  | n + 1 => do
    let v ← plainElement s p list [k, 0, 0, 0]
    if prev < v && v < bound then indicesAscend s p list bound v (k + 1) n else .ok false

/-- R322: a factor of a low-rank layer. -/
def factorOk (e : Option Entry) (rank extent : Nat) : Bool :=
  e.any fun f => f.kind == 2 && layerFormat f.fmt && f.ndim == 1 && f.dim0 == rank && f.dim1 == extent

/-- R322: a layer fits a base. -/
def layerFits (s : State) (p : Nat) (base lay : Entry) : Except MemFault Bool :=
  if lay.kind = 4 then
    match soundEntry s p (bitsOf lay.ksp 0 16) with
    | some list =>
      if layerFormat lay.fmt && list.kind == 1 && list.fmt == 6 && list.dim0 == lay.dim0 then
        indicesAscend s p list (elementCount base) (-1) 0 list.dim0
      else .ok false
    | none => .ok false
  else
    let rank := bitsOf lay.ksp 0 6 + 1
    .ok (base.ndim == 1 && factorOk (soundEntry s p (bitsOf lay.ksp 16 16)) rank base.dim1
      && factorOk (soundEntry s p (bitsOf lay.ksp 32 16)) rank base.dim0)

/-- R322: the lines of the index list of a sparse layer, which an attach reads, and their bytes. -/
def layerLines (s : State) (p : Nat) (lay : Entry) : List Nat × Nat :=
  if lay.kind = 4 then
    match soundEntry s p (bitsOf lay.ksp 0 16) with
    | some list => if list.kind = 1 && list.dim0 = lay.dim0 then (linesFrom list.base (linearBytes list), linearBytes list) else ([], 0)
    | none => ([], 0)
  else ([], 0)

/-- R324: the entries of a layer that are frozen with it. -/
def layerParts (s : State) (p idx : Nat) : List Nat :=
  match entryAt s p idx with
  | some e => if e.kind = 4 then [idx, bitsOf e.ksp 0 16] else [idx, bitsOf e.ksp 16 16, bitsOf e.ksp 32 16]
  | none => [idx]

/-- R324: the entries that an attach freezes. -/
def frozenBy (s : State) (p base : Nat) (layers : List Nat) : List Nat := base :: layers.flatMap (layerParts s p)

/-- R324: change the count of an entry in the freeze table, which is read first. -/
def bumpFreeze (s : State) (p core idx : Nat) (up : Bool) : State :=
  match smFind s.parts p with
  | none => s
  | some x =>
    let n := freezeCount s p idx
    pokeVa (freezeEvent s p idx core) p (x.regs.fzbase.toNat + 2 * idx) (leBytes 2 (if up then n + 1 else n + (2 ^ 16 - 1)))

/-- R321: the address of the lowest free record of the pool. -/
def freeRecord (s : State) (p : Nat) (x : Partition) : Option Nat :=
  ((List.range 4096).map fun i => x.regs.hbase.toNat + 64 * i).find? fun a =>
    match readVa s p a 64 with
    | some v => bitsOf v 256 4 == 0
    | none => false

/-- R323: the lowest room of `n` units in the view space. -/
def viewRoom (used : SMap (Nat × Nat)) (n at_ : Nat) : Option Nat :=
  match used with
  | [] => if at_ + n ≤ 2 ^ 23 then some at_ else none
  | (u, (len, _)) :: rest => if at_ + n ≤ u then some at_ else viewRoom rest n (max at_ (u + len))

/-- The bytes from the first to the last of a resource. -/
def spanBytes (e : Entry) : Nat :=
  (dimOf e 1 - 1) * pitchOf e 1 + (dimOf e 2 - 1) * pitchOf e 2 + (dimOf e 3 - 1) * pitchOf e 3 + rowBytes e.fmt (dimOf e 0)

/-- R321: a record. -/
def recordBits (vbase ent base : Nat) (layers : List Nat) : Nat :=
  vbase % 2 ^ 52 * 2 ^ 448 + ent % 2 ^ 16 * 2 ^ 432 + base % 2 ^ 16 * 2 ^ 416
    + layers.foldr (fun l acc => l % 2 ^ 16 + 2 ^ 16 * acc) 0 * 2 ^ 288 + layers.length * 2 ^ 256

/-- R323: the entry of a handle. -/
def handleEntry (b : Entry) (vbase recordAt : Nat) : BitVec 512 :=
  BitVec.ofNat 512 (recordAt * 2 ^ 448 + b.pitch3 * 2 ^ 384 + b.pitch2 * 2 ^ 320 + b.pitch1 * 2 ^ 256 + b.dim3 * 2 ^ 224
    + b.dim2 * 2 ^ 192 + b.dim1 * 2 ^ 160 + b.dim0 * 2 ^ 128 + vbase % 2 ^ 52 * 2 ^ 64 + 3 * 2 ^ 60 + b.fmt.toNat * 2 ^ 55
    + b.bnd * 2 ^ 53 + 2 ^ 52 + b.ndim * 2 ^ 42)

/-- R327: the factors of the low-rank layers of a list with their bytes. -/
def factorsOf (s : State) (p : Nat) (layers : List Nat) : List (Nat × Nat) :=
  layers.flatMap fun l => match entryAt s p l with
    | some e =>
      if e.kind = 5 then
        [bitsOf e.ksp 16 16, bitsOf e.ksp 32 16].map fun i => (i, match entryAt s p i with | some f => spanBytes f | none => 0)
      else []
    | none => []

/-- The bytes of factors. -/
def factorBytes (fs : SMap Nat) : Nat := (fs.map (·.2)).foldl (· + ·) 0

/-- R327: the factors enter every stack's store when they have room beside those of the other partitions. -/
def storeFactors (s : State) (p : Nat) (x : Partition) (fs : List (Nat × Nat)) : Partition :=
  let all := fs.foldl (fun acc f => smSet 0 acc f.1 f.2) x.factors
  let others := ((s.parts.filter fun e => e.1 != p).map fun e => factorBytes e.2.factors).foldl (· + ·) 0
  if factorBytes all + others ≤ 2 ^ 23 then { x with factors := all } else x

/-- Write a resource entry (R223). -/
def writeEntry (s : State) (p idx : Nat) (e : BitVec 512) : State :=
  match smFind s.parts p with
  | some x => pokeVa s p (x.regs.rtbase.toNat + 64 * idx) (leBytes 64 e.toNat)
  | none => s

/-- R324: the requests of a partition whose writes have passed the check of an entry of a list and are not performed. -/
def writersOf (s : State) (p : Nat) (entries : List Nat) : List Nat :=
  (s.reqs.filter fun e => e.2.part == p && entries.contains e.2.res.toNat && e.2.accs.any fun a => !a.done && (match a.op with
    | .load _ => false
    | .gather _ => false
    | _ => true)).map (·.1)

/-- R324: an `ACCST` that has passed the check of an entry of a list is queued. -/
def storesQueued (s : State) (p : Nat) (entries : List Nat) : Bool :=
  s.engines.any fun e => e.2.any fun o => (queuedMove s p o).any fun x => x.store && entries.contains x.res

/-- R323, R324: attach: freeze, write the record; the entry and the status follow when no earlier write of the frozen
entries is open. -/
def attach (c : Ctx) (baseIx : Nat) (base : Entry) (layers : List Nat) (dst : Nat) : GroupOut :=
  let p := c.g.part
  let status := fun (n : Nat) => GroupOut.done c.s (writeUni c.g c.d 6 n)
  match smFind c.s.parts p with
  | none => status 1
  | some x =>
    let units := (base.base % 2 ^ 21 + spanBytes base + 2 ^ 21 - 1) / 2 ^ 21
    match freeRecord c.s p x, viewRoom x.views units 0 with
    | some at_, some start =>
      let vbase := x.regs.vwbase.toNat + start * 2 ^ 21 + base.base % 2 ^ 21
      let frozen := frozenBy c.s p baseIx layers
      let x1 := storeFactors c.s p { x with views := smPut x.views start (units, at_), frozen := smPut x.frozen at_ frozen }
        (factorsOf c.s p layers)
      let s1 := frozen.foldl (fun t i => bumpFreeze t p (coreOfKey c.k) i true) (putPart c.s p x1)
      let s2 := pokeVa s1 p at_ (leBytes 64 (recordBits vbase dst baseIx layers))
      let h := handleEntry base vbase at_
      let open_ := writersOf c.s p frozen
      if open_.isEmpty && !c.s.defer then .done (writeEntry s2 p dst h) (writeUni c.g c.d 6 0)
      else waitItem c s2 (.lattach dst h (c.g.uwin.toNat + c.d) open_)
    | _, _ => status 1

/-- R241, R323: the places that an attach writes: the entry, the record and the freeze counts. -/
def attachWrites (s : State) (p baseIx : Nat) (layers : List Nat) (dst : Nat) : List Nat :=
  match (smFind s.parts p).bind (freeRecord s p) with
  | some at_ => entryVa s p dst :: at_ :: (frozenBy s p baseIx layers).map (freezeAddr s p)
  | none => []

/-- R323: an attach of the group's partition has claimed an entry and not yet written it. -/
def attachPending (s : State) (p dst : Nat) : Bool :=
  s.items.any fun e => e.2.part == p && (match e.2.kind with | .lattach d _ _ _ => d == dst | _ => false)

/-- R323: the destination entry of an attach: inside the table, of kind 0 with `KSP` 0. -/
def attachDest (s : State) (p dst : Nat) : Bool :=
  !attachPending s p dst && match entryAt s p dst with
    | some e => e.kind == 0 && e.ksp == 0
    | none => false

/-- R220, R323, R345: the reads of an attach before it checks anything: those through its source, and of the entries of the destination
and of the layer's parts, with their events. -/
def attachEvents (s : State) (p core : Nat) (src lay : Entry) (dst : Nat) : State :=
  let parts := if lay.kind = 4 then [bitsOf lay.ksp 0 16]
    else if lay.kind = 5 then [bitsOf lay.ksp 16 16, bitsOf lay.ksp 32 16] else []
  (((dst :: parts).filter fun i => match smFind s.parts p with | some x => decide (i < x.regs.rtcnt.toNat) | none => false).map
    fun i => lineOf (entryVa s p i)).eraseDups.foldl (ownRead p core) (handleEvent s p core src)

/-- R323, R324: `LATTACH` at issue. It waits for queued `ACCST`s to the entries that it freezes. -/
def issueLattach (c0 : Ctx) : GroupOut :=
  let p := c0.g.part
  let layIx := slotValue c0.g (c0.a - 0xD0) 32
  let dst := slotValue c0.g (c0.a - 0xD0 + 1) 32
  let srcIx := resourceIndex c0 c0.b
  match namedEntry c0.s p srcIx anyKind none with
  | .error cause => entryFault c0 srcIx cause
  | .ok (_, src) =>
    match namedEntry c0.s p layIx anyKind none with
    | .error cause => entryFault c0 layIx cause
    | .ok (_, lay) =>
      let c : Ctx := { c0 with s := attachEvents c0.s p (coreOfKey c0.k) src lay dst }
      let status := fun (n : Nat) => GroupOut.done c.s (writeUni c.g c.d 6 n)
      let old := if src.kind = 3 then handleRecord c.s p src else none
      let layers := match old with | some l => l.layers | none => []
      if layers.length = 8 then .fail c.s c.g causeListOverflow {}
      else
        let baseIx := match old with | some l => l.base | none => srcIx
        let base := match old with | some l => (entryAt c.s p l.base).getD Entry.none | none => src
        if !(base.kind == 1 || base.kind == 2) || !tyIsFloat base.fmt || !(lay.kind == 4 || lay.kind == 5)
            || !attachDest c.s p dst then status 2
        else if storesQueued c0.s p (frozenBy c0.s p baseIx (layers ++ [layIx])) then .stall .none c0.s c0.g
        else
          let lines := layerLines c.s p lay
          let writes := match layerFits c.s p base lay with
            | .ok true => attachWrites c.s p baseIx (layers ++ [layIx]) dst
            | _ => []
          whenFree c lines.1 writes lines.2 fun c => match layerFits c.s p base lay with
            | .error f => placeFault c layIx 0 f
            | .ok false => .done c.s (writeUni c.g c.d 6 3)
            | .ok true => attach c baseIx base (layers ++ [layIx]) dst

/-- R323: attach a layer to a base or handle. -/
def execLattach (d : BitVec 7) (a : BitVec 8) (b : BitVec 8) (m : Mods) (s : State) : Out :=
  execGroup (.lattach d a b m) true false issueLattach s

/-- A status reaches the group that waits for an item. -/
def itemStatus (s : State) (x : Item) (dest v : Nat) : State :=
  match groupOfUid s x.owner with
  | some (k, g) => putGroup s k (setUreg g dest (BitVec.ofNat 32 v))
  | none => s

/-- A request is still open. -/
def reqOpen (s : State) (n : Nat) : Bool := (smFind s.reqs n).isSome

/-- R324: the handle's entry is written once the writes that passed the check before the freeze are performed. -/
def execLattachFreeze (item : Nat) (s : State) : Out :=
  match smFind s.items item with
  | none => .fault .notEnabled
  | some x =>
    match x.kind with
    | .lattach dst h dest reqs =>
      if reqs.any (reqOpen s) || addressHeld s x.part (entryVa s x.part dst) then .fault .notEnabled
      else .next (itemStatus (writeEntry (endItem s item) x.part dst h) x dest 0)
    | _ => .fault .notEnabled

/-- R328: the requests that read an entry before it was cleared. -/
def readersOf (s : State) (p : Nat) (raw : BitVec 512) : List Nat :=
  (s.reqs.filter fun e => e.2.part == p && e.2.entry == raw).map (·.1)

/-- Whether an item has still to complete; one that a fault has stopped has. -/
def itemOpen (s : State) (n : Nat) : Bool := (smFind s.items n).any fun x => x.istate != .complete

/-- R328: the copies, list instructions, jobs and folds that read an entry before it was cleared and are not complete. -/
def itemsOf (s : State) (p : Nat) (raw : BitVec 512) : List Nat :=
  (s.items.filter fun e => e.2.part == p && e.2.istate != .complete && (match e.2.kind with
    | .copy d => d.entry == raw
    | .list d => d.data == raw || d.list == raw
    | .job j => j.phases.any fun ph => ph.s0 == raw || ph.s1 == some raw
    | _ => false)).map (·.1)

/-- R327, R328: release a handle: unfreeze the entries that its attach froze, free the record, its view range and the factors that no other handle uses. -/
def releaseHandle (s : State) (p core : Nat) (h : Entry) : State :=
  match smFind s.parts p, handleRecord s p h with
  | some x, some l =>
    let at_ := bitsOf h.ksp 0 52
    let s1 := ((smFind x.frozen at_).getD (frozenBy s p l.base l.layers)).foldl (fun t i => bumpFreeze t p core i false) s
    let old := (readVa s1 p at_ 64).getD 0
    let s2 := pokeVa s1 p at_ (leBytes 64 (old - bitsOf old 256 4 * 2 ^ 256))
    let views := x.views.filter fun v => v.2.2 ≠ at_
    let kept := views.flatMap fun v => match layerList s2 p v.2.2 with
      | some o => (factorsOf s2 p o.layers).map (·.1)
      | none => []
    putPart s2 p { x with views := views, frozen := smErase x.frozen at_, factors := x.factors.filter fun f => kept.contains f.1 }
  | _, _ => s

/-- R241, R328: a place that the release of a handle writes is held: its record or a freeze count. -/
def releaseWaits (s : State) (p : Nat) (h : Entry) : Bool :=
  match smFind s.parts p, handleRecord s p h with
  | some x, some l =>
    let at_ := bitsOf h.ksp 0 52
    (at_ :: ((smFind x.frozen at_).getD (frozenBy s p l.base l.layers)).map (freezeAddr s p)).any (addressHeld s p)
  | _, _ => false

/-- R328: `LFREE` at issue. -/
def issueLfree (c : Ctx) : GroupOut :=
  let p := c.g.part
  let res := resourceIndex c c.b
  match resourceEntry c.s p res with
  | .error cause => entryFault c res cause
  | .ok raw =>
    let e := entryOf raw
    if e.kind ≠ 3 then entryFault c res causeKind
    else if !entryValid e then entryFault c res causeEntry
    else
      let reqs := readersOf c.s p raw
      let jobs := itemsOf c.s p raw
      let s1 := writeEntry c.s p res 0
      if reqs.isEmpty && jobs.isEmpty && !c.s.defer && !releaseWaits s1 p e then .done (releaseHandle s1 p (coreOfKey c.k) e) c.g
      else waitItem c s1 (.lfree raw reqs jobs)

/-- R328: release a handle. -/
def execLfree (b : BitVec 8) (m : Mods) (s : State) : Out :=
  execGroup (.lfree b m) true false issueLfree s

/-- R328: the handle is released once every access that read its entry has completed. -/
def execLfreeRelease (item : Nat) (s : State) : Out :=
  match smFind s.items item with
  | none => .fault .notEnabled
  | some x =>
    match x.kind with
    | .lfree h reqs jobs =>
      if reqs.any (reqOpen s) || jobs.any (itemOpen s) || releaseWaits s x.part (entryOf h) then .fault .notEnabled
      else .next (releaseHandle (endItem s item) x.part x.core (entryOf h))
    | _ => .fault .notEnabled

/-- R329: the destination of a fold fits the base of the handle. -/
def foldDest (e base : Entry) : Bool :=
  (e.kind == 1 || e.kind == 2) && e.fmt == base.fmt && e.ndim == base.ndim && e.dim0 == base.dim0 && e.dim1 == base.dim1
    && e.dim2 == base.dim2 && e.dim3 == base.dim3 && e.pitch1 == base.pitch1 && e.pitch2 == base.pitch2
    && e.pitch3 == base.pitch3 && e.base % 2 ^ 21 == base.base % 2 ^ 21 && !e.ro

/-- R329: `GFOLD` at issue. -/
def issueGfold (c0 : Ctx) : GroupOut :=
  let p := c0.g.part
  let hIx := resourceIndex c0 c0.b
  let dIx := (getUreg c0.g (c0.g.uwin.toNat + c0.d)).toNat
  match namedEntry c0.s p hIx [3] none with
  | .error cause => entryFault c0 hIx cause
  | .ok (hraw, h) =>
    let c : Ctx := { c0 with s := handleEvent c0.s p (coreOfKey c0.k) h }
    match handleRecord c.s p h with
    | none => .fail c.s c.g causeUnbound { res := hIx, lane := c.l }
    | some l =>
      match namedEntry c.s p dIx anyKind none with
      | .error cause => entryFault c dIx cause
      | .ok (draw, e) =>
        if !foldDest e ((entryAt c.s p l.base).getD Entry.none) then .fail c.s c.g causeIllegalOperand {}
        else if freezeCount c.s p dIx ≠ 0 then entryFault c dIx causeFrozen
        else
          let ph : Phase := { slot := 0, s0 := hraw, s0ix := BitVec.ofNat 32 hIx, s1 := none, s1ix := 0, out := some draw
                              outIx := BitVec.ofNat 32 dIx }
          let r := addItem (freezeEvent c.s p dIx (coreOfKey c.k)) c.g (newItem c c.l .pending (.job (newJob [ph] 0 ((elementCount h + 31) / 32) (some hraw))))
          .done r.1 r.2

/-- R329: fold a handle into a new tensor. -/
def execGfold (d : BitVec 7) (b : BitVec 8) (m : Mods) (s : State) : Out :=
  execGroup (.gfold d b m) true false issueGfold s

end Sys2Proof.Machine
end

