-- ==== Sys2Proof/Machine/WorkList.lean ====
section
/-!
DEFINITION. Work lists, opcodes 0xB8-0xBC (spec/13 R274 to R284): each instruction is one step at the list's home
(R276). The home keeps the segments at the head and at the tail of the ring and moves items between them and the ring
(notes/assumptions/21).
-/
namespace Sys2Proof.Machine

/-! ### The list -/

/-- R275: a list as its entry and header give it. -/
structure WList where
  hdr : Nat
  base : Nat
  cap : Nat
  size : Nat
  head : Nat
  tail : Nat
  bmap : Nat
  bmapn : Nat
  bound : Bool
  raw : Nat
  deriving DecidableEq, Repr

/-- R275: a header that makes every work-list instruction fault. -/
def headerBad (cap v : Nat) : Bool :=
  let head := bitsOf v 0 64
  let tail := bitsOf v 64 64
  bitsOf v 384 640 != 0 || bitsOf v 291 5 != 0 || bitsOf v 224 32 != 0 || bitsOf v 180 12 != 0 || decide (tail < head)
    || decide (cap < tail - head) || (bitsOf v 192 32 != 0 && bitsOf v 128 52 == 0)

/-- R274: the bytes of an item. -/
def itemSize (e : Entry) : Nat := if e.fmt = 7 || e.fmt = 8 then 8 else 4

/-- R275, R279: read a list; its header must be readable and in order. -/
def readList (s : State) (p : Nat) (e : Entry) : Except MemFault WList := do
  let hdr := bitsOf e.ksp 0 52
  let v ← faultAt hdr (readBytes s p hdr 128)
  if headerBad e.dim0 v then .error (causeEntry, 0)
  else .ok { hdr := hdr, base := e.base, cap := e.dim0, size := itemSize e, head := bitsOf v 0 64, tail := bitsOf v 64 64
             bmap := bitsOf v 128 52, bmapn := bitsOf v 192 32, bound := bitsOf v 290 1 == 1, raw := v }

/-- R275: the ring slot of item `j`. -/
def ringSlot (l : WList) (j : Nat) : Nat := l.base + l.size * (j % l.cap)

/-- R276: the counts go back into the header. -/
def writeCounts (s : State) (p : Nat) (l : WList) : Except MemFault State :=
  faultAt l.hdr (writeBytes s p l.hdr 16 (l.head % 2 ^ 64 + l.tail % 2 ^ 64 * 2 ^ 64))

/-! ### Resident segments -/

/-- R276: the segment of 4 KiB of the ring that item `j` lies in, counted from the list's creation. -/
def segmentOf (l : WList) (j : Nat) : Nat := j / (4096 / l.size)

/-- R276: the items that the home of a list holds in its resident segments. -/
def residentOf (s : State) (p hdr : Nat) : SMap Nat :=
  match smFind s.parts p with
  | some x => smGet [] x.resident hdr
  | none => []

/-- The home of a list holds other items. -/
def setResident (s : State) (p hdr : Nat) (m : SMap Nat) : State :=
  match smFind s.parts p with
  | some x => putPart s p { x with resident := smSet [] x.resident hdr m }
  | none => s

/-- Write items to their slots of the ring. -/
def writeItems (s : State) (p : Nat) (l : WList) (items : List (Nat × Nat)) : Except MemFault State :=
  match items with
  | [] => .ok s
  | (j, v) :: rest => do
    let t ← faultAt (ringSlot l j) (writeBytes s p (ringSlot l j) l.size v)
    writeItems t p l rest

/-- R276: items reach the ring when they spill: those of the list that lie neither in the segment at its head nor in that of its
last item, `j`. -/
def spillItems (s : State) (p : Nat) (l : WList) (j : Nat) : Except MemFault State := do
  let held := (residentOf s p l.hdr).filter fun x => decide (l.head ≤ x.1) && decide (x.1 ≤ j)
  let kept := fun (x : Nat × Nat) => segmentOf l x.1 == segmentOf l l.head || segmentOf l x.1 == segmentOf l j
  let t ← writeItems s p l (held.filter fun x => !kept x)
  .ok (setResident t p l.hdr (held.filter kept))

/-- R280: append items, in the segment at the tail; a slot of the ring must be writable (R279). -/
def appendItems (s : State) (p : Nat) (l : WList) (vs : List Nat) : Except MemFault (State × WList) :=
  match vs with
  | [] => .ok (s, l)
  | v :: rest => do
    let _ ← faultAt (ringSlot l l.tail) (writeBytes s p (ringSlot l l.tail) l.size v)
    let t ← spillItems (setResident s p l.hdr (smPut (residentOf s p l.hdr) l.tail v)) p l l.tail
    appendItems t p { l with tail := l.tail + 1 } rest

/-- R276: an item of the list: in a resident segment, or in the ring. -/
def itemValue (s : State) (p : Nat) (l : WList) (j : Nat) : Except MemFault Nat :=
  match smFind (residentOf s p l.hdr) j with
  | some v => .ok v
  | none => faultAt (ringSlot l j) (readBytes s p (ringSlot l j) l.size)

/-- The `n` items of the list from `j` on. -/
def listedItems (s : State) (p : Nat) (l : WList) (j n : Nat) : Except MemFault (List Nat) :=
  match n with
  | 0 => .ok []
  | n + 1 => do
    let v ← itemValue s p l j
    let rest ← listedItems s p l (j + 1) n
    .ok (v :: rest)

/-- R276: the segment at the head becomes resident: the items of the list that lie in it are read from the ring. -/
def refillHead (s : State) (p : Nat) (l : WList) : Except MemFault State := do
  let per := 4096 / l.size
  let n := min ((segmentOf l l.head + 1) * per) l.tail - l.head
  let vs ← listedItems s p l l.head n
  let m := (vs.zipIdx l.head).foldl (fun m x => smPut m x.2 x.1) (residentOf s p l.hdr)
  .ok (countPeer (setResident s p l.hdr m) p (ringSlot l l.head))

/-- R276: the item at the head lies in a resident segment, once its segment has become resident. -/
def withHead (s : State) (p : Nat) (l : WList) : Except MemFault State :=
  if (smFind (residentOf s p l.hdr) l.head).isSome then .ok s else refillHead s p l

/-- R276, R280: take `n` items from the head. -/
def takeItems (s : State) (p : Nat) (l : WList) (n : Nat) : Except MemFault (State × List Nat × WList) :=
  match n with
  | 0 => .ok (s, [], l)
  | n + 1 => do
    let t ← withHead s p l
    let v ← itemValue t p l l.head
    let u := setResident t p l.hdr (smErase (residentOf t p l.hdr) l.head)
    let (w, rest, l') ← takeItems u p { l with head := l.head + 1 } n
    .ok (w, v :: rest, l')

/-- R92: a push into an empty list restarts the timer of its chair. -/
def restartTimer (s : State) (p hdr : Nat) : State :=
  { s with launches := s.launches.map fun e =>
      match e.2.chair with
      | some ch => if e.2.part = p && ch.header = hdr && ch.bound then (e.1, { e.2 with chair := some { ch with expired := false } }) else e
      | none => e }

/-- R276, R280: one push of values, as many as there is room for: the state after it and the count. -/
def pushList (s : State) (p : Nat) (e : Entry) (vs : List Nat) : Except MemFault (State × Nat) := do
  let l ← readList s p e
  let c := min vs.length (l.cap - (l.tail - l.head))
  let (t, l') ← appendItems s p l (vs.take c)
  let u ← writeCounts t p l'
  .ok (if l.tail = l.head && c ≠ 0 then restartTimer u p l.hdr else u, c)

/-- R276, R280: one pop of up to `n` items. -/
def popList (s : State) (p : Nat) (e : Entry) (n : Nat) : Except MemFault (State × List Nat) := do
  let l ← readList s p e
  let (t, vs, l') ← takeItems s p l (min n (l.tail - l.head))
  let u ← writeCounts t p l'
  .ok (u, vs)

/-- R281: test and set the bit of a key, and append it when there is room; whether it was inserted. -/
def insertKey (s : State) (p : Nat) (l : WList) (k : Nat) : Except MemFault (State × WList × Bool) := do
  let word := l.bmap + k / 32 * 4
  let w ← faultAt word (readBytes s p word 4)
  if bitsOf w (k % 32) 1 = 0 && l.tail - l.head < l.cap then
    let t ← faultAt word (writeBytes s p word 4 (w + 2 ^ (k % 32)))
    let (u, l') ← appendItems t p l [k]
    .ok (u, l', true)
  else .ok (s, l, false)

/-! ### The lines of a step -/

/-- The lines that a step at a list's home reads and those that it writes, by addresses, and the bytes of its request. -/
structure Touched where
  reads : List Nat
  writes : List Nat
  bytes : Nat
  deriving DecidableEq, Repr

/-- R275, R378: a step that reads the header and `n` items of a list, or writes them (notes/assumptions/54). -/
def touchHeader (e : Entry) (n : Nat) : Touched :=
  { reads := [bitsOf e.ksp 0 52], writes := [], bytes := 128 + n * itemSize e }

/-- R276: the slots of the ring that items reach when `n` more items are appended. -/
def spillAddrs (s : State) (p : Nat) (l : WList) (n : Nat) : List Nat :=
  let last := l.tail + n - 1
  let items := ((residentOf s p l.hdr).map (·.1)).filter (fun j => decide (l.head ≤ j)) ++ (List.range n).map (l.tail + ·)
  if n = 0 then []
  else (items.filter fun j => segmentOf l j != segmentOf l l.head && segmentOf l j != segmentOf l last).map (ringSlot l)

/-- R276: the slots of the ring that are read when `n` items are taken from the head: those of each segment that is not resident. -/
def refillAddrs (s : State) (p : Nat) (l : WList) (n : Nat) : List Nat :=
  let here := residentOf s p l.hdr
  let absent := fun j => (smFind here j).isNone
  let segment := fun j => (List.range (min ((segmentOf l j + 1) * (4096 / l.size)) l.tail - j)).map (j + ·)
  (((List.range (min n (l.tail - l.head))).map (l.head + ·)).filter absent).flatMap fun j =>
    ((segment j).filter absent).map (ringSlot l)

/-- R280: the lines of a push of `n` items. -/
def touchPush (s : State) (p n : Nat) (e : Entry) : Touched :=
  match readList s p e with
  | .error _ => touchHeader e n
  | .ok l => { touchHeader e n with writes := l.hdr :: spillAddrs s p l (min n (l.cap - (l.tail - l.head))) }

/-- R280: the lines of a pop of `n` items. -/
def touchPop (s : State) (p n : Nat) (e : Entry) : Touched :=
  match readList s p e with
  | .error _ => touchHeader e n
  | .ok l => { touchHeader e n with reads := l.hdr :: refillAddrs s p l n, writes := [l.hdr] }

/-- R281: the lines of the insertion of keys. -/
def touchInsert (s : State) (p : Nat) (keys : List Nat) (e : Entry) : Touched :=
  match readList s p e with
  | .error _ => touchHeader e keys.length
  | .ok l =>
    let words := (keys.filter fun k => decide (k < l.bmapn)).map fun k => l.bmap + k / 32 * 4
    { touchHeader e keys.length with
      reads := l.hdr :: words
      writes := l.hdr :: words ++ spillAddrs s p l (min keys.length (l.cap - (l.tail - l.head))) }

/-! ### The instructions -/

/-- R279: what a fault of a list instruction says. -/
def listInfo (c : Ctx) (res : Nat) (f : MemFault) : MemInfo := { va := f.2, res := res, lane := lowestLane c.sel }

/-- R279, R345: a fault of a list instruction, with its event. -/
def listFault (c : Ctx) (res : Nat) (f : MemFault) : GroupOut :=
  .fail (faultEvent c.s c.g.part f.1 f.2 (coreOfKey c.k)) c.g f.1 (listInfo c res f)

/-- R257, R279: a step at a list's home, once nothing holds a line of it; a fault of it ends the instruction. -/
def homeStep (c : Ctx) (res : Nat) (x : Touched) (body : Ctx → Except MemFault GroupOut) : GroupOut :=
  whenFree c x.reads x.writes x.bytes fun c' =>
    match body c' with
    | .ok o => o
    | .error f => listFault c' res f

/-- R279: the checks of the entry, then a step at the list's home, which touches the lines of `lines`. -/
def listStep (c : Ctx) (res : Nat) (t : Option (BitVec 5)) (lines : Entry → Touched) (body : Ctx → Entry → Except MemFault GroupOut) :
    GroupOut :=
  match namedEntry c.s c.g.part res [6] none with
  | .error x => .trap x { entryInfo c.s c.g.part res 0 (lowestLane c.sel) x with lane := lowestLane c.sel }
  | .ok (_, e) =>
    if t.any fun ty => tyBits ty != 8 * itemSize e then .trap causeFormat { res := res, lane := lowestLane c.sel }
    else homeStep c res (lines e) fun c' => body c' e

/-- The context of one lane of an instruction that acts for the group. -/
def laneCtx (c : Ctx) (l : Nat) : Ctx := mkCtx c.s c.k c.g c.r c.i c.sel c.e l

/-- R32: the lanes of E whose register D lies in the allocation. The others trap, each alone, and the step is made with these
(the model's choice, notes/assumptions/28). -/
def lanesInside (c : Ctx) (w : Nat) : List Nat := (lanesOf c.e).filter fun l => regInside c.g (getLane c.g l) c.d w

/-- R32: park the lanes of E whose register D lies outside the allocation. -/
def parkOutside (c : Ctx) (w : Nat) (g : Group) : Group :=
  mapLanes g fun l ln =>
    if c.e.getLsbD l && !regInside c.g (getLane c.g l) c.d w then
      parkLane ln (mkRec c.g c.r (encode c.i) l causeIllegalOperand 0 {})
    else ln

/-- R280: slot A takes the count. -/
def putCount (c : Ctx) (g : Group) (n : Nat) : Group := writeUni g (c.a - 0xD0) 6 n

/-- R280: push the items of the lanes of E. -/
def execWlpush (d : BitVec 7) (a : BitVec 8) (b : BitVec 8) (m : Mods) (s : State) : Out :=
  execGroup (.wlpush d a b m) false false (fun c =>
    let w := tyBits c.ty
    listStep c (resourceIndex c c.b) (some c.ty) (touchPush c.s c.g.part (lanesInside c w).length) fun c e => do
      let (t, n) ← pushList c.s c.g.part e ((lanesInside c w).map fun l => regValue (getLane c.g l) c.d w)
      .ok (.done t (putCount c (parkOutside c w c.g) n))) s

/-- R280: one item for each of the lowest lanes of E. -/
def giveItems (c : Ctx) (g : Group) (pairs : List (Nat × Nat)) : Group :=
  mapLanes g fun l ln =>
    match pairs.find? fun x => x.1 == l with
    | some (_, v) => writeAbs ln (ln.win.toNat + c.d) c.ty v
    | none => ln

/-- R280: pop an item for each of the lowest lanes of E. -/
def execWlpop (d : BitVec 7) (a : BitVec 8) (b : BitVec 8) (m : Mods) (s : State) : Out :=
  execGroup (.wlpop d a b m) false false (fun c =>
    let w := tyBits c.ty
    let ls := lanesInside c w
    listStep c (resourceIndex c c.b) (some c.ty) (touchPop c.s c.g.part ls.length) fun c e => do
      let (t, vs) ← popList c.s c.g.part e ls.length
      .ok (.done t (putCount c (giveItems c (parkOutside c w c.g) (ls.zip vs)) vs.length))) s

/-- What `WLINS` has done so far: the state, the list, the group, the count, the lanes dropped with their keys. -/
structure InsertRun where
  s : State
  l : WList
  g : Group
  n : Nat
  drops : List (Nat × Nat)

/-- R281: the key of one lane. -/
def insertLane (c : Ctx) (e : Entry) (x : InsertRun) (lane : Nat) : Except MemFault InsertRun :=
  let k := regValue (getLane c.g lane) c.d 32
  let preds := fun (g : Group) ok => setLane g lane (atomPreds (getLane g lane) ok)
  if k ≥ x.l.bmapn then
    let g1 := preds x.g false
    if e.bnd = 0 then
      let r := mkRec g1 c.r (encode c.i) lane causeBounds 0 { elem := k, res := resourceIndex c c.b, lane := lane }
      .ok { x with g := setLane g1 lane (parkLane (getLane g1 lane) r) }
    else if e.bnd = 1 then .ok { x with g := g1, drops := x.drops ++ [(lane, k)] }
    else .ok { x with g := g1 }
  else do
    let (t, l', ok) ← insertKey x.s c.g.part x.l k
    .ok { x with s := t, l := l', g := preds x.g ok, n := if ok then x.n + 1 else x.n }

/-- R281: the keys of the lanes in ascending order. -/
def insertLanes (c : Ctx) (e : Entry) (x : InsertRun) (ls : List Nat) : Except MemFault InsertRun :=
  match ls with
  | [] => .ok x
  | l :: rest => do
    let y ← insertLane c e x l
    insertLanes c e y rest

/-- R281: insert each key of E at most once. -/
def execWlins (d : BitVec 7) (a : BitVec 8) (b : BitVec 8) (m : Mods) (s : State) : Out :=
  execGroup (.wlins d a b m) false false (fun c =>
    let res := resourceIndex c c.b
    let keys := (lanesInside c 32).map fun l => regValue (getLane c.g l) c.d 32
    listStep c res (some c.ty) (touchInsert c.s c.g.part keys) fun c e => do
      let l ← readList c.s c.g.part e
      let x ← insertLanes c e { s := c.s, l := l, g := parkOutside c 32 c.g, n := 0, drops := [] } (lanesInside c 32)
      let t ← writeCounts x.s c.g.part x.l
      let u := if l.tail = l.head && x.n ≠ 0 then restartTimer t c.g.part l.hdr else t
      let low := x.drops.headD (0, 0)
      let v := dropReport u c.g.part (coreOfKey c.k) (mkRec c.g c.r (encode c.i) low.1 0 0 {}) low.2 res x.drops.length
        low.1 (maskOf fun j => x.drops.any fun q => q.1 == j) false
      .ok (.done v (putCount c x.g x.n))) s

/-- R283: the number of items. -/
def execWlcnt (d : BitVec 7) (a : BitVec 8) (m : Mods) (s : State) : Out :=
  execGroup (.wlcnt d a m) true false (fun c =>
    listStep c (resourceIndex c c.a) none (touchHeader · 0) fun c e => do
      let l ← readList c.s c.g.part e
      .ok (.done c.s (writeUni c.g c.d 6 (l.tail - l.head)))) s

/-! ### Chairs -/

/-- R383: the kernel of a handle, of a module version that accepts new launches. -/
def launchableKernel (s : State) (p handle : Nat) : Option Kernel :=
  match smFind s.parts p with
  | none => none
  | some x =>
    match smFind x.kernels handle with
    | none => none
    | some kn =>
      match smFind x.modules kn.modId with
      | none => none
      | some m => if smGet 0 x.highest m.name ≤ m.version + 4 then some kn else none

/-- R284: the slots of `WLBIND`. -/
structure BindSlots where
  kernel : Nat
  period : Nat
  limit : Nat
  cls : Nat
  cid : Nat
  reserved : Bool
  deriving DecidableEq, Repr

/-- R284: read the slots. -/
def bindSlots (g : Group) (code : Nat) : BindSlots :=
  let v := fun j => slotValue g (code - 0xD0 + j) 32
  { kernel := v 0, period := bitsOf (v 1) 16 16, limit := bitsOf (v 1) 8 8, cls := bitsOf (v 1) 0 2
    cid := v 2 + 2 ^ 32 * v 3, reserved := bitsOf (v 1) 2 6 != 0 }

/-- The bound chair of a list. -/
def boundChair (s : State) (p hdr : Nat) : Option (Nat × Launch) :=
  s.launches.find? fun e => e.2.part == p && e.2.chair.any fun ch => ch.bound && ch.header == hdr

/-- R284, R92: unbind: the energy record is written; the chair stays while groups of it are resident. -/
def unbindChair (s : State) (p : Nat) (hdr : Nat) : State :=
  match boundChair s p hdr with
  | none => s
  | some (u, x) =>
    match x.chair with
    | none => s
    | some ch =>
      let s1 := energyRecord s p { x with lastCycle := if ch.resident = 0 then x.lastCycle else some s.cycle }
      if ch.resident = 0 then { s1 with launches := smErase s1.launches u }
      else putLaunch s1 u { x with chair := some { ch with bound := false } }

/-- R284: the launch that stands for a chair: its kernel in the place of `KERNEL` of a launch record (R81). -/
def chairLaunch (p : Nat) (raw : BitVec 512) (hdr : Nat) (x : BindSlots) (cls : BitVec 2) : Launch :=
  { part := p, queue := 64, lrec := BitVec.ofNat 1024 (x.kernel * 2 ^ 64), cls := cls, lstate := .running, met := 0,
    placed := 0, retired := 0, firstCycle := none, lastCycle := none, uj := 0,
    chair := some { entry := raw, header := hdr, period := x.period, limit := x.limit, cid := BitVec.ofNat 64 x.cid,
                    expired := false, resident := 0, started := 0, bound := true } }

/-- R275: the chair fields of a header. -/
def chairFields (raw : Nat) (x : BindSlots) (cls : Nat) (bound : Bool) : Nat :=
  raw % 2 ^ 256 + x.kernel * 2 ^ 256 + cls * 2 ^ 288 + (if bound then 2 ^ 290 else 0) + x.limit * 2 ^ 296
    + x.period * 2 ^ 304 + x.cid * 2 ^ 320

/-- R284: bind or unbind. -/
def bindStep (c : Ctx) (raw : BitVec 512) (e : Entry) : Except MemFault GroupOut := do
  let l ← readList c.s c.g.part e
  let x := bindSlots c.g c.a
  let answer := fun s n => GroupOut.done s (writeUni c.g c.d 6 n)
  if x.reserved || (x.limit ≠ 0 && x.period = 0) then .ok (answer c.s 2)
  else if x.limit = 0 then
    if l.bound then
      let t ← faultAt l.hdr (writeBytes c.s c.g.part l.hdr 128 (l.raw - 2 ^ 290))
      .ok (answer (unbindChair t c.g.part l.hdr) 1)
    else .ok (answer c.s 2)
  else if l.bound || (launchableKernel c.s c.g.part x.kernel).isNone then .ok (answer c.s 2)
  else
    let cls := min x.cls c.g.cls.toNat
    let t ← faultAt l.hdr (writeBytes c.s c.g.part l.hdr 128 (chairFields l.raw x cls true))
    .ok (answer { putLaunch t t.nextUid (chairLaunch c.g.part raw l.hdr x (BitVec.ofNat 2 cls)) with nextUid := t.nextUid + 1 } 0)

/-- R284: bind a list as a chair, or unbind it. -/
def execWlbind (d : BitVec 7) (a : BitVec 8) (b : BitVec 8) (m : Mods) (s : State) : Out :=
  execGroup (.wlbind d a b m) true false (fun c =>
    let res := resourceIndex c c.b
    match namedEntry c.s c.g.part res [6] none with
    | .error x => .trap x (entryInfo c.s c.g.part res 0 (lowestLane c.sel) x)
    | .ok (raw, e) =>
      homeStep c res { touchHeader e 0 with writes := [bitsOf e.ksp 0 52] } fun c' => bindStep c' raw e) s

end Sys2Proof.Machine
end

