-- ==== Sys2Proof/Machine/Launch.lean ====
section
/-!
DEFINITION. Launches (spec/05 R81 to R100): records and their checks, `LAUNCH`, queues and the states of a launch,
placement of cluster sets, chairs, pre-emption at an instruction boundary, completion; the loader's work while groups
run: binding an entry (spec/06 R117) and installing a gate (R116).
-/
namespace Sys2Proof.Machine

/-! ### Records -/

/-- R81: the number of wait entries in force. -/
def recWaits (r : BitVec 1024) : Nat := recField r 112 3

/-- R81: the address and the threshold of a wait entry. -/
def recWait (r : BitVec 1024) (i : Nat) : Nat × Nat := (recField r (384 + 128 * i) 64, recField r (448 + 128 * i) 32)

/-- R81: the groups of a crew. -/
def recGroups (r : BitVec 1024) (kn : Kernel) : Nat := if recField r 96 6 = 0 then kn.crew else recField r 96 6

/-- R81, R83, R97: a record with another class. -/
def recWithClass (r : BitVec 1024) (cls : Nat) : BitVec 1024 :=
  BitVec.ofNat 1024 (r.toNat - recField r 108 2 * 2 ^ 108 + cls % 4 * 2 ^ 108)

/-- R82: a reserved field is not zero. -/
def recReserved (r : BitVec 1024) : Bool :=
  recField r 896 128 != 0 || recField r 320 64 != 0 || recField r 115 13 != 0 || recField r 111 1 != 0
    || (List.range (recWaits r)).any fun i => recField r (480 + 128 * i) 32 != 0

/-- R89: the groups of a crew of `n` that go to a sequencer. -/
def seqShare (n q : Nat) : Nat := (n + 3 - q) / 4

/-- R89, R13, R14: what a crew takes of a core: groups, lane registers, tiles for each group, scratch. -/
structure CrewNeed where
  size : Nat
  nreg : Nat
  nacc : Nat
  scratch : Nat
  deriving DecidableEq, Repr

/-- R89: the needs of a crew of a kernel. -/
def needOf (n : Nat) (kn : Kernel) : CrewNeed := { size := n, nreg := kn.nreg, nacc := kn.nacc, scratch := kn.scratch }

/-- The sum of a function over a list. -/
def sumOf {α : Type} (f : α → Nat) (xs : List α) : Nat := xs.foldl (fun acc x => acc + f x) 0

/-- R89, R13: crews fit together on one core: 8 slots and 131,072 bytes of registers a sequencer, 16 tiles, 262,144
bytes of scratch. -/
def needsFit (xs : List CrewNeed) : Bool :=
  ([0, 1, 2, 3].all fun q => sumOf (fun x => seqShare x.size q) xs ≤ 8
      && 128 * sumOf (fun x => seqShare x.size q * x.nreg) xs ≤ 131072)
    && sumOf (fun x => x.size * x.nacc) xs ≤ 16 && sumOf (fun x => x.scratch) xs ≤ 262144

/-- R82, R84: a signal word may stand at an address. One in a live peer window passes (the model's choice, notes/assumptions/59). -/
def signalOk (s : State) (p a : Nat) : Bool :=
  a % 4 == 0 && decide (a < 2 ^ 52) && (inPeerWindow s p a || (match writablePlace s p a with | .ok _ => true | .error _ => false))

/-- R375: a cluster of the package belongs to a partition. -/
def holdsCluster (x : Partition) (cluster : Nat) : Bool := x.clusters.getLsbD cluster

/-- R375: the clusters of a partition on a die. -/
def clustersOn (x : Partition) (die : Nat) : List Nat :=
  ((List.range 32).map fun c => 32 * die + c).filter fun c => holdsCluster x c

/-- R81, R82: the dies that may hold crews of a record. -/
def recDies (x : Partition) (r : BitVec 1024) : List Nat :=
  [0, 1, 2, 3].filter fun d => !(clustersOn x d).isEmpty && (recField r 104 4 == 0 || recField r (104 + d) 1 == 1)

/-- R82: a record is valid. -/
def recordValid (s : State) (p : Nat) (r : BitVec 1024) : Bool :=
  match smFind s.parts p, launchableKernel s p (recField r 64 32) with
  | some x, some kn =>
    !recReserved r && decide (recWaits r ≤ 4) && decide (recField r 96 6 ≤ 32) && recField r 128 32 != 0
      && !(recDies x r).isEmpty
      && ((List.range (recWaits r)).all fun i => signalOk s p (recWait r i).1)
      && (recSignal r == 0 || signalOk s p (recSignal r))
      && needsFit [needOf (recGroups r kn) kn]
  | _, _ => false

/-- R83: an accepted launch, at the end of a queue or of the device pool. -/
def newLaunch (p queue : Nat) (r : BitVec 1024) : Launch :=
  { part := p, queue := queue, lrec := r, cls := BitVec.ofNat 2 (recField r 108 2), lstate := .queued, met := 0,
    placed := 0, retired := 0, firstCycle := none, lastCycle := none, uj := 0, chair := none }

/-- R97, R99: accept a record into the device pool. -/
def acceptDevice (s : State) (p : Nat) (x : Partition) (r : BitVec 1024) : State :=
  let s1 := putPart s p { x with pool := x.pool ++ [s.nextUid] }
  { putLaunch s1 s.nextUid (newLaunch p 64 r) with nextUid := s.nextUid + 1 }

/-! ### LAUNCH -/

/-- R97: the launch that a record in memory asks for: the state after it and the status. -/
def launchRecord (s : State) (p : Nat) (cls : BitVec 2) (r : BitVec 1024) : State × Nat :=
  match smFind s.parts p with
  | none => (s, 2)
  | some x =>
    if !recordValid s p r then (s, 2)
    else if x.pool.length ≥ 4096 then (s, 1)
    else (acceptDevice s p x (recWithClass r (min (recField r 108 2) cls.toNat)), 0)

/-- R97, R236, R237: every lane of E parks as on an `LD`, each with its own record. -/
def parkEach (c : Ctx) (cause : BitVec 8) (x : MemInfo) : Group :=
  mapLanes c.g fun l ln =>
    if c.e.getLsbD l then parkLane ln (mkRec c.g c.r (encode c.i) l cause 0 { x with lane := l }) else ln

/-- R97, R345: a memory fault of `LAUNCH`, with its event. -/
def launchFault (c : Ctx) (cause : BitVec 8) (x : MemInfo) : GroupOut :=
  .done (faultEvent c.s c.g.part cause x.va (coreOfKey c.k)) (parkEach c cause x)

/-- R97: read the record at byte `off` of a resource, and make a launch of it. -/
def launchFrom (e : Entry) (res off : Nat) (c : Ctx) : GroupOut :=
  match entryBytes c.s c.g.part e off 128 with
  | .error f => launchFault c f.1 { va := f.2, res := res }
  | .ok bs =>
    let (t, status) := launchRecord (countPeer c.s c.g.part (e.base + off)) c.g.part c.g.cls (BitVec.ofNat 1024 (leNat bs))
    .done t (writeUni c.g c.d 6 status)

/-- R97: read a record from memory and make a device launch of it. -/
def execLaunch (d : BitVec 7) (a : BitVec 8) (b : BitVec 8) (m : Mods) (s : State) : Out :=
  execGroup (.launch d a b m) false true (fun c =>
    let off := readUniN32 c c.b
    let res := resourceIndex c c.a
    match resourceEntry c.s c.g.part res with
    | .error cause => launchFault c cause (entryInfo c.s c.g.part res 0 c.l cause)
    | .ok raw =>
      let e := entryOf raw
      if e.kind = 0 then launchFault c causeUnbound { res := res }
      else if !entryValid e then launchFault c causeEntry { res := res }
      else if off % 128 ≠ 0 || e.kind ≠ 1 || off + 128 > linearBytes e then .done c.s (writeUni c.g c.d 6 2)
      else whenFree c [e.base + off] [] 128 (launchFrom e res off)) s

/-! ### Queues and waits -/

/-- R83, R99: the launches of a launch's queue, or of the device pool, in order. -/
def lineup (x : Partition) (queue : Nat) : List Nat :=
  if queue ≥ 64 then x.pool else match smFind x.queues queue with | some q => q.items | none => []

/-- The element that stands directly ahead of one in a list. -/
def aheadOf (xs : List Nat) (u : Nat) : Option Nat :=
  match xs with
  | a :: b :: rest => if b = u then some a else aheadOf (b :: rest) u
  | _ => none

/-- R86: a launch has left Placing. -/
def pastPlacing (x : Launch) : Bool := x.lstate == .running || x.lstate == .completing

/-- R83, R86, R99: a queued launch may leave Queued. A launch of the pool stays Queued until the one ahead has left Placing
(notes/assumptions/49). -/
def mayLeaveQueue (s : State) (x : Partition) (u : Nat) (ln : Launch) : Bool :=
  let line := lineup x ln.queue
  ln.lstate == .queued && line.contains u && match aheadOf line u with
    | none => true
    | some a => (ln.queue ≥ 64 || recField ln.lrec 110 1 == 1)
        && (match smFind s.launches a with | some y => pastPlacing y | none => true)

/-- R83: a launch leaves Queued; without wait entries it leaves Waiting at once. -/
def execLaunchDequeue (launch : Nat) (s : State) : Out :=
  match smFind s.launches launch with
  | none => .fault .notEnabled
  | some ln =>
    match smFind s.parts ln.part with
    | none => .fault .notEnabled
    | some x =>
      if mayLeaveQueue s x launch ln then
        .next (putLaunch s launch { ln with lstate := if recWaits ln.lrec = 0 then .placing else .waiting })
      else .fault .notEnabled

/-- R84: whether wait entry `i` is met by the word as it stands. A word that cannot be read meets nothing
(notes/assumptions/57). -/
def waitMet (s : State) (p : Nat) (r : BitVec 1024) (i : Nat) : Bool :=
  match readBytes s p (recWait r i).1 4 with
  | .ok v => decide ((recWait r i).2 ≤ v)
  | .error _ => false

/-- R345: the events of a read of a word by the launch unit or the loader: its page is not mapped, its line is lost or rebuilt. -/
def wordEvents (s : State) (p va : Nat) : State :=
  match readBytes s p va 4 with
  | .ok _ => countPeer (lineRequest p 0 none true s va) p va
  | .error c => faultEvent s p c va 0

/-- R84, R257: the wait entries of a launch that are still to be met and whose words nothing holds. -/
def signalsToRead (s : State) (ln : Launch) : List Nat :=
  (List.range (recWaits ln.lrec)).filter fun i => !ln.met.getLsbD i && !requestWaits s ln.part (recWait ln.lrec i).1

/-- R378: the die at which the requests of the launch unit that keeps the launches are injected: die 0, whose unit writes the records
of R24 (notes/assumptions/54). -/
def launchDie : Nat := 0

/-- R84, R378: read the signal words of a waiting launch; a wait that has been met stays met. -/
def readSignals (launch : Nat) (s : State) : Out :=
  match smFind s.launches launch with
  | none => .fault .notEnabled
  | some ln =>
    let words := signalsToRead s ln
    if ln.lstate = .waiting && !words.isEmpty && rateAllows s ln.part launchDie (4 * words.length) then
      let met := words.foldl (fun (acc : BitVec 4) i =>
        if waitMet s ln.part ln.lrec i then acc ||| BitVec.ofNat 4 (2 ^ i) else acc) ln.met
      let done := (List.range (recWaits ln.lrec)).all fun i => met.getLsbD i
      let t := words.foldl (fun u i => wordEvents u ln.part (recWait ln.lrec i).1) (takeBytes s ln.part launchDie (4 * words.length))
      .next (putLaunch t launch { ln with met := met, lstate := if done then .placing else .waiting })
    else .fault .notEnabled

/-- R84: the signal words are read when the launch enters Waiting and after a write to their line. -/
def execSignalWordRead (launch : Nat) (s : State) : Out := readSignals launch s

/-- R84: the signal words are read again at least once every 10 µs. -/
def execWaitPollTimer (launch : Nat) (s : State) : Out := readSignals launch s

/-! ### Room on a core -/

/-- The kernel of a launch. -/
def launchKernel (s : State) (x : Launch) : Option Kernel := findKernel s x.part (recField x.lrec 64 32)

/-- R89: what a crew holds of its core. -/
def crewNeed (s : State) (c : Crew) : CrewNeed :=
  match (smFind s.launches c.launch).bind fun x => launchKernel s x with
  | some kn => needOf c.size kn
  | none => { size := c.size, nreg := 0, nacc := 0, scratch := 0 }

/-- R89: a crew fits on a core beside the crews that stand there, other than those that are to go. -/
def coreFits (s : State) (gone : Nat → Bool) (core : Nat) (x : CrewNeed) : Bool :=
  needsFit (x :: ((s.crews.filter fun e => e.2.core == some core && !gone e.1).map fun e => crewNeed s e.2))

/-- R90: the cores of a cluster. -/
def coresOf (cluster : Nat) : List Nat := [0, 1, 2, 3].map fun i => 4 * cluster + i

/-- R90: a set of `count` crews fits on a cluster. -/
def clusterFits (s : State) (gone : Nat → Bool) (cluster count : Nat) (x : CrewNeed) : Bool :=
  decide (count ≤ ((coresOf cluster).filter fun c => coreFits s gone c x).length)

/-- R90: a set of `count` crews fits on a cluster of a die of the partition. -/
def dieFits (s : State) (gone : Nat → Bool) (p : Partition) (die count : Nat) (x : CrewNeed) : Bool :=
  (clustersOn p die).any fun c => clusterFits s gone c count x

/-- No crew is to go. -/
def noneGone (_ : Nat) : Bool := false

/-- The class of a crew's launch. -/
def crewClass (s : State) (c : Crew) : Nat := match smFind s.launches c.launch with | some x => x.cls.toNat | none => 0

/-- R88: the crews of a partition of a class below `cls`. -/
def lowerCrews (s : State) (p cls : Nat) (c : Nat) : Bool :=
  match smFind s.crews c with
  | some x => x.part == p && decide (crewClass s x < cls)
  | none => false

/-! ### Cluster sets that wait for a place -/

/-- R90, R96: a cluster set to be placed: its number, how many crews, and the crews themselves when the set was
pre-empted. -/
structure WaitingSet where
  set : Nat
  count : Nat
  crews : List (Nat × Crew)
  deriving DecidableEq, Repr

/-- R272: a crew of a launch, pre-empted on a die, whose whole set has left its cores. -/
def wholeOff (s : State) (u die : Nat) (c : Crew) : Bool :=
  c.launch == u && c.core.isNone && c.die == die && (setCrews s u c.set).all fun e => e.2.core.isNone

/-- R90, R96: the next set of a launch for a die: a pre-empted set first, the lowest, then the next set of crews. -/
def nextSet (s : State) (p : Partition) (u : Nat) (x : Launch) (die : Nat) : Option WaitingSet :=
  if x.lstate ≠ .placing then none
  else
    let off := (s.crews.filter fun e => wholeOff s u die e.2).map fun e => e.2.set
    match off with
    | n :: rest =>
      let set := rest.foldl min n
      let crews := setCrews s u set
      some { set := set, count := crews.length, crews := crews }
    | [] =>
      let per := recField x.lrec 102 2 + 1
      let all := recField x.lrec 128 32
      if x.chair.isNone && decide (x.placed < all) && (recDies p x.lrec).contains die then
        some { set := x.placed / per, count := min per (all - x.placed), crews := [] }
      else none

/-- R89: what each crew of a launch needs. -/
def launchNeed (s : State) (x : Launch) : Option CrewNeed :=
  (launchKernel s x).map fun kn => needOf (if x.chair.isSome then 1 else recGroups x.lrec kn) kn

/-- R92: the chair may start a group: it holds 32 items, or one and its timer has expired, and its limit allows. A group of
its that is pre-empted counts as resident until it retires (notes/assumptions/49). -/
def chairDue (ch : Chair) (items : Nat) : Bool :=
  ch.bound && decide (ch.resident < ch.limit) && (decide (32 ≤ items) || (ch.expired && decide (1 ≤ items)))

/-- R92: the crew of one that a chair is due to start on its list's home die. -/
def chairSet (s : State) (p : Partition) (x : Launch) (die : Nat) : Option WaitingSet :=
  match x.chair with
  | none => none
  | some ch => match readList s x.part (entryOf ch.entry) with
    | .error _ => none
    | .ok l =>
      if chairDue ch (l.tail - l.head) && homeDie p ch.header == die then some { set := ch.started, count := 1, crews := [] }
      else none

/-- R88, R92: a launch or chair of a higher class than `cls` has a set for the die that finds room there, or would find it
when lower classes went. Each partition on the die is ordered by itself (the model's choice, notes/assumptions/38). -/
def higherWaits (s : State) (pn : Nat) (p : Partition) (die cls : Nat) : Bool :=
  s.launches.any fun e => e.2.part == pn && decide (cls < e.2.cls.toNat)
    && match (nextSet s p e.1 e.2 die).orElse (fun _ => chairSet s p e.2 die), launchNeed s e.2 with
      | some w, some x => dieFits s (lowerCrews s pn e.2.cls.toNat) p die w.count x
      | _, _ => false

/-- R87: the first launch of a queue, or of the pool, of a class, with a set for a die. -/
def sourceHead (s : State) (p : Partition) (queue die cls : Nat) : Option Nat :=
  (lineup p queue).find? fun u => match smFind s.launches u with
    | some x => x.cls.toNat == cls && (nextSet s p u x die).isSome
    | none => false

/-- R87: a source's next set can be placed whole on the die. -/
def sourceFits (s : State) (p : Partition) (queue die cls : Nat) : Bool :=
  match sourceHead s p queue die cls with
  | none => false
  | some u => match smFind s.launches u with
    | none => false
    | some x => match nextSet s p u x die, launchNeed s x with
      | some w, some n => dieFits s noneGone p die w.count n
      | _, _ => false

/-- R87, R99: the queues of the round-robin in the order in which they take their turns: ascending from the one after
the last served, the device pool last. -/
def turnOrder (p : Partition) (die cls : Nat) : List Nat :=
  let all := (p.queues.map fun e => e.1) ++ [64]
  let from_ := smGet 0 p.turn (4 * die + cls)
  (all.filter fun q => from_ ≤ q) ++ all.filter fun q => q < from_

/-- R87: a launch has the turn on a die. A chair stands in no queue. -/
def hasTurn (s : State) (p : Partition) (u : Nat) (x : Launch) (die : Nat) : Bool :=
  x.chair.isSome || match (turnOrder p die x.cls.toNat).find? fun q => sourceFits s p q die x.cls.toNat with
    | some q => sourceHead s p q die x.cls.toNat == some u
    | none => false

/-! ### Placing -/

/-- R91: a group at start. -/
def newGroup (uid p u crew num handle : Nat) (cls : BitVec 2) (kn : Kernel) (arg : DWord) : Group :=
  { uid := uid, part := p, launch := u, crew := crew, num := num, cls := cls, kern := handle, nreg := kn.nreg, nacc := kn.nacc,
    lanes := laneIxs.map fun _ => laneInit (BitVec.ofNat 6 kn.entry)
    uregs := smSet 0 (smSet 0 [] 0 (arg.setWidth 32)) 1 (arg.extractLsb' 32 32)
    qpreds := 1, uwin := 0, waits := [], bclose := 0, batches := [], pend := [], njobs := 0, jobs := [], pms := [], shapes := [],
    rowm := [], colm := [], tiles := [], trapvec := 0, ctl := .between, pass := none, wait := .none, preempt := false,
    ctxReq := none, lastIssue := none }

/-- R89: the slots, by their keys, that the groups of a crew take on a core: group g on sequencer g mod 4, the lowest
slot that is free. -/
def assignSlots (used : List Nat) (core n : Nat) : List Nat :=
  (List.range n).foldl (fun acc g =>
    let free := ([0, 1, 2, 3, 4, 5, 6, 7].map fun j => 32 * core + 8 * (g % 4) + j).filter fun k => !(used ++ acc).contains k
    acc ++ free.take 1) []

/-- Seat a group in a slot; a turn of an earlier group of that slot is over. -/
def seatGroup (s : State) (k : Nat) (g : Group) : State :=
  putGroup (if (seqOf s (k / 8)).slot = some (k % 8) then endTurn s k else s) k g

/-- R89, R90, R218: seat a crew with its groups on a core; its scratch is zero. -/
def seatCrew (s : State) (crew : Nat) (x : Crew) (core : Nat) (gs : List Group) : State :=
  let keys := assignSlots ((s.crews.filter fun e => e.2.core == some core).flatMap fun e => e.2.slots) core x.size
  let placed : Crew := { x with core := some core, slots := keys, die := dieOfCore core, live := gs.length, stamp := s.stamp,
                                scratch := [], saved := [], areas := [] }
  gs.foldl (fun t g => seatGroup t (keys.getD g.num 0) g) { putCrew s crew placed with stamp := s.stamp + 1 }

/-- R91: seat a new crew of a launch. -/
def seatNew (s : State) (u : Nat) (x : Launch) (kn : Kernel) (n set index core : Nat) : State :=
  let crew := s.nextUid
  let arg := BitVec.ofNat 64 (recField x.lrec 256 64)
  let gs := (List.range n).map fun g => newGroup (crew + 1 + g) x.part u crew g (recField x.lrec 64 32) x.cls kn arg
  seatCrew { s with nextUid := s.nextUid + 1 + n } crew
    { launch := u, index := index, part := x.part, core := none, slots := [], die := 0, size := n, live := n, set := set,
      stamp := 0, bars := [], scratch := [], saved := [], areas := [] } core gs

/-- R218: cluster scratch is zero when the first crew of a launch is placed on a cluster that none of it occupies. -/
def freshScratch (s : State) (u cluster : Nat) : State :=
  if s.crews.any fun e => e.2.launch == u && e.2.core.any fun c => clusterOfCore c == cluster then s
  else { s with cscratch := s.cscratch.filter fun e => e.1 / 2 ^ 21 ≠ cluster }

/-- R83: the state of a launch after a placement: Running when every crew stands on a core. -/
def afterPlacing (s : State) (u : Nat) (x : Launch) : LaunchState :=
  let waiting := s.crews.any fun e => e.2.launch == u && e.2.core.isNone
  if !waiting && (x.chair.isSome || x.placed == recField x.lrec 128 32) then .running else .placing

/-- R90, R96: place a set on cores of a cluster. -/
def placeSet (s : State) (u : Nat) (x : Launch) (kn : Kernel) (n : Nat) (w : WaitingSet) (cluster : Nat) (cores : List Nat) : State :=
  let s1 := freshScratch s u cluster
  let s2 :=
    if w.crews.isEmpty then
      cores.zipIdx.foldl (fun t c => seatNew t u x kn n w.set (x.placed + c.2) c.1) s1
    else
      (w.crews.zip cores).foldl (fun t c => seatCrew t c.1.1 c.1.2 c.2 c.1.2.saved) s1
  let x1 := { x with placed := if w.crews.isEmpty then x.placed + w.count else x.placed
                     firstCycle := some (x.firstCycle.getD s.cycle) }
  putLaunch s2 u { x1 with lstate := afterPlacing s2 u x1 }

/-- R87: the queue of a launch has had its turn on a die. -/
def countTurn (s : State) (pn : Nat) (p : Partition) (die : Nat) (x : Launch) : State :=
  if x.chair.isSome then s
  else putPart s pn { p with turn := smSet 0 p.turn (4 * die + x.cls.toNat) (x.queue + 1) }

/-! ### Making room -/

/-- R95: a crew that is being pre-empted. -/
def beingPreempted (s : State) (c : Nat) : Bool := s.groups.any fun e => e.2.crew == c && e.2.preempt

/-- R94: the crew to pre-empt next: of the lowest class, and of those the most recently placed. -/
def victimOf (xs : List (Nat × Nat × Crew)) : Option (Nat × Crew) :=
  (xs.foldl (fun (acc : Option (Nat × Nat × Crew)) e => match acc with
    | none => some e
    | some a => if e.2.1 < a.2.1 || (e.2.1 == a.2.1 && decide (a.2.2.stamp < e.2.2.stamp)) then some e else acc) none).map
    fun e => (e.1, e.2.2)

/-- R94, R272: the crews to pre-empt, whole sets, until a set of `count` crews fits on the die. -/
def victims (s : State) (pn : Nat) (p : Partition) (die cls count : Nat) (x : CrewNeed) (gone : List Nat) (fuel : Nat) : List Nat :=
  match fuel with
  | 0 => gone
  | fuel + 1 =>
    if dieFits s (fun c => gone.contains c) p die count x then gone
    else
      let others := (s.crews.filter fun e => e.2.part == pn && e.2.core.isSome && e.2.die == die && !gone.contains e.1
        && decide (crewClass s e.2 < cls)).map fun e => (e.1, crewClass s e.2, e.2)
      match victimOf others with
      | none => gone
      | some (_, c) => victims s pn p die cls count x (gone ++ (setCrews s c.launch c.set).map fun e => e.1) fuel

/-- R95: ask for the pre-emption of crews. -/
def askPreempt (s : State) (crews : List Nat) : State :=
  { s with groups := s.groups.map fun e => (e.1, if crews.contains e.2.crew then { e.2 with preempt := true } else e.2) }

/-- R88, R94: pre-empt lower-class crews so that a set finds room on a die; nothing to do when that cannot help, or has
been asked for. -/
def makeRoom (s : State) (pn : Nat) (p : Partition) (die cls count : Nat) (x : CrewNeed) : Out :=
  if dieFits s (lowerCrews s pn cls) p die count x then
    let now := (s.crews.filter fun e => beingPreempted s e.1).map fun e => e.1
    let vs := victims s pn p die cls count x now (s.crews.length + 1)
    if vs.length = now.length then .fault .notEnabled else .next (askPreempt s vs)
  else .fault .notEnabled

/-- R90: cores of a cluster, no core twice. -/
def coresDistinct (cluster : Nat) (cores : List Nat) : Bool :=
  (cores.all fun c => (coresOf cluster).contains c) && cores.eraseDups.length == cores.length

/-- R87, R88, R90, R94: place the next cluster set of a launch on cores of a cluster, or pre-empt for it. -/
def execClusterSetPlace (launch cluster : Nat) (cores : List Nat) (s : State) : Out :=
  match smFind s.launches launch with
  | none => .fault .notEnabled
  | some x =>
    match smFind s.parts x.part, launchKernel s x, launchNeed s x with
    | some p, some kn, some need =>
      let die := cluster / 32
      if !holdsCluster p cluster || !coresDistinct cluster cores then .fault .badArgument
      else match nextSet s p launch x die with
        | none => .fault .notEnabled
        | some w =>
          if higherWaits s x.part p die x.cls.toNat then .fault .notEnabled
          else if dieFits s noneGone p die w.count need then
            if !hasTurn s p launch x die then .fault .notEnabled
            else if cores.length = w.count && cores.all fun c => coreFits s noneGone c need then
              .next (placeSet (countTurn s x.part p die x) launch x kn need.size w cluster cores)
            else .fault .badArgument
          else makeRoom s x.part p die x.cls.toNat w.count need
    | _, _, _ => .fault .notEnabled

/-! ### Pre-emption at an instruction boundary -/

/-- R118: the position of a lane of a group that stops inside a gate. -/
def stopLane (r : Run) (ln : Lane) (selected : Bool) : Lane :=
  match ln.nb with
  | some b => { ln with lb := b, nb := none, off := 0, rpt := 0 }
  | none =>
    if selected then
      let off := smGet 0 r.offs ln.lb.toNat
      let rpt := match r.strand with | some st => if st.blk = ln.lb then r.rpt else 0 | none => 0
      if off = 0 && rpt = 0 then ln
      else { ln with hold := .replay, off := BitVec.ofNat 16 off, rpt := BitVec.ofNat 8 rpt }
    else ln

/-- R323: the group waits for the status of an attach. -/
def attaching (s : State) (g : Group) : Bool :=
  match g.wait with
  | .item n => (smFind s.items n).any fun x => (match x.kind with | .lattach _ _ _ _ => true | _ => false)
  | _ => false

/-- R95: a group that has reached no vote within 20 µs of the request is saved at its next instruction boundary, once
its accesses and its matrix instructions are complete; not during a handler pass (R337). -/
def execPreemptTimeout (g : Nat) (s : State) : Out :=
  match smFind s.groups g with
  | none => .fault .notEnabled
  | some x =>
    match x.ctl with
    | .between => .fault .notEnabled
    | .run r =>
      if x.preempt && x.pass.isNone && !attaching s x && !engineBusy s g && !(s.reqs.any fun e => e.2.group == g && !e.2.orphan) then
        let x' := mapLanes x fun l ln => stopLane r ln (laneSelected x r ln.lb l && ln.lb ≠ 63)
        .next (savePreempted (endTurn s g) g x' true)
      else .fault .notEnabled

/-! ### Chairs -/

/-- R92: lane i of a chair's group receives the i-th item in `v0`; lanes beyond the count have left. -/
def chairLanes (g : Group) (wide : Bool) (items : List Nat) : Group :=
  mapLanes g fun l ln => match items[l]? with
    | some v => writeAbs ln 0 (if wide then 8 else 6) v
    | none => { ln with lb := 63 }

/-- R92: start a group of a chair on a core: a crew of one. Its argument and its crew number are free values
(notes/assumptions/26). -/
def startChairGroup (s : State) (u : Nat) (x : Launch) (ch : Chair) (kn : Kernel) (core : Nat) (items : List Nat) : State :=
  let (index, s1) := takeFree s
  let (arg, s2) := takeFree s1
  let crew := s2.nextUid
  let g := chairLanes (newGroup (crew + 1) x.part u crew 0 (recField x.lrec 64 32) x.cls kn arg) (itemSize (entryOf ch.entry) == 8) items
  let s3 := seatCrew { freshScratch s2 u (clusterOfCore core) with nextUid := crew + 2 } crew
    { launch := u, index := index.toNat % 2 ^ 32, part := x.part, core := none, slots := [], die := 0, size := 1, live := 1,
      set := ch.started, stamp := 0, bars := [], scratch := [], saved := [], areas := [] } core [g]
  putLaunch s3 u { x with firstCycle := some (x.firstCycle.getD s.cycle)
                          chair := some { ch with expired := false, resident := ch.resident + 1, started := ch.started + 1 } }

/-- R92: the launch unit of the list's home die starts a group of a chair, or pre-empts for it. -/
def execChairGroupStart (chair core : Nat) (s : State) : Out :=
  match smFind s.launches chair with
  | none => .fault .notEnabled
  | some x =>
    match x.chair, smFind s.parts x.part, launchKernel s x with
    | some ch, some p, some kn =>
      let die := homeDie p ch.header
      if !holdsCluster p (clusterOfCore core) || dieOfCore core ≠ die then .fault .badArgument
      else match readList s x.part (entryOf ch.entry) with
        | .error _ => .fault .notEnabled
        | .ok l =>
          if !chairDue ch (l.tail - l.head) || higherWaits s x.part p die x.cls.toNat then .fault .notEnabled
          else if coreFits s noneGone core (needOf 1 kn) then
            let lines := touchPop s x.part 32 (entryOf ch.entry)
            if (lines.reads ++ lines.writes).any (addressHeld s x.part) || !rateAllows s x.part die lines.bytes then .fault .notEnabled
            else match popList (linesRead (takeBytes s x.part die lines.bytes) x.part core lines.reads) x.part (entryOf ch.entry) 32 with
            | .ok (t, items) => .next (startChairGroup t chair x ch kn core items)
            | .error _ => .fault .notEnabled
          else if dieFits s noneGone p die 1 (needOf 1 kn) then .fault .badArgument
          else makeRoom s x.part p die x.cls.toNat 1 (needOf 1 kn)
    | _, _, _ => .fault .notEnabled

/-- R92: the timer of a chair expires. -/
def execChairTimerExpiry (chair : Nat) (s : State) : Out :=
  match smFind s.launches chair with
  | none => .fault .notEnabled
  | some x =>
    match x.chair with
    | none => .fault .notEnabled
    | some ch =>
      if ch.bound && !ch.expired then .next (putLaunch s chair { x with chair := some { ch with expired := true } })
      else .fault .notEnabled

/-! ### Completion -/

/-- R85: add to the completion signal word; when the add cannot be performed the word keeps its value and event 0x1A is
written. -/
def completionStep (s : State) (x : Launch) : State :=
  let a := recSignal x.lrec
  let add := recField x.lrec 160 32
  if a = 0 then s
  else match addWord s x.part a add with
  | .ok (t, _) => t
  | .error c => deviceEvent (faultEvent s x.part c a 0) x.part 0x1A { addr := a }

/-- R85, R257, R318, R378: the completion add of a launch has to wait: for what holds the word's line or bank, or for the limit. -/
def completionWaits (s : State) (x : Launch) : Bool :=
  recSignal x.lrec != 0 && (requestWaits s x.part (recSignal x.lrec) || !rateAllows s x.part launchDie 4)

/-- R85, R83: the completion add of a launch whose crews have all retired; then it is Done. -/
def execCompletionAdd (launch : Nat) (s : State) : Out :=
  match smFind s.launches launch with
  | none => .fault .notEnabled
  | some x =>
    if x.lstate = .completing && !completionWaits s x then
      .next (finishLaunch (completionStep (if recSignal x.lrec = 0 then s else takeBytes s x.part launchDie 4) x) launch x)
    else .fault .notEnabled

/-! ### Replay, binding, gates -/

/-- R119: released lanes of a group between gates are replayed before its next vote. -/
def execLaneReplay (g : Nat) (s : State) : Out :=
  match smFind s.groups g with
  | none => .fault .notEnabled
  | some x =>
    match x.ctl with
    | .run _ => .fault .notEnabled
    | .between => if x.pass.isNone && replayLanes x ≠ 0 then .next (boundary s g x) else .fault .notEnabled

/-- R117: the lanes of a group parked on an unbound entry. -/
def lanesOnEntry (g : Group) (res : Nat) : Word :=
  maskOf fun l => (pendingOf (getLane g l)).any fun r => r.cause == causeUnbound && r.res.toNat == res

/-- R117: the groups of a partition with lanes parked on an entry. -/
def groupsOnEntry (s : State) (p res : Nat) : List (Nat × Group) :=
  s.groups.filter fun e => e.2.part == p && lanesOnEntry e.2 res != 0

/-- R117: the lanes parked on an entry are released; they find their latches stale (R119). -/
def releaseEntry (s : State) (p res : Nat) : State :=
  (groupsOnEntry s p res).foldl (fun t e =>
    let m := lanesOnEntry e.2 res
    putGroup t e.1 (mapLanes e.2 fun l ln => if m.getLsbD l then { staleLane ln with hold := .replay } else ln)) s

/-- R374, R328, R358: loader report 0x02 for each group with lanes parked on an entry whose token has no binding; they
stay parked and hold no record. -/
def reportEntry (s : State) (p res token : Nat) : State :=
  (groupsOnEntry s p res).foldl (fun t e =>
    let m := lanesOnEntry e.2 res
    let core := coreOfKey e.1
    let body := match pendingOf (getLane e.2 (lowestLane m)) with | some r => memRecord r core | none => 0
    let t1 := loaderReport t p 0x02 { body := body, mask := m.toNat, addr := token, kernel := e.2.kern, core := core }
    putGroup t1 e.1 (mapLanes e.2 fun l ln => if m.getLsbD l then { ln with hold := .waiting none } else ln)) s

/-- R117, R328: the loader binds an entry once and releases every lane parked on it, or finds no binding for its token
and reports it; for token 0 it holds none (R328). An entry that a `RES` message has bound in the meantime keeps its
content. -/
def execEntryBind (part res : Nat) (entry : Option (BitVec 512)) (s : State) : Out :=
  match smFind s.parts part, resourceEntry s part res with
  | some x, .ok raw =>
    let kind := (entryOf raw).kind
    match entry with
    | some new =>
      if (entryOf new).kind = 0 || (kind ≠ 0 && new ≠ raw) || (kind = 0 && bitsOf (entryOf raw).ksp 0 32 = 0) then
        .fault .badArgument
      else if (kind ≠ 0 && (groupsOnEntry s part res).isEmpty) || requestWaits s part (entryVa s part res) then .fault .notEnabled
      else .next (releaseEntry (pokeVa s part (x.regs.rtbase.toNat + 64 * res) (leBytes 64 new.toNat)) part res)
    | none =>
      if kind ≠ 0 || (groupsOnEntry s part res).isEmpty then .fault .notEnabled
      else .next (reportEntry s part res (bitsOf (entryOf raw).ksp 0 32))
  | _, _ => .fault .notEnabled

/-- R105: the words that the runs of a gate's code give each block, in order; none when the code is not runs of blocks of
the gate followed by one `GEND`. -/
def gateRuns (mask : BitVec 64) (code : List Word) (got : SMap (List Word)) (fuel : Nat) : Option (SMap (List Word)) :=
  match fuel, code with
  | 0, _ => none
  | _, [] => none
  | fuel + 1, w :: rest =>
    match (decode [w]).result with
    | .ok .gend => if rest.isEmpty then some got else none
    | .ok (.str b l) =>
      let n := l.toNat + 1
      if mask.getLsbD b.toNat && decide (n ≤ rest.length) then
        gateRuns mask (rest.drop n) (smPut got b.toNat ((smFind got b.toNat).getD [] ++ rest.take n)) fuel
      else none
    | _ => none

/-- R51: the words of a run as whole instructions; none when the last is cut off. -/
def runItems (ws : List Word) (fuel : Nat) : Option (List Decoded) :=
  match fuel, ws with
  | _, [] => some []
  | 0, _ => none
  | fuel + 1, ws => match splitPrefixes ws with
    | (_, []) => none
    | (pre, _ :: rest) => (runItems rest fuel).map fun xs => decode (ws.take (pre.length + 1)) :: xs

/-- R105: the instructions of a gate in order, each with its block. -/
def gateItems (code : List Word) (fuel : Nat) : Option (List (Nat × Decoded)) :=
  match fuel, code with
  | 0, _ => none
  | _, [] => none
  | fuel + 1, w :: rest =>
    match (decode [w]).result with
    | .ok .gend => some []
    | .ok (.str b l) =>
      let n := l.toNat + 1
      match runItems (rest.take n) n, gateItems (rest.drop n) fuel with
      | some xs, some ys => some (xs.map (fun d => (b.toNat, d)) ++ ys)
      | _, _ => none
    | _ => none

/-- R31, R107: whether an instruction as decoded is a switch point. -/
def switchItem (d : Decoded) : Bool :=
  match d.result with
  | .ok i => isSwitchPoint i
  | .error _ => match d.words.getLast? with | some w => switchOpcode (w.extractLsb' 24 8).toNat | none => false

/-- R31, R52: the least and the most places by which an instruction shifts the latches of a lane that it does not trap: none
for an instruction of the uniform pipe, `UWIN` and `BPLD` among them (R47, R121, R187). -/
def itemShifts (d : Decoded) : Nat × Nat :=
  match d.result with
  | .error _ => (0, 0)
  | .ok i =>
    let op := (partsOf i).op.toNat
    if (0x80 ≤ op && op ≤ 0x9F) || op == 0x0A || op == 0x65 then (0, 0)
    else (if (guardOf i).ge then 0 else repCount i + 1, repCount i + 1)

/-- R45, R140: the latches that an instruction reads. -/
def latchesRead (i : Instr) : List Nat :=
  let named := fun (cls : FieldClass) (c : BitVec 8) =>
    if (cls == .laneSrc || cls == .rtrap) && 0xC0 ≤ c.toNat && c.toNat < 0xC4 then [c.toNat - 0xC0] else []
  let own := fun (d : BitVec 8) => if 0x80 ≤ d.toNat then [0] else []
  named (shapeOf i).a (partsOf i).a ++ named (shapeOf i).b (partsOf i).b
    ++ match i with
      | .mad d _ _ _ => own d
      | .ffma d _ _ _ => own d
      | .hfma2 d _ _ _ => own d
      | _ => []

/-- R107: no switch point of another strand stands between an instruction of block `blk` and the one of its strand that
produced a latch it reads. `seen` are the instructions before it, the nearest first; between `lo` and `hi` more shifts lead
back to the producer, as guards hold; `crossed` says that a switch point of another strand has been passed. -/
def latchKept (blk lo hi : Nat) (crossed : Bool) (seen : List (Nat × Decoded)) : Bool :=
  match seen with
  | [] => true
  | x :: rest =>
    if x.1 ≠ blk then latchKept blk lo hi (crossed || switchItem x.2) rest
    else if switchItem x.2 then true
    else
      let (least, most) := itemShifts x.2
      if crossed && most ≠ 0 && decide (lo ≤ most) then false
      else if hi ≤ least then true
      else latchKept blk (lo - most) (hi - least) crossed rest

/-- R107: every latch of a gate's strands keeps its value up to its readers. -/
def latchesKept (seen rest : List (Nat × Decoded)) : Bool :=
  match rest with
  | [] => true
  | x :: more =>
    (match x.2.result with
     | .ok i => (latchesRead i).all fun n => latchKept x.1 (n + 1) (n + 1) false seen
     | .error _ => true) && latchesKept (x :: seen) more

/-- R51, R107: a gate's runs end on instruction boundaries and no latch crosses a switch point of another strand. -/
def strandsKept (code : List Word) : Bool :=
  match gateItems code code.length with
  | some xs => latchesKept [] xs
  | none => false

/-- R103, R105, R107: a gate as the loader builds it from the canonical code of a kernel. A listed gate whose code would be longer
than 65,535 words cannot be built, and no `LOAD` of its module completes (the model's choice, notes/assumptions/59). -/
def gateBuilt (canon : List (List Word)) (gate : GateImage) : Bool :=
  gate.mask != 0 && (List.range 64).all (fun b => !gate.mask.getLsbD b || decide (b < canon.length)) && decide (gate.slot < 4096)
    && decide (2 ≤ gate.code.length) && decide (gate.code.length ≤ 65535) && decide (gate.off < 2 ^ 32)
    && strandsKept gate.code && match gateRuns gate.mask gate.code [] gate.code.length with
      | none => false
      | some got => (List.range canon.length).all fun b =>
          !gate.mask.getLsbD b || (smFind got b).getD [] == canon.getD b []

/-- R103: the 16 bytes of a gate's slot. -/
def gateSlotBytes (gate : GateImage) : List Byte :=
  leBytes 16 (gate.mask.toNat * 2 ^ 64 + 2 ^ 63 + gate.code.length * 2 ^ 36 + gate.off)

/-- R116: write a gate's code and then its slot. -/
def writeGate (s : State) (p : Nat) (kn : Kernel) (gate : GateImage) : State :=
  pokeVa (pokeVa s p (kn.codeBase + 4 * gate.off) (bytesOfWords gate.code)) p (kn.gateTable + 16 * gate.slot) (gateSlotBytes gate)

/-- R116, R113: the miss ring of a partition holds a record of a kernel and a set. -/
def missRecorded (s : State) (p : Nat) (x : Partition) (handle : Nat) (mask : BitVec 64) : Bool :=
  let base := x.regs.mrbase.toNat
  let head := (readVa s p base 8).getD 0
  (List.range (min head 8192)).any fun j => match readVa s p (base + 128 + 32 * j) 32 with
    | some v => bitsOf v 192 64 == mask.toNat && bitsOf v 32 32 == handle
    | none => false

/-- R116: the loader installs the gate of a recorded set in an empty slot; at most one for each kernel and set. -/
def execGateInstall (part handle : Nat) (gate : GateImage) (s : State) : Out :=
  match smFind s.parts part, findKernel s part handle with
  | some x, some kn =>
    let slots := tableSlots s part kn
    let taken := (loadedGates slots).any fun g => g.mask == gate.mask || rangesMeet g.off g.len gate.off gate.code.length
    if !gateBuilt kn.canon gate || taken || !(slots.any fun e => e.1 == gate.slot && e.2 == .empty)
        || (bytesVa s part (kn.codeBase + 4 * gate.off) (4 * gate.code.length)).isNone then .fault .badArgument
    else if missRecorded s part x handle gate.mask then .next (writeGate s part kn gate)
    else .fault .notEnabled
  | _, _ => .fault .notEnabled

end Sys2Proof.Machine
end

