-- ==== Sys2Proof/Machine/System.lean ====
section
/-!
DEFINITION. The system instructions, opcodes 0xD8-0xE0 (spec/19 R340, R341, R355 to R361, R208).
-/
namespace Sys2Proof.Machine

/-! ### System registers -/

/-- R338, R339: the record of a handler lane with the position that `RTRAP` has edited. -/
def passRecord (g : Group) (l : Nat) : Option (Bool × PassLane) :=
  g.pass.bind fun p => (smFind p.lanes l).map fun x => (p.fault, x)

/-- R339, R364: a latch of a record; a stale one reads 0. -/
def latchValue (v : Latch) : Nat :=
  match v with
  | some x => x.toNat
  | none => 0

/-- R338, R339: the lane registers 0x20 to 0x2D; none outside a pass. -/
def laneSysReg (core : Nat) (g : Group) (l n : Nat) : Option Nat :=
  (passRecord g l).map fun (fault, x) =>
    if n < 0x26 then bitsOf (trapRecord x.trec core) (64 * (n - 0x20)) 64
    else if n < 0x2A then latchValue (match n - 0x26 with
      | 0 => x.trec.lat0 | 1 => x.trec.lat1 | 2 => x.trec.lat2 | _ => x.trec.lat3)
    else if fault then bitsOf (memRecord x.orig core) (64 * (n - 0x2A)) 64
    else 0

/-- R340: the registers of a partition. -/
def partSysReg (x : Partition) (n : Nat) : Nat :=
  match n with
  | 0x01 => x.regs.fltvec.toNat
  | 0x02 => x.regs.emuj / 1000 % 2 ^ 64
  | 0x03 => x.regs.elost.toNat
  | 0x04 => x.regs.mlost.toNat
  | 0x05 => x.regs.rtbase.toNat
  | 0x06 => x.regs.rtcnt.toNat
  | 0x07 => x.regs.hotbase.toNat
  | 0x08 => x.regs.ptbase.toNat
  | 0x09 => x.regs.fpool.toNat
  | 0x0A => x.regs.hbase.toNat
  | 0x0B => x.regs.vwbase.toNat
  | 0x0C => x.regs.fzbase.toNat
  | 0x0D => x.regs.svbase.toNat
  | 0x0E => x.regs.erbase.toNat
  | 0x0F => x.regs.mrbase.toNat
  | _ => x.regs.fqbase.toNat

/-- R340: a system register as a lane reads it; none: an illegal operand (R341). -/
def readSysReg (c : Ctx) (n : Nat) : Option Nat :=
  if n = 0 then some c.g.trapvec.toNat
  else if 0x10 ≤ n && n ≤ 0x13 then some (smGet 0 c.g.rowm (n - 0x10)).toNat
  else if 0x14 ≤ n && n ≤ 0x1B then some (bitsOf (smGet 0 c.g.colm ((n - 0x14) / 2)).toNat (64 * ((n - 0x14) % 2)) 64)
  else if 0x20 ≤ n then laneSysReg (coreOfKey c.k) c.g c.l n
  else match smFind c.s.parts c.g.part with
    | some x => some (partSysReg x n)
    | none => some 0

/-- R341: a group register written; every other write is ignored. -/
def writeSysReg (g : Group) (n v : Nat) : Group :=
  if n = 0 then { g with trapvec := BitVec.ofNat 32 v }
  else if 0x10 ≤ n && n ≤ 0x13 then { g with rowm := smSet 0 g.rowm (n - 0x10) (BitVec.ofNat 64 v) }
  else if 0x14 ≤ n && n ≤ 0x1B then
    let i := (n - 0x14) / 2
    let old := (smGet 0 g.colm i).toNat
    let new := if n % 2 = 0 then old / 2 ^ 64 * 2 ^ 64 + v % 2 ^ 64 else old % 2 ^ 64 + v % 2 ^ 64 * 2 ^ 64
    { g with colm := smSet 0 g.colm i (BitVec.ofNat 128 new) }
  else g

/-- R356: the type of a system register's operand. -/
def sysRegType (n : BitVec 8) : BitVec 5 := if sysReg64 n then 8 else 6

/-- R356: read a system register. -/
def execSysrd (d : BitVec 8) (a : BitVec 8) (m : Mods) (s : State) : Out :=
  execLane (.sysrd d a m) (fun c =>
    match readSysReg c a.toNat with
    | some v => writeLane c c.ln c.d (sysRegType a) v
    | none => .error causeIllegalOperand) s

/-- R356, R341: write a system register. Every lane of E reads its source; the lowest whose source can be read supplies
the value. -/
def execSyswr (a : BitVec 8) (b : BitVec 8) (m : Mods) (s : State) : Out :=
  let i := (.syswr a b m)
  let value := fun c => readTy c b.toNat (sysRegType a)
  match issuing s with
  | none => .fault .noIssuingGroup
  | some (k, g, r) =>
    if legal i then
      let sel := selectedMask g
      let e := guardMask g (guardOf i) sel
      let vals := (lanesOf e).filterMap fun l => (value (mkCtx s k g r i sel e l)).toOption
      let g1 := match vals with
        | v :: _ => writeSysReg g a.toNat v
        | [] => g
      execLane i (fun c => do
        let _ ← value c
        .ok (shiftLatches c.ln none)) (putGroup s k g1)
    else .next (trapSelected s k g r i causeIllegalOperand {})

/-! ### Dispositions -/

/-- An instruction of a handler lane that changes what its pass holds for it. -/
def execPass (i : Instr) (body : Ctx → PassLane → Except (BitVec 8) PassLane) (s : State) : Out :=
  match issuing s with
  | none => .fault .noIssuingGroup
  | some (k, g, r) =>
    match g.pass with
    | none => .next (trapSelected s k g r i causeIllegalInstruction {})
    | some p =>
      if legal i then
        let sel := selectedMask g
        let e := guardMask g (guardOf i) sel
        let tried := fun (l : Nat) (x : PassLane) => body (mkCtx s k g r i sel e l) x
        let lanes : SMap PassLane := p.lanes.map fun x =>
          (x.1, if e.getLsbD x.1 then (match tried x.1 x.2 with | .ok y => y | .error _ => x.2) else x.2)
        let g1 := mapLanes g fun l ln =>
          if e.getLsbD l then
            match (smFind p.lanes l).map (tried l) with
            | some (.error c) => parkLane ln (mkRec g r (encode i) l c 0 {})
            | _ => shiftLatches ln none
          else ln
        .next (settle s k (advance { g1 with pass := some { p with lanes := lanes } } r i))
      else .next (trapSelected s k g r i causeIllegalOperand {})

/-- R357: the faulted instruction of a record is a block's terminator. -/
def isTerminator (t : TrapRec) : Bool :=
  match t.words.getLast? with
  | some w => let op := (w.extractLsb' 24 8).toNat; decide (1 ≤ op) && decide (op ≤ 5)
  | none => false

/-- R52, R357: the repeat count, less 1, that the `REP` word of a record holds. -/
def recordCount (t : TrapRec) : Nat :=
  match t.words.find? fun w => w.extractLsb' 24 8 == 0xF8 with
  | some w => (w.extractLsb' 18 6).toNat
  | none => 0

/-- R357: the position past an instruction. -/
def pastRecord (t : TrapRec) : TrapRec := { t with off := t.off + BitVec.ofNat 16 t.words.length, rpt := 0 }

/-- R357: forms 0 and 1. -/
def movePosition (form : Nat) (x : PassLane) : Except (BitVec 8) PassLane :=
  if isTerminator x.trec || x.edited then .error causeIllegalOperand
  else
    let t := if form = 1 && x.trec.rpt.toNat < recordCount x.trec then { x.trec with rpt := x.trec.rpt + 1 } else pastRecord x.trec
    .ok { x with trec := t, edited := true }

/-- R357: form 2: to the start of a block of the faulted kernel, or out. -/
def movePast (c : Ctx) (x : PassLane) : Except (BitVec 8) PassLane := do
  let t ← readN32 c c.a
  let n := match findKernel c.s c.g.part x.trec.kernel.toNat with | some kn => kn.canon.length | none => 0
  if t = 63 || t < n then .ok { x with trec := { x.trec with blk := BitVec.ofNat 6 t, off := 0, rpt := 0 } }
  else .error causeIllegalOperand

/-- R357: edit the position that *return* uses. -/
def execRtrap (f : BitVec 2) (a : BitVec 8) (m : Mods) (s : State) : Out :=
  execPass (.rtrap f a m) (fun c x => if f = 2 then movePast c x else movePosition f.toNat x) s

/-- R358: the lanes return to the faulted code. -/
def execRflt (m : Mods) (s : State) : Out :=
  execPass (.rflt m) (fun _ x => .ok { x with disp := .resume }) s

/-- R358: the event of a `PARK` for the lanes that execute it. -/
def parkEvent (s : State) (k : Nat) (g : Group) (r : Run) (e : Word) (code : BitVec 16) : State :=
  if e = 0 then s
  else deviceEvent s g.part (if code = 1 then 0x17 else 0x16)
    { mask := e.toNat, code := code.toNat, kernel := r.kern, core := coreOfKey k }

/-- R358: outside a pass a lane parks with its position past the `PARK`. -/
def parkPast (ln : Lane) (r : Run) (n : Nat) (code : BitVec 16) : Lane :=
  { shiftLatches ln none with hold := .waiting (some code), off := BitVec.ofNat 16 (offOf r + n), rpt := 0 }

/-- R358: park with a code. -/
def execPark (c : BitVec 16) (m : Mods) (s : State) : Out :=
  let i := (.park c m)
  match issuing s with
  | none => .fault .noIssuingGroup
  | some (k, g, r) =>
    if legal i then
      let e := guardMask g (guardOf i) (selectedMask g)
      let s1 := parkEvent s k g r e c
      if g.pass.isSome then execPass i (fun _ x => .ok { x with disp := .park c }) s1
      else
        .next (settle s1 k (advance (mapLanes g fun l ln =>
          if e.getLsbD l then parkPast ln r (encode i).length c else ln) r i))
    else .next (trapSelected s k g r i causeIllegalOperand {})

/-! ### Page tables -/

/-- R359: an entry of the page table that `MAPF` writes. -/
def pteOf (fset : Nat) (w pin : Bool) : Nat := 2 ^ 63 + (if w then 2 ^ 62 else 0) + (if pin then 2 ^ 61 else 0) + fset

/-- R359: every byte of a 64 KiB frame set becomes zero. -/
def zeroFrame (s : State) (p fset : Nat) : State :=
  let lo := physKey p fset 0
  { s with mem := s.mem.filter fun c => !(decide (lo ≤ c.1) && decide (c.1 < lo + 2 ^ 16)) }

/-- R343, R359: pop a frame set from the partition's pool and zero it. -/
def popFrame (s : State) (p : Nat) : State × Option Nat :=
  let pool := match smFind s.parts p with | some x => x.regs.fpool.toNat | none => 0
  match namedEntry s p pool [6] none with
  | .error _ => (s, none)
  | .ok (_, e) => match popList s p e 1 with
    | .ok (t, f :: _) => (zeroFrame t p f, some f)
    | _ => (s, none)

/-- R342: what an entry of levels 1 to 3 names. -/
inductive TableEntry where
  | missing
  | bigPage
  | table (fset : Nat)
  deriving DecidableEq, Repr

/-- R342: read an entry of levels 1 to 3; one that breaks the rules counts as not mapped. -/
def tableEntry (s : State) (p t level va : Nat) : TableEntry :=
  let e := memRead s.mem (pteKey p t level va) 8
  if bitsOf e 63 1 = 0 || !pteOk e then .missing
  else if level = 3 && bitsOf e 60 1 == 1 then .bigPage
  else if bitsOf e 60 3 != 0 then .missing
  else .table (bitsOf e 0 32)

/-- R359: the level-4 entry of a page, its table standing in frame set `t`. -/
def leafEntry (s : State) (p t va : Nat) : Option (Nat × Bool) :=
  let e := memRead s.mem (pteKey p t 4 va) 8
  if bitsOf e 63 1 = 1 && pteOk e && bitsOf e 60 1 == 0 then some (bitsOf e 0 32, bitsOf e 61 1 == 1) else none

/-- R359: the table of level 4 for an address, as far as the tables exist; `bigPage` when a 2 MiB page maps it. -/
def findLeaf (s : State) (p t level va fuel : Nat) : TableEntry :=
  match fuel with
  | 0 => .table t
  | fuel + 1 => match tableEntry s p t level va with
    | .table f => findLeaf s p f (level + 1) va fuel
    | x => x

/-- R359: the tables on the path from `level` on, made where they are missing; none when the pool is dry. -/
def makeTables (s : State) (p t level va fuel : Nat) : State × Option Nat :=
  match fuel with
  | 0 => (s, some t)
  | fuel + 1 => match tableEntry s p t level va with
    | .table f => makeTables s p f (level + 1) va fuel
    | _ => match popFrame s p with
      | (u, some f) =>
        makeTables { u with mem := memWrite u.mem (pteKey p t level va) 8 (pteOf f false false) } p f (level + 1) va fuel
      | (u, none) => (u, none)

/-- A mapping of a page table: a table of the next level (levels 1 to 3), a 64 KiB page (4) or a 2 MiB page (5). -/
structure MapRow where
  va : Nat
  fset : Nat
  level : Nat
  deriving DecidableEq, Repr

/-- R342: the entries of a table. -/
def tableSize (level : Nat) : Nat := match level with | 1 => 8192 | 4 => 32 | _ => 512

/-- R342: the addresses that an entry of a level maps. -/
def tableSpan (level : Nat) : Nat := match level with | 1 => 2 ^ 39 | 2 => 2 ^ 30 | 3 => 2 ^ 21 | _ => 2 ^ 16

/-- The entries of a table that hold a byte other than zero. -/
def usedEntries (m : List Host.Cell) (part t level : Nat) : List Nat :=
  let lo := physKey part t 0
  ((m.filter fun c => decide (lo ≤ c.1) && decide (c.1 < lo + 8 * tableSize level)).map fun c => (c.1 - lo) / 8).eraseDups

/-- R342: what a table maps. -/
def mapRows (m : List Host.Cell) (part t level va fuel : Nat) : List MapRow :=
  match fuel with
  | 0 => []
  | fuel + 1 => (usedEntries m part t level).flatMap fun i =>
    let at_ := va + i * tableSpan level
    let e := memRead m (physKey part t (8 * i)) 8
    let fset := bitsOf e 0 32
    if bitsOf e 63 1 = 0 || !pteOk e then []
    else if level = 4 then (if bitsOf e 60 1 = 1 then [] else [{ va := at_, fset := fset, level := 4 }])
    else if level = 3 && bitsOf e 60 1 == 1 then [{ va := at_, fset := fset, level := 5 }]
    else if bitsOf e 60 3 ≠ 0 then []
    else { va := at_, fset := fset, level := level } :: mapRows m part fset (level + 1) at_ fuel

/-- R221: the pages of a partition that map a frame set, in its page table or in a TLB, by their addresses. -/
def framePages (s : State) (p : Nat) (x : Partition) (f : Nat) : List Nat :=
  let rows := ((mapRows s.mem p x.regs.ptbase.toNat 1 0 4).filter fun r => decide (4 ≤ r.level) && r.fset == f).map (·.va)
  let page := fun (key : Nat) => key % 2 ^ 36 * (if key / 2 ^ 36 % 2 = 1 then 2 ^ 21 else 2 ^ 16)
  (rows ++ (x.tlb.filter fun e => e.2.fset == f).map (fun e => page e.1)
    ++ (x.stlb.filter fun e => e.2.fset == f).map fun e => page e.1).eraseDups

/-- R221: an owner of a line of a frame set. -/
def ownsOf (f : Nat) (e : Nat × Option Nat) : Bool := e.1 / 2 ^ 14 == f

/-- R348: the page of `size` bytes at an address is written whole, its parity with it: its lines are good; the other lines of its
stripes that were lost stay lost. -/
def healPage (s : State) (x : Partition) (va size : Nat) : Partition :=
  let inPage := fun (l : Nat) => l / size == va / size
  let here := fun (st : Nat) => (stripeLines x st).any inPage
  let others := ((x.badParity.filter here).flatMap (stripeLines x)).filter fun l => !inPage l && lineLost s x l && !x.lost.contains l
  { x with bad := x.bad.filter fun l => !inPage l, lost := others ++ x.lost.filter fun l => !inPage l
           badParity := x.badParity.filter fun st => !here st }

/-- R221, R348, R359, R370: the new page of `size` bytes at an address has frame set `f`: its zeroed lines are good, and it is an
alias when another page maps `f` too. -/
def freshPage (s : State) (p va size f : Nat) : State :=
  match smFind s.parts p with
  | none => s
  | some x =>
    let others := (framePages s p x f).filter (· ≠ va)
    putPart s p { healPage s x va size with
                  aliased := if others.isEmpty then smErase x.aliased f else smPut x.aliased f (va :: others)
                  owners := x.owners.filter fun e => !ownsOf f e }

/-- R220: the event of a walk through the page table that meets a malformed entry. -/
def tableWalkEvent (s : State) (p va core : Nat) : State :=
  match walk s p va with
  | .malformed => deviceEvent s p 0x19 { addr := va, core := core }
  | _ => s

/-- R359: `MAPF` in one lane, by a group of a core: the state after it, and the frame set when it succeeds. -/
def mapPage (s0 : State) (p core addr : Nat) (w pin unmap : Bool) : State × Option Nat :=
  let va := addr / 2 ^ 16 * 2 ^ 16
  let s := tableWalkEvent s0 p va core
  let root := match smFind s.parts p with | some x => x.regs.ptbase.toNat | none => 0
  let found := findLeaf s p root 1 va 3
  if 2 ^ 52 ≤ va then (s, none)
  else match found with
    | .bigPage => (s, none)
    | _ =>
      let leaf : Option (Nat × Nat × Bool) := match found with
        | .table t => (leafEntry s p t va).map fun x => (t, x)
        | _ => none
      match leaf with
      | some (t, f, pinned) =>
        if !unmap then (s, some f)
        else if pinned then (s, none)
        else
          let key := pteKey p t 4 va
          ({ s with mem := memWrite s.mem key 8 (memRead s.mem key 8 - 2 ^ 63) }, some f)
      | none =>
        if unmap then (s, none)
        else match makeTables s p root 1 va 3 with
          | (s1, none) => (s1, none)
          | (s1, some t) => match popFrame s1 p with
            | (s2, none) => (s2, none)
            | (s2, some f) =>
              let s3 := freshPage s2 p va (2 ^ 16) f
              ({ s3 with mem := memWrite s3.mem (pteKey p t 4 va) 8 (pteOf f w pin) }, some f)

/-- R332, R355: only a fault pass runs in supervisor mode. -/
def inFaultPass (g : Group) : Bool := match g.pass with | some p => p.fault | none => false

/-- R359: the lanes of E in ascending order. -/
def mapLanesOf (c : Ctx) (flags : Nat) : State × Group :=
  (lanesOf c.e).foldl (fun (acc : State × Group) l =>
    let ln := getLane acc.2 l
    let trap := (acc.1, setLane acc.2 l (parkLane ln (mkRec c.g c.r (encode c.i) l causeIllegalOperand 0 {})))
    if regInside c.g ln c.a 64 && regInside c.g ln c.d 32 then
      let r := mapPage acc.1 c.g.part (coreOfKey c.k) (regValue ln c.a 64) (flags.testBit 0) (flags.testBit 1) (flags.testBit 2)
      let out := writeAbs ln (ln.win.toNat + c.d) 6 (r.2.getD 0xFFFFFFFF)
      (r.1, setLane acc.2 l (atomPreds out r.2.isSome))
    else trap) (c.s, c.g)

/-- R343: the entry of the frame pool of a partition. -/
def framePool (s : State) (p : Nat) : Option Entry :=
  match smFind s.parts p with
  | some x => (namedEntry s p x.regs.fpool.toNat [6] none).toOption.map (·.2)
  | none => none

/-- R343: how many frame sets have left the pool. -/
def poolHead (s : State) (p : Nat) : Nat :=
  match (framePool s p).bind fun e => (readList s p e).toOption with
  | some l => l.head
  | none => 0

/-- R276, R359, R378: the lines of the frame pool that `n` pops from it touch, and the bytes that they inject, each the header and its
item. -/
def poolTouched (s : State) (p n : Nat) : Touched :=
  match framePool s p with
  | some e => if n = 0 then { touchHeader e 0 with bytes := 0 } else { touchPop s p n e with bytes := n * (touchHeader e 1).bytes }
  | none => { reads := [], writes := [], bytes := 0 }

/-- R359: map or unmap a page; a lane that maps one pops at most four frame sets. -/
def execMapf (d : BitVec 7) (a : BitVec 8) (b : BitVec 8) (m : Mods) (s : State) : Out :=
  execGroup (.mapf d a b m) false true (fun c =>
    let flags := resourceIndex c c.b
    if !inFaultPass c.g then .trap causePrivilege {}
    else if bitsOf flags 3 29 ≠ 0 then .trap causeIllegalOperand {}
    else if !flags.testBit 2 && (smFind c.s.parts c.g.part).any (partHeld c.s) then .stall .none c.s c.g
    else
      let pops := poolHead (mapLanesOf c flags).1 c.g.part - poolHead c.s c.g.part
      let x := if flags.testBit 2 then { reads := [], writes := [], bytes := 0 } else poolTouched c.s c.g.part pops
      whenFree c x.reads x.writes x.bytes fun c' =>
        let r := mapLanesOf c' flags
        .done r.1 r.2) s

/-- R360: whether an address lies in the pages that `TLBINV` acts on; none: all. -/
def inPages (page : Option Nat) (big : Bool) (va : Nat) : Bool :=
  match page with
  | none => true
  | some a => if big then a / 2 ^ 21 == va / 2 ^ 21 else a / 2 ^ 16 == va / 2 ^ 16

/-- R360: an access of a request lies in the pages. -/
def accInPages (q : Req) (page : Option Nat) (big : Bool) (a : Acc) : Bool :=
  inPages page big (elemAddr (entryOf q.entry) a.coords)

/-- R360: the earlier accesses to the pages are performed. -/
def performPages (s : State) (p : Nat) (page : Option Nat) (big : Bool) : State :=
  s.reqs.foldl (fun t q =>
    if q.2.part = p then q.2.accs.zipIdx.foldl (fun u a => if accInPages q.2 page big a.1 then performAcc u q.1 a.2 else u) t
    else t) s

/-- The addresses of the lines of the rows that a job has still to take. -/
def jobAddrs (s : State) (p : Nat) (j : JobDesc) : List Nat :=
  j.chans.flatMap fun e => e.2.rows.flatMap fun row => j.phases.flatMap (rowLines s p row)

/-- The addresses of the lines that an item at work has still to access. -/
def flightAddrs (s : State) (x : Item) : List Nat :=
  match x.istate, x.kind with
  | .running, .job j => jobAddrs s x.part j
  | .running, _ => itemAddrs s x
  | _, _ => []

/-- R254, R257, R360: earlier accesses to the pages that cannot be performed yet: those of requests that are held or not injected,
and those of copies, list instructions, jobs and moves of tile elements in flight. -/
def pagesBusy (s : State) (p : Nat) (page : Option Nat) (big : Bool) : Bool :=
  (s.reqs.any fun q => q.2.part == p && q.2.accs.any fun a => !a.done && accInPages q.2 page big a && !accReady s q.2 a)
    || (s.items.any fun x => x.2.part == p && (flightAddrs s x.2).any (inPages page big))
    || (s.engines.any fun e => e.2.any fun o => (queuedAddrs s p o).any (inPages page big))

/-- R219, R360: whether a TLB key names a page that `TLBINV` acts on. -/
def keyInPages (page : Option Nat) (key : Nat) : Bool :=
  match page with
  | none => true
  | some a =>
    let n := key % 2 ^ 36
    if key / 2 ^ 36 % 2 = 1 then n == a / 2 ^ 21 else n == a / 2 ^ 16

/-- R222, R360: the pages' entries leave every TLB of the partition, their hotness added. -/
def dropTlb (s : State) (p : Nat) (page : Option Nat) : State :=
  match smFind s.parts p with
  | none => s
  | some x =>
    let gone := x.tlb.filter fun e => keyInPages page e.1
    gone.foldl (fun t e => addHotness t p e.2)
      (putPart s p { x with tlb := x.tlb.filter fun e => !keyInPages page e.1
                            stlb := x.stlb.filter fun e => !keyInPages page e.1 })

/-- R221: one page alone is left of those that mapped a frame set, its lines leave every tier, and the translations of the others are
gone: a line that another page has stored to, or none, holds free values; no store is open any more (notes/assumptions/55). -/
def settleFrame (s : State) (p f page : Nat) : State :=
  match smFind s.parts p with
  | none => s
  | some x =>
    let n := match walk s p page with | .page _ _ _ true => 2 ^ 14 | _ => 512
    let t := putPart s p { x with aliased := smErase x.aliased f, owners := x.owners.filter fun e => !ownsOf f e }
    (List.range n).foldl (fun u i =>
      if smFind x.owners (f * 2 ^ 14 + i) = some (some (page + 128 * i)) then u
      else { u with mem := memWrite u.mem (physKey p f (128 * i)) 128 (freeBytes u.freeCtr 128), freeCtr := u.freeCtr + 128 }) t

/-- R221, R360: frame sets that one page alone maps by now, an invalidated one, are no aliases any more. -/
def settleFrames (s : State) (p : Nat) (page : Option Nat) (big : Bool) : State :=
  match smFind s.parts p with
  | none => s
  | some x => x.aliased.foldl (fun t e => match framePages t p ((smFind t.parts p).getD x) e.1 with
      | [] => putPart t p { (smFind t.parts p).getD x with aliased := smErase ((smFind t.parts p).getD x).aliased e.1 }
      | [a] => if inPages page big a then settleFrame t p e.1 a else t
      | _ => t) s

/-- R360: remove translations. The instruction waits for earlier accesses to the pages that something holds, and for those that engines
have still to make. -/
def execTlbinv (f : BitVec 1) (a : BitVec 8) (m : Mods) (s : State) : Out :=
  execGroup (.tlbinv f a m) false true (fun c =>
    if !inFaultPass c.g then .trap causePrivilege {}
    else
      let page := if f = 0 then some (slotValue c.g (c.a - 0xD0) 64) else none
      let big := match page with
        | some va => (match channelWalk c.s c.g.part va with | .page _ _ _ b => b | _ => false)
        | none => false
      if pagesBusy c.s c.g.part page big then .stall .none c.s c.g
      else .done (settleFrames (dropTlb (performPages c.s c.g.part page big) c.g.part page) c.g.part page big) c.g) s

/-! ### Context images -/

/-- R361: the place of an image: its resource and address, or the fault of the group. -/
def imagePlace (c : Ctx) : Except GroupOut (BitVec 512 × Entry × Nat) :=
  let off := resourceIndex c c.a
  let res := resourceIndex c c.b
  match namedEntry c.s c.g.part res [1] none with
  | .error cause => .error (GroupOut.trap cause (entryInfo c.s c.g.part res 0 c.l cause))
  | .ok (raw, e) =>
    if off % 256 = 0 && off + imageSize c.g ≤ linearBytes e then .ok (raw, e, e.base + off)
    else .error (.trap causeIllegalOperand {})

/-- R361: save the group's image at the next `GEND`. -/
def execCtxsv (d : BitVec 7) (a : BitVec 8) (b : BitVec 8) (m : Mods) (s : State) : Out :=
  execGroup (.ctxsv d a b m) false false (fun c =>
    if engineBusy c.s c.k then .stall (.engine 0xFFFF) c.s c.g
    else match imagePlace c with
      | .error o => o
      | .ok (raw, e, va) =>
        if e.ro || !c.g.pend.isEmpty || c.g.ctxReq.isSome then .trap causeIllegalOperand {}
        else if e.gre then .trap causeWrite { res := resourceIndex c c.b, lane := c.l }
        else .done c.s { c.g with ctxReq := some (.save (c.g.uwin.toNat + c.d) va raw) }) s

/-- R361, R208: read the image at `va` of a resource, which the next `GEND` installs. -/
def loadImage (e : Entry) (va : Nat) (c : Ctx) : GroupOut :=
  match entryBytes c.s c.g.part e (va - e.base) (imageSize c.g) with
  | .error f =>
    .fail (faultEvent c.s c.g.part f.1 f.2 (coreOfKey c.k)) c.g f.1 { va := f.2, res := resourceIndex c c.b, lane := c.l }
  | .ok bs =>
    if !imageFits c.g bs then .fail c.s c.g causeIllegalOperand {}
    else if !imageGrants bs then .fail c.s c.g causeShapeMigration {}
    else .done (countPeer c.s c.g.part va) { c.g with ctxReq := some (.load bs) }

/-- R361, R208: replace the group's state at the next `GEND`. -/
def execCtxld (a : BitVec 8) (b : BitVec 8) (m : Mods) (s : State) : Out :=
  execGroup (.ctxld a b m) false false (fun c =>
    match imagePlace c with
    | .error o => o
    | .ok (_, e, va) =>
      if c.g.ctxReq.isSome then .trap causeIllegalOperand {}
      else whenFree c (linesFrom va (imageSize c.g)) [] (imageSize c.g) (loadImage e va)) s

end Sys2Proof.Machine
end

