-- ==== Sys2Proof/Machine/Loader.lean ====
section
/-!
DEFINITION. The Glarex loader (spec/21): message slots and replies (R366 to R371), pages (R370, R342), modules (R382 to
R384, R299, R102, R105), resource entries, and the creation of a partition (R375, R376). What the loader chooses comes
with the step (notes/assumptions/15).
-/
namespace Sys2Proof.Machine

/-! ### Messages -/

/-- R367: a message slot as it is after reset. -/
def MsgSlot.zero : MsgSlot := { header := 0, body := 0, arrived := 0, earlier := [] }

/-- R367: a message slot of a function. -/
def getSlot (f : Fn) (n : Nat) : MsgSlot := (smFind f.slots n).getD MsgSlot.zero

/-- R367: the header of a message that the loader holds. -/
def openHeader (ty : BitVec 8) (tag : Word) : DWord := BitVec.ofNat 64 (2 ^ 63 + ty.toNat * 2 ^ 48 + tag.toNat)

/-- R367, R368: a message of the physical function whose reply waits: its slot stays the loader's. -/
def holdMessage (s : State) (h : Msg) (ty : BitVec 8) : State :=
  let f := getFn s h.fn
  let t := putFn s h.fn { f with slots := smPut f.slots h.slot { getSlot f h.slot with header := openHeader ty h.tag } }
  { t with dev := { t.dev with openMsg := some (h.slot, ty, h.tag) } }

/-- R367: a slot that the loader has released, with its reply. -/
def replyHeader (ty : BitVec 8) (status : Nat) (tag : Word) : DWord :=
  BitVec.ofNat 64 (ty.toNat * 2 ^ 48 + status * 2 ^ 40 + tag.toNat)

/-- R367, R371: write the reply into a slot, clear `OWN` and raise vector 0. -/
def replyTo (s : State) (fn slot : Nat) (ty : BitVec 8) (tag : Word) (status body : Nat) : State :=
  let f := getFn s fn
  raiseVector
    (putFn s fn
      { f with slots := smPut f.slots slot
                 { getSlot f slot with header := replyHeader ty status tag, body := BitVec.ofNat 1984 body, earlier := [] } }) fn 0

/-- R367: the reply to a message. -/
def reply (s : State) (h : Msg) (ty : BitVec 8) (status body : Nat) : Out := .next (replyTo s h.fn h.slot ty h.tag status body)

/-- R367: the loader owns a slot. -/
def slotOwned (y : MsgSlot) : Bool := y.header.getLsbD 63

/-- R368: no message of the function has arrived before that of a slot: a header that the host has written waits for those
that have arrived before it, and one that the message itself stands for arrives last. -/
def slotFirst (f : Fn) (n : Nat) : Bool :=
  let y := getSlot f n
  (f.slots.filter fun e => slotOwned e.2).all fun e => slotOwned y && decide (y.arrived ≤ e.2.arrived)

/-- R367: an 8-byte word of the body of a slot. -/
def slotWord (b : BitVec 1984) (n : Nat) : DWord := b.extractLsb' (64 * n) 64

/-- R367: a body with which the loader may execute the message of a slot: each word of it stands in the slot, or stood there
before the host wrote it in a slot of the loader's. A slot that the host has not written takes any. -/
def bodyFits (y : MsgSlot) (b : BitVec 1984) : Bool :=
  !slotOwned y || (List.range 31).all fun n => slotWord b n == slotWord y.body n || y.earlier.contains (n, slotWord b n)

/-- R367: a message whose body the spec lays out stands in its slot. -/
def bodyHeld (s : State) (h : Msg) (b : BitVec 1984) : Bool := bodyFits (getSlot (getFn s h.fn) h.slot) b

/-- R370, R376: the reserved bits of a body, of the types whose body the spec lays out: `RELEASE` and `CREATE`. -/
def reservedBody (ty : BitVec 8) : Option (BitVec 1984) :=
  if ty = 0x08 then some (BitVec.ofNat 1984 (2 ^ 1984 - 2 ^ 81))
  else if ty = 0x40 then
    some (BitVec.ofNat 1984 ((2 ^ 768 - 1) * 2 ^ 1216 + (2 ^ 32 - 1) * 2 ^ 416 + (2 ^ 32 - 1) * 2 ^ 32 + 15 * 2 ^ 12 + 31 * 2 ^ 3))
  else none

/-- R367: the words of the body with which the loader may execute the message of a slot set a reserved bit. Where the spec lays the
body out, the bit is in one of the words; else the message alone tells of it. -/
def bodyReserves (y : MsgSlot) (ty : BitVec 8) : Bool :=
  match reservedBody ty with
  | none => true
  | some m => (List.range 31).any fun n =>
      (slotWord y.body n :: (y.earlier.filter fun e => e.1 == n).map (·.2)).any fun w => w &&& slotWord m n != 0

/-- R367: a slot fits a message: the host has put no header into it, and the message stands for that write as well, or it
holds the message's header, and the message tells of a reserved bit only if one is set in the header or the body, and of each that is set
in the header. -/
def slotFits (y : MsgSlot) (h : Msg) (ty : BitVec 8) : Bool :=
  let headed := y.header.extractLsb' 56 7 != 0 || y.header.extractLsb' 32 8 != 0
  !slotOwned y
    || (y.header.extractLsb' 48 8 == ty && y.header.extractLsb' 0 32 == h.tag
        && (if h.rsvd then headed || bodyReserves y ty else !headed))

/-- R365, R367, R386, R368: a message can be taken: the loader runs, the function and the slot exist, no message of the function
is open, and none has arrived before it. -/
def msgTaken (s : State) (h : Msg) (ty : BitVec 8) : Bool :=
  s.dev.boot == .running && decide (h.fn ≤ 8) && decide (h.slot < 64) && (h.fn != 0 || s.dev.openMsg.isNone)
    && slotFirst (getFn s h.fn) h.slot && slotFits (getSlot (getFn s h.fn) h.slot) h ty

/-- R365: the partition of a virtual function. -/
def partOfFn (s : State) (fn : Nat) : Option (Nat × Partition) := s.parts.find? fun e => e.2.vf == fn

/-- R368, R369: a message of a virtual function to its partition: a function without the right receives status 3, a set
reserved bit status 2. -/
def vfMessage (h : Msg) (ty : BitVec 8) (body : Nat → Partition → Out) (s : State) : Out :=
  if !msgTaken s h ty then .fault .notEnabled
  else match partOfFn s h.fn with
    | none => reply s h ty 3 0
    | some (p, x) => if h.fn = 0 then reply s h ty 3 0 else if h.rsvd then reply s h ty 2 0 else body p x

/-- R368, R369: a message of the physical function. -/
def pfMessage (h : Msg) (ty : BitVec 8) (body : Out) (s : State) : Out :=
  if !msgTaken s h ty then .fault .notEnabled
  else if h.fn ≠ 0 then reply s h ty 3 0
  else if h.rsvd then reply s h ty 2 0
  else body

/-! ### Pages -/

/-- R342: what a partition's page table maps. -/
def partRows (s : State) (p : Nat) (x : Partition) : List MapRow := mapRows s.mem p x.regs.ptbase.toNat 1 0 4

/-- The pages of a partition: address, and whether it is of 2 MiB. -/
def mappedPages (s : State) (p : Nat) (x : Partition) : List (Nat × Bool) :=
  (partRows s p x).filterMap fun r => if 4 ≤ r.level then some (r.va, r.level == 5) else none

/-- R343: the frame sets in a partition's pool. -/
def poolItems (s : State) (p : Nat) (x : Partition) : List Nat :=
  match namedEntry s p x.regs.fpool.toNat [6] none with
  | .error _ => []
  | .ok (_, e) => match readList s p e with
    | .error _ => []
    | .ok l => (listedItems s p l l.head (l.tail - l.head)).toOption.getD []

/-- The frame sets that stand in the tables of a partition, and in its pool. -/
def framesListed (s : State) (p : Nat) (x : Partition) : List Nat :=
  x.regs.ptbase.toNat :: (partRows s p x).map (fun r => r.fset) ++ poolItems s p x

/-- R17, R343: the frame sets that a partition uses: those, and others that the loader has given it. -/
def framesInUse (s : State) (p : Nat) (x : Partition) : List Nat :=
  framesListed s p x ++ x.given.filter fun f => !(framesListed s p x).contains f

/-- The frame sets of 64 KiB that a partition holds once the loader has mapped pages or filled the pool are its own from then on. -/
def giveFrames (s : State) (p : Nat) : State :=
  match smFind s.parts p with
  | none => s
  | some x =>
    let big := ((partRows s p x).filter fun r => r.level == 5).map (·.fset)
    putPart s p { x with given := x.given ++ ((framesListed s p x).eraseDups.filter fun f => !x.given.contains f && !big.contains f) }

/-- R17, R1: the usable bytes of parity groups, 28 GB each. -/
def groupBytes (groups : BitVec 16) : Nat := 28 * 10 ^ 9 * ((List.range 16).filter fun g => groups.getLsbD g).length

/-- R17, R379: the bytes that a partition's parity groups can hold; while its pages move, also in the new groups. -/
def capacity (x : Partition) : Nat := min (groupBytes x.groups) (groupBytes (x.newGroups.getD x.groups))

/-- R219: the bytes that a partition's frame sets take: 2 MiB for a page of that size, 64 KiB for others. -/
def bytesInUse (s : State) (p : Nat) (x : Partition) : Nat :=
  2 ^ 16 * (framesInUse s p x).length + (2 ^ 21 - 2 ^ 16) * ((partRows s p x).filter fun r => r.level == 5).length

/-- Frame sets that the loader may take, `big` of them for 2 MiB pages: numbers of 32 bits, each once, none in use, within
the partition's memory (R17); their numbers are the model's choice (notes/assumptions/52). -/
def framesFree (s : State) (p : Nat) (x : Partition) (frames : List Nat) (big : Nat) : Bool :=
  let used := framesInUse s p x
  frames.eraseDups.length == frames.length && (frames.all fun f => decide (f < 2 ^ 32) && !used.contains f)
    && decide (bytesInUse s p x + 2 ^ 16 * frames.length + (2 ^ 21 - 2 ^ 16) * big ≤ capacity x)

/-- R370: zero every byte of a frame set of a page. -/
def zeroPage (s : State) (p fset : Nat) (big : Bool) : State :=
  let lo := physKey p fset 0
  { s with mem := s.mem.filter fun c => !(decide (lo ≤ c.1) && decide (c.1 < lo + if big then 2 ^ 21 else 2 ^ 16)) }

/-- R342: the tables of levels `level` on along an address, made from frame sets of a list where they are missing: the
state, the last table, the frame sets left. None when a 2 MiB page stands in the way or the list is used up. -/
def loaderTables (s : State) (p t level va fuel : Nat) (frames : List Nat) : Option (State × Nat × List Nat) :=
  match fuel with
  | 0 => some (s, t, frames)
  | fuel + 1 => match tableEntry s p t level va with
    | .table f => loaderTables s p f (level + 1) va fuel frames
    | .bigPage => none
    | .missing => match frames with
      | [] => none
      | f :: rest =>
        let u := zeroPage s p f false
        loaderTables { u with mem := memWrite u.mem (pteKey p t level va) 8 (pteOf f false false) } p f (level + 1) va fuel rest

/-- R342, R220: the entry of a 2 MiB page. -/
def bigPte (fset : Nat) (w pin : Bool) : Nat := pteOf fset w pin + 2 ^ 60

/-- R370, R342: the loader maps one page that is not mapped; tables come from a list of frame sets. -/
def loaderMap (s : State) (p : Nat) (g : PagePlan) (frames : List Nat) : Option (State × List Nat) :=
  match smFind s.parts p with
  | none => none
  | some x =>
    let size := if g.big then 2 ^ 21 else 2 ^ 16
    if g.va % size ≠ 0 || decide (2 ^ 52 ≤ g.va) then none
    else match loaderTables s p x.regs.ptbase.toNat 1 g.va (if g.big then 2 else 3) frames with
      | none => none
      | some (s1, t, rest) =>
        let key := pteKey p t (if g.big then 3 else 4) g.va
        if bitsOf (memRead s1.mem key 8) 63 1 = 1 then none
        else
          let s2 := freshPage (zeroPage s1 p g.fset g.big) p g.va size g.fset
          let e := if g.big then bigPte g.fset g.w g.pin else pteOf g.fset g.w g.pin
          some ({ s2 with mem := memWrite s2.mem key 8 e }, rest)

/-- The loader maps pages, one after another. -/
def loaderMaps (s : State) (p : Nat) (pages : List PagePlan) (frames : List Nat) : Option State :=
  match pages with
  | [] => some s
  | g :: rest => match loaderMap s p g frames with
    | none => none
    | some (t, left) => loaderMaps t p rest left

/-- The loader's pages and tables stand on frame sets that were free. -/
def loaderPages (s : State) (p : Nat) (pages : List PagePlan) (tables : List Nat) : Option State :=
  match smFind s.parts p with
  | none => none
  | some x =>
    if framesFree s p x (tables ++ pages.map fun g => g.fset) (pages.filter fun g => g.big).length then
      (loaderMaps s p pages tables).map fun t => giveFrames t p
    else none

/-- R299: every page of a range of addresses is mapped by the page table, writable where `w` asks it. -/
def spanMapped (s : State) (p va n : Nat) (w : Bool) : Bool :=
  (List.range ((va + n - 1) / 2 ^ 16 - va / 2 ^ 16 + 1)).all fun i =>
    match walk s p ((va / 2 ^ 16 + i) * 2 ^ 16) with
    | .page _ x _ _ => x || !w
    | _ => false

/-- Zero a range of addresses, page by page. -/
def zeroSpan (s : State) (p va n : Nat) : State :=
  (List.range ((va + n - 1) / 2 ^ 16 - va / 2 ^ 16 + 1)).foldl (fun t i =>
    let page := (va / 2 ^ 16 + i) * 2 ^ 16
    let lo := max va page
    let hi := min (va + n) (page + 2 ^ 16)
    match translate t p lo with
    | some (k, _) => { t with mem := t.mem.filter fun c => !(decide (k ≤ c.1) && decide (c.1 < k + (hi - lo))) }
    | none => t) s

/-- R370: what stands in the way of a page of `MAP`. -/
inductive MapState where
  | clear
  | mapped
  | blocked
  deriving DecidableEq, Repr

/-- R370: the state of a page of `MAP`: already mapped at its size, free, or blocked by a page or table of another size. -/
def mapState (s : State) (p : Nat) (x : Partition) (va : Nat) (big : Bool) : MapState :=
  match findLeaf s p x.regs.ptbase.toNat 1 va 2 with
  | .table t =>
    if big then (match tableEntry s p t 3 va with | .bigPage => .mapped | .table _ => .blocked | .missing => .clear)
    else (match tableEntry s p t 3 va with
      | .bigPage => .blocked
      | .missing => .clear
      | .table u => if (leafEntry s p u va).isSome then .mapped else .clear)
  | _ => .clear

/-- R370: map a page of `MAP`: a 64 KiB page as `MAPF` does, a 2 MiB page on a frame set of the loader's; a malformed entry on the
way writes the record of R220. -/
def mapOne (acc : Option (State × List Nat)) (p va : Nat) (w pin big : Bool) : Option (State × List Nat) :=
  match acc with
  | none => none
  | some (s, frames) =>
    if big then
      let s0 := tableWalkEvent s p va 0
      match smFind s0.parts p, frames with
      | some x, f :: rest => match makeTables s0 p x.regs.ptbase.toNat 1 va 2 with
        | (_, none) => none
        | (s1, some t) =>
          let s2 := freshPage (zeroPage s1 p f true) p va (2 ^ 21) f
          some ({ s2 with mem := memWrite s2.mem (pteKey p t 3 va) 8 (bigPte f w pin) }, rest)
      | _, _ => none
    else match mapPage s p 0 va w pin false with
      | (_, none) => none
      | (s1, some _) => some (s1, frames)

/-- R370: `MAP`: every page is checked before any is changed; status 5 where a page of the other size stands in the way,
status 4 when frame sets run out. -/
def execMap (h : Msg) (va pages : Nat) (w pin big : Bool) (frames : List Nat) (s : State) : Out :=
  vfMessage h 0x03 (fun p x =>
    let size := if big then 2 ^ 21 else 2 ^ 16
    let vas := (List.range pages).map fun i => va + size * i
    if va % size ≠ 0 || decide (2 ^ 52 < va + size * pages) then reply s h 0x03 2 0
    else if !framesFree s p x frames frames.length then .fault .badArgument
    else if vas.any fun a => mapState s p x a big == .blocked then reply s h 0x03 5 0
    else if partHeld s x then .fault .notEnabled
    else match (vas.filter fun a => mapState s p x a big == .clear).foldl (fun acc a => mapOne acc p a w pin big) (some (s, frames)) with
      | some (t, _) => reply t h 0x03 0 0
      | none => reply s h 0x03 4 0) s

/-! ### Modules -/

/-- R26: a terminator. -/
def isTerminatorInstr (i : Instr) : Bool :=
  match i with
  | .br _ => true
  | .brc _ _ _ => true
  | .brx _ => true
  | .brl _ _ _ => true
  | .exit => true
  | _ => false

/-- R102, R121: the blocks that the word of a terminator names, whether or not it can be read. -/
def namedBlocks (w : Word) : List Nat :=
  match w.toNat / 2 ^ 24 with
  | 0x01 => [w.toNat % 2 ^ 16]
  | 0x02 => [w.toNat / 2 ^ 8 % 2 ^ 8, w.toNat % 2 ^ 8]
  | 0x04 => [w.toNat / 2 ^ 8 % 2 ^ 8, w.toNat % 2 ^ 8]
  | _ => []

/-- R26, R102: a block's code: whole instructions, the last a terminator and no other; no terminator, well formed or not,
names a block at or above `n`. -/
def blockCodeOk (n : Nat) (code : List Word) (fuel : Nat) : Bool :=
  match fuel, code with
  | 0, _ => false
  | _, [] => false
  | fuel + 1, ws =>
    let d := decode (ws.take 5)
    let rest := ws.drop (max 1 d.words.length)
    ((d.words.getLast?.toList.flatMap namedBlocks).all fun t => decide (t < n)) && match d.result with
      | .ok i => if isTerminatorInstr i then rest.isEmpty else blockCodeOk n rest fuel
      | .error _ => blockCodeOk n rest fuel

/-- R105: the loader rejects block code that holds a word of opcode 0x06 or 0xFB. -/
def noGateWords (code : List Word) : Bool := code.all fun w => w.toNat / 2 ^ 24 != 0x06 && w.toNat / 2 ^ 24 != 0xFB

/-- R26, R63, R102: a kernel of a module that the loader accepts. A `.gate` directive of fewer than two blocks, or of one that the
kernel does not have, makes it refuse the module (the model's choice, notes/assumptions/59). -/
def kernelOk (k : KernelImage) : Bool :=
  let n := k.blocks.length
  decide (1 ≤ n) && decide (n ≤ 63) && decide (k.entry < n)
    && decide (64 ≤ k.regs) && decide (k.regs ≤ 256) && k.regs % 32 == 0
    && decide (48 ≤ k.uregs) && decide (k.uregs ≤ 384) && k.uregs % 48 == 0
    && decide (k.acc ≤ 16) && decide (k.scratch ≤ 262144) && k.scratch % 4096 == 0 && decide (1 ≤ k.crew) && decide (k.crew ≤ 32)
    && (k.blocks.all fun b => noGateWords b && blockCodeOk n b (b.length + 1))
    && k.hints.all fun m => decide (2 ≤ setSize m) && (List.range 64).all fun b => !m.getLsbD b || decide (b < n)

/-- R333, R362, R384: the words that a symbol stands in: a `UMOVI`, for a kernel's name with a `LIMM` of high byte 0 directly
before it. -/
def relocOk (img : ModuleImage) (r : Reloc) : Bool :=
  match (img.kernels[r.kernel]?).bind fun k => k.blocks[r.block]? with
  | none => false
  | some code =>
    let op := fun n => (code.getD n 0).toNat / 2 ^ 24
    decide (r.word < code.length) && op r.word == 0x89
      && if r.toKernel then decide (0 < r.word) && (code.getD (r.word - 1) 0).toNat / 2 ^ 16 == 0xFA00
         else r.word == 0 || op (r.word - 1) != 0xFA

/-- R63: the powers of two that `.align` takes. -/
def alignments : List Nat := (List.range 13).map fun n => 2 ^ n

/-- R63: a module that the loader accepts. -/
def imageOk (img : ModuleImage) : Bool :=
  decide (1 ≤ img.version) && decide (img.version ≤ 65535) && img.kernels.all kernelOk && img.relocs.all (relocOk img)
    && img.items.all fun d => alignments.contains d.align

/-- R333, R384: the value of a symbol: the handle of a kernel, or the index of a resource symbol or data item. -/
def symbolValue (img : ModuleImage) (plan : LoadPlan) (r : Reloc) : Nat :=
  if r.toKernel then ((plan.kernels[r.index]?).map fun k => k.handle.toNat).getD 0
  else if r.index < img.resSyms then ((plan.syms[r.index]?).map fun y => y.1).getD 0
  else ((plan.items[r.index - img.resSyms]?).map fun y => y.1).getD 0

/-- R362: a word with its low half replaced. -/
def withLowHalf (w : Word) (v : Nat) : Word := BitVec.ofNat 32 (w.toNat / 2 ^ 16 * 2 ^ 16 + v % 2 ^ 16)

/-- R333, R362, R384: a block with the symbols of `UMOVI` bound; the high half of a kernel's handle stands in the `LIMM` before
it. -/
def boundBlock (img : ModuleImage) (plan : LoadPlan) (kernel block : Nat) (code : List Word) : List Word :=
  (img.relocs.filter fun r => r.kernel == kernel && r.block == block).foldl (fun ws r =>
    let v := symbolValue img plan r
    let low := ws.modify r.word fun w => withLowHalf w v
    if r.toKernel then low.modify (r.word - 1) fun w => withLowHalf w (v / 2 ^ 16) else low) code

/-- R105: the canonical code of a kernel as loaded. -/
def boundBlocks (img : ModuleImage) (plan : LoadPlan) (kernel : Nat) (k : KernelImage) : List (List Word) :=
  k.blocks.zipIdx.map fun b => boundBlock img plan kernel b.2 b.1

/-- R26, R167: the gates that a kernel of `n` blocks receives for its `.gate` directives, in order, and the places of the
directives that are dropped: those that repeat a set, and those that find 4,096 gates. -/
def hintGates (n : Nat) (hints : List (BitVec 64)) : List (BitVec 64) × List Nat :=
  hints.zipIdx.foldl (fun (acc : List (BitVec 64) × List Nat) m =>
    if acc.1.contains m.1 || decide (4096 ≤ n + acc.1.length) then (acc.1, acc.2 ++ [m.2]) else (acc.1 ++ [m.1], acc.2)) ([], [])

/-- R26, R167: the load report of a module: the dropped directives of each kernel. -/
def loadReport (img : ModuleImage) : List (Nat × Nat) :=
  img.kernels.zipIdx.flatMap fun k => (hintGates k.1.blocks.length k.1.hints).2.map fun i => (k.2, i)

/-- Ranges of bytes, each an address and a length, no two of which meet. -/
def rangesApart (xs : List (Nat × Nat)) : Bool :=
  match xs with
  | [] => true
  | x :: rest => (rest.all fun y => !rangesMeet x.1 x.2 y.1 y.2) && rangesApart rest

/-- R103, R105, R167: the gates of a kernel as the loader builds them: the singletons in slots 0 to n - 1 and the gates of
the `.gate` directives in the slots from n on. -/
def gatesOk (canon : List (List Word)) (k : KernelImage) (gates : List GateImage) : Bool :=
  let sets := (List.range canon.length).map (fun b => BitVec.ofNat 64 (2 ^ b)) ++ (hintGates canon.length k.hints).1
  gates.all (gateBuilt canon) && (gates.map fun g => (g.slot, g.mask)) == sets.zipIdx.map (fun m => (m.2, m.1))
    && rangesApart (gates.map fun g => (g.off, g.code.length))

/-- R384: a kernel as loaded. -/
def loadedKernel (modId : Nat) (k : KernelImage) (y : KernelPlan) (canon : List (List Word)) : Kernel :=
  { modId := modId, gateTable := y.gateTable, codeBase := y.codeBase, entry := k.entry, nreg := k.regs, nureg := k.uregs,
    nacc := k.acc, crew := k.crew, scratch := k.scratch, canon := canon }

/-- R384: load one kernel: its gate table, empty but for the gates built. -/
def loadKernel (s : State) (p : Nat) (img : ModuleImage) (plan : LoadPlan) (ix : Nat) (k : KernelImage) (y : KernelPlan) : Option State :=
  let canon := boundBlocks img plan ix k
  match smFind s.parts p with
  | none => none
  | some x =>
    if !gatesOk canon k y.gates || y.handle = 0 || (smFind x.kernels y.handle.toNat).isSome || y.gateTable % 16 ≠ 0
        || y.codeBase % 4 ≠ 0 || !spanMapped s p y.gateTable 65536 false
        || y.gates.any fun g => !spanMapped s p (y.codeBase + 4 * g.off) (4 * g.code.length) false then none
    else
      let kn := loadedKernel plan.modId k y canon
      let s1 := y.gates.foldl (fun t g => writeGate t p kn g) (zeroSpan s p y.gateTable 65536)
      some (putPart s1 p { x with kernels := smPut x.kernels y.handle.toNat kn })

/-- R299, R224: the entry of a `.const` or `.data` item. -/
def itemEntry (d : DataItem) (addr : Nat) : BitVec 512 :=
  let dim := if tyIsBlock d.ty then (d.count + 31) / 32 * 32 else d.count
  BitVec.ofNat 512 (dim * 2 ^ 128 + addr * 2 ^ 64 + 2 ^ 60 + d.ty.toNat * 2 ^ 55 + if d.readOnly then 2 ^ 52 else 0)

/-- R299, R63: bind an item: its bytes at an aligned address, and its entry. -/
def loadItem (s : State) (p : Nat) (d : DataItem) (y : Nat × Nat) : Option State :=
  let e := itemEntry d y.2
  if entryValid (entryOf e) && d.bytes.length == linearBytes (entryOf e) && y.2 % d.align == 0
      && spanMapped s p y.2 (linearBytes (entryOf e)) (!d.readOnly)
  then some (writeEntry (pokeVa s p y.2 d.bytes) p y.1 e) else none

/-- R384: a symbol that no `RES` names gets an entry of kind 0 with a fresh token. -/
def loadSym (s : State) (p : Nat) (y : Nat × Option Word) : State :=
  match y.2 with
  | some token => writeEntry s p y.1 (BitVec.ofNat 512 (token.toNat * 2 ^ 448))
  | none => s

/-- The steps of a list, each of which may fail. -/
def stepAll {α : Type} (f : State → α → Option State) (s : State) (xs : List α) : Option State :=
  match xs with
  | [] => some s
  | x :: rest => match f s x with
    | some t => stepAll f t rest
    | none => none

/-- R384: the entry indices that the loader binds itself: of symbols that no `RES` names, and of data items. -/
def ownIndices (plan : LoadPlan) : List Nat :=
  (plan.syms.filterMap fun y => if y.2.isSome then some y.1 else none) ++ plan.items.map fun y => y.1

/-- R384: the entry indices of a partition that a symbol can be bound to: those that `UMOVI` carries. -/
def symbolIndices (x : Partition) : Nat := min 32768 x.regs.rtcnt.toNat

/-- R384: the indices that no `RES` has named and the loader has not bound, among those that a symbol can be bound to. -/
def freeIndices (x : Partition) : Nat :=
  symbolIndices x - ((x.named ++ x.bound).eraseDups.filter fun i => decide (i < symbolIndices x)).length

/-- R384: the symbols of a module can all be bound within the range: those that `RES` has named lie in it, and there is a
free index for each of the others. -/
def symbolsFit (x : Partition) (plan : LoadPlan) : Bool :=
  (plan.syms.all fun y => y.2.isSome || decide (y.1 < 32768)) && decide ((ownIndices plan).length ≤ freeIndices x)

/-- The binding tokens of a plan. -/
def planTokens (plan : LoadPlan) : List Word := plan.syms.filterMap fun y => y.2

/-- R384: the indices that the loader binds itself are unused, the tokens fresh. -/
def symbolsBound (x : Partition) (plan : LoadPlan) : Bool :=
  (ownIndices plan).eraseDups.length == (ownIndices plan).length
    && ((ownIndices plan).all fun i => !x.named.contains i && !x.bound.contains i)
    && (planTokens plan).eraseDups.length == (planTokens plan).length && (planTokens plan).all fun t => !x.tokens.contains t

/-- R299, R105: what a module takes in memory: its items, gate tables and gate code. -/
def planSpans (img : ModuleImage) (plan : LoadPlan) : List (Nat × Nat) :=
  (img.items.zip plan.items).map (fun y => (y.2.2, linearBytes (entryOf (itemEntry y.1 y.2.2))))
    ++ plan.kernels.flatMap fun k => (k.gateTable, 65536) :: k.gates.map fun g => (k.codeBase + 4 * g.off, 4 * g.code.length)

/-- R223, R321, R373: what the loader keeps in memory for a partition at the addresses in its registers: the resource table,
the layer-list records, the freeze table and the rings. -/
def regSpans (x : Partition) : List (Nat × Nat) :=
  let r := x.regs
  let n := r.rtcnt.toNat
  [(r.erbase.toNat, 131200), (r.mrbase.toNat, 262272), (r.fqbase.toNat, 262272), (r.rtbase.toNat, 64 * n),
   (r.hbase.toNat, 64 * 4096), (r.fzbase.toNat, 2 * n)]

/-- R299, R223: what a module takes in memory meets nothing of itself, of the modules that are loaded, or of what the loader keeps for
the partition. -/
def spansApart (x : Partition) (spans : List (Nat × Nat)) : Bool :=
  rangesApart spans && !anyMeet spans (regSpans x ++ x.modules.flatMap fun m => m.2.spans)

/-- R384: the plan is one for the module: it treats its symbols and items, and the symbols without a token are those that `RES` has
named. -/
def planTreats (named : List Nat) (img : ModuleImage) (plan : LoadPlan) : Bool :=
  plan.syms.length == img.resSyms && plan.items.length == img.items.length
    && plan.syms.all fun y => y.2.isSome || named.contains y.1

/-- The loader's choices suit the module and the partition. -/
def planShapeOk (x : Partition) (img : ModuleImage) (plan : LoadPlan) : Bool :=
  plan.kernels.length == img.kernels.length && planTreats x.named img plan
    && (smFind x.modules plan.modId).isNone
    && ((plan.syms.map fun y => y.1) ++ plan.items.map fun y => y.1).all (fun i => decide (i < symbolIndices x))
    && symbolsBound x plan && spansApart x (planSpans img plan)

/-- R383, R384: load a module: pages, symbols, items, kernels with their gates, and its version. -/
def loadModule (s : State) (p : Nat) (img : ModuleImage) (plan : LoadPlan) : Option State := do
  let x ← smFind s.parts p
  if !planShapeOk x img plan then none
  else
    let s1 ← loaderPages s p plan.pages plan.tables
    let s2 := plan.syms.foldl (fun t y => loadSym t p y) s1
    let s3 ← stepAll (fun t (y : DataItem × (Nat × Nat)) => loadItem t p y.1 y.2) s2 (img.items.zip plan.items)
    let s4 ← stepAll (fun t (y : (KernelImage × KernelPlan) × Nat) => loadKernel t p img plan y.2 y.1.1 y.1.2) s3
      (img.kernels.zip plan.kernels).zipIdx
    let y ← smFind s4.parts p
    some (putPart s4 p
      { y with modules := smPut y.modules plan.modId { name := img.name, version := img.version, dropped := loadReport img, spans := planSpans img plan }
               tokens := planTokens plan ++ y.tokens
               bound := ownIndices plan ++ y.bound
               highest := smSet 0 y.highest img.name (max (smGet 0 y.highest img.name) img.version) })

/-- R383: a version of a module may be loaded. -/
def versionOk (x : Partition) (img : ModuleImage) : Bool :=
  decide (smGet 0 x.highest img.name ≤ img.version + 4)
    && !(x.modules.any fun m => m.2.name == img.name && m.2.version == img.version)

/-- R369: the loader writes the handles of a module's kernels into the host's buffer. -/
def giveHandles (s : State) (fn : Nat) (plan : LoadPlan) : State :=
  let f := getFn s fn
  putFn s fn { f with buffers := smPut f.buffers plan.buffer (plan.kernels.map fun k => k.handle) }

/-- R382 to R384, R369: `LOAD`: status 3 for a signature that does not verify under the registered key, 2 for a version or
module that is refused, 4 when its symbols cannot all be bound. -/
def execLoad (h : Msg) (sigOk : Bool) (img : ModuleImage) (plan : LoadPlan) (s : State) : Out :=
  vfMessage h 0x01 (fun p x =>
    if x.tenantKey.isNone || !sigOk then reply s h 0x01 3 0
    else if !versionOk x img || !imageOk img then reply s h 0x01 2 0
    else if !planTreats x.named img plan then .fault .badArgument
    else if !symbolsFit x plan then reply s h 0x01 4 0
    else if partHeld s x then .fault .notEnabled
    else match loadModule s p img plan with
      | some t => reply (giveHandles t h.fn plan) h 0x01 0 (plan.modId + plan.buffer * 2 ^ 64)
      | none => .fault .badArgument) s

/-- R383: a launch, or a bound chair, of a module is pending or running. -/
def moduleBusy (s : State) (p modId : Nat) : Bool :=
  s.launches.any fun e => e.2.part == p && (launchKernel s e.2).any fun kn => kn.modId == modId

/-- R383, R104: a module leaves the partition with its kernels, and the cores forget the broken slots of their tables that they have
reported: a kernel that is given one of the handles has slots of its own. -/
def dropModule (s : State) (p : Nat) (x : Partition) (modId : Nat) : State :=
  let gone := (x.kernels.filter fun k => k.2.modId == modId).map fun k => p * 2 ^ 32 + k.1
  { putPart s p { x with kernels := x.kernels.filter fun k => k.2.modId ≠ modId, modules := smErase x.modules modId } with
    tableFaults := s.tableFaults.filter fun key => !gone.contains (key / 2 ^ 21) }

/-- R383: `UNLOAD`. -/
def execUnload (h : Msg) (modId : Nat) (s : State) : Out :=
  vfMessage h 0x02 (fun p x =>
    if (smFind x.modules modId).isNone then reply s h 0x02 2 0
    else if moduleBusy s p modId then reply s h 0x02 1 0
    else reply (dropModule s p x modId) h 0x02 0 0) s

/-- R383: the loader unloads a superseded version once none of its launches is pending or running. -/
def execModuleRetire (part modId : Nat) (s : State) : Out :=
  match smFind s.parts part with
  | none => .fault .notEnabled
  | some x => match smFind x.modules modId with
    | none => .fault .notEnabled
    | some m =>
      if m.version + 4 < smGet 0 x.highest m.name && !moduleBusy s part modId then .next (dropModule s part x modId)
      else .fault .notEnabled

/-- R384: an index that a `RES` message has named, with its token when the entry is of kind 0. -/
def namedByRes (x : Partition) (index : Nat) (entry : BitVec 512) : Partition :=
  { x with named := if x.named.contains index then x.named else index :: x.named
           tokens := if (entryOf entry).kind = 0 then BitVec.ofNat 32 (entry.toNat / 2 ^ 448) :: x.tokens else x.tokens }

/-- R370, R228: `RES` writes an entry, or kind 0 with a token. -/
def execRes (h : Msg) (index : Nat) (entry : BitVec 512) (s : State) : Out :=
  vfMessage h 0x04 (fun p x =>
    let unbound := (entryOf entry).kind = 0 && entry = BitVec.ofNat 512 (entry.toNat / 2 ^ 448 % 2 ^ 32 * 2 ^ 448)
    if x.regs.rtcnt.toNat ≤ index || !(unbound || (entryValid (entryOf entry) && (entryOf entry).kind != 0)) then reply s h 0x04 2 0
    else if requestWaits s p (entryVa s p index) then .fault .notEnabled
    else reply (putPart (writeEntry s p index entry) p (namedByRes x index entry)) h 0x04 0 0) s

/-- R382: `KEY` registers the tenant's module key, inside a secured session only. -/
def execKey (h : Msg) (key : BitVec 768) (s : State) : Out :=
  vfMessage h 0x09 (fun p x =>
    if (getFn s h.fn).session then reply (putPart s p { x with tenantKey := some key }) h 0x09 0 0
    else reply s h 0x09 3 0) s

/-! ### Creating a partition -/

/-- R376: a field of the body of `CREATE`. -/
def createField (b : BitVec 1984) (lo n : Nat) : Nat := bitsOf b.toNat lo n

/-- R376: a reserved bit of the body is set. -/
def createReserved (b : BitVec 1984) : Bool :=
  createField b 1216 768 != 0 || createField b 416 32 != 0 || createField b 32 32 != 0 || createField b 12 4 != 0
    || createField b 3 5 != 0

/-- R375, R379: masks that a partition may have beside the others: no unit of theirs, clusters and groups, and slices on
every die of a group. A cluster on which another's crew still stands is not free. -/
def masksOk (s : State) (p : Nat) (clusters slices : BitVec 128) (groups : BitVec 16) : Bool :=
  let others := s.parts.filter fun e => e.1 != p
  clusters != 0 && groups != 0
    && (others.all fun e => e.2.clusters &&& clusters == 0 && e.2.slices &&& slices == 0 && e.2.groups &&& groups == 0
          && (match e.2.newGroups with | some m => m &&& groups == 0 | none => true))
    && (s.crews.all fun e => e.2.part == p || e.2.core.all fun c => !clusters.getLsbD (clusterOfCore c))
    && (List.range 16).all fun i => !groups.getLsbD i || (List.range 32).any fun c => slices.getLsbD (32 * (i / 4) + c)

/-- R375, R340: the registers that the loader sets. -/
def createRegs (y : CreatePlan) : SysRegs :=
  { fltvec := 0, emuj := 0, elost := 0, mlost := 0, rtbase := BitVec.ofNat 64 y.rtbase, rtcnt := BitVec.ofNat 32 y.rtcnt,
    hotbase := BitVec.ofNat 64 y.hotbase, ptbase := BitVec.ofNat 32 y.ptbase, fpool := BitVec.ofNat 32 y.fpool,
    hbase := BitVec.ofNat 64 y.hbase, vwbase := BitVec.ofNat 64 y.vwbase, fzbase := BitVec.ofNat 64 y.fzbase,
    svbase := BitVec.ofNat 64 y.svbase, erbase := BitVec.ofNat 64 y.erbase, mrbase := BitVec.ofNat 64 y.mrbase,
    fqbase := BitVec.ofNat 64 y.fqbase }

/-- R375, R376: a partition as `CREATE` names it. -/
def newPartition (b : BitVec 1984) (y : CreatePlan) : Partition :=
  { vf := createField b 8 4, clusters := b.extractLsb' 64 128, slices := b.extractLsb' 192 128, groups := b.extractLsb' 16 16,
    regs := createRegs y, fqlost := 0, tails := [], queues := [], pool := [], kernels := [], modules := [], highest := [],
    slots := [], views := [], factors := [], tlb := [], stlb := [], bad := [], badParity := [], lost := [], aliased := [], owners := [],
    frozen := [], resident := [],
    buckets := [], rate := 0, peers := [], tenantKey := none,
    supKey := b.extractLsb' 448 768, turn := [], moving := [], restripe := [], newGroups := none,
    tokens := [], named := [], bound := [y.fpool], given := [], peerData := [] }

/-- R274, R343: the entry of the frame pool. -/
def poolEntry (y : CreatePlan) : BitVec 512 :=
  BitVec.ofNat 512 (y.poolHdr * 2 ^ 448 + y.poolCap * 2 ^ 128 + y.poolRing * 2 ^ 64 + 6 * 2 ^ 60 + 6 * 2 ^ 55)

/-- R343, R275: the frame pool, holding the frame sets that the loader puts there. -/
def writePool (s : State) (p : Nat) (y : CreatePlan) : State :=
  let s1 := writeEntry s p y.fpool (poolEntry y)
  let s2 := pokeVa s1 p y.poolHdr (leBytes 128 (y.poolFrames.length * 2 ^ 64))
  pokeVa s2 p y.poolRing (y.poolFrames.flatMap fun f => leBytes 4 f)

/-- R373: a ring lies at a multiple of 4,096 on pages mapped with `W` 1 and `PIN` 1. -/
def ringPlaced (s : State) (p base bytes : Nat) : Bool :=
  base % 4096 == 0 && (List.range ((base + bytes - 1) / 2 ^ 16 - base / 2 ^ 16 + 1)).all fun i =>
    match walk s p ((base / 2 ^ 16 + i) * 2 ^ 16) with
    | .page _ w pin _ => w && pin
    | _ => false

/-- R373, R223, R343, R321: what the loader places in memory for a partition: the rings, the resource table, the frame
pool, the layer-list records and the freeze table. -/
def createSpans (y : CreatePlan) : List (Nat × Nat) :=
  [(y.erbase, 131200), (y.mrbase, 262272), (y.fqbase, 262272), (y.rtbase, 64 * y.rtcnt), (y.poolHdr, 128),
   (y.poolRing, 4 * y.poolCap), (y.hbase, 64 * 4096), (y.fzbase, 2 * y.rtcnt)]

/-- R321, R326: the view space: 2^44 bytes from a multiple of 2 MiB on, in which no page is mapped. -/
def viewsPlaced (y : CreatePlan) : Bool :=
  y.vwbase % 2 ^ 21 == 0 && decide (y.vwbase + 2 ^ 44 ≤ 2 ^ 52)
    && y.pages.all fun g => !rangesMeet g.va (if g.big then 2 ^ 21 else 2 ^ 16) y.vwbase (2 ^ 44)

/-- R375: what the loader has placed suits the partition. -/
def createPlanOk (s : State) (p : Nat) (x : Partition) (y : CreatePlan) : Bool :=
  ringPlaced s p y.erbase 131200 && ringPlaced s p y.mrbase 262272 && ringPlaced s p y.fqbase 262272
    && spanMapped s p y.rtbase (64 * y.rtcnt) true && decide (y.fpool < y.rtcnt) && decide (y.rtcnt < 2 ^ 32)
    && entryValid (entryOf (poolEntry y)) && decide (y.poolFrames.length ≤ y.poolCap)
    && spanMapped s p y.poolHdr 128 true && spanMapped s p y.poolRing (4 * y.poolCap) true
    && framesFree s p x y.poolFrames 0
    && spanMapped s p y.hbase (64 * 4096) true && spanMapped s p y.fzbase (2 * y.rtcnt) true
    && [y.hotbase, y.svbase].all (fun a => spanMapped s p a 1 true) && viewsPlaced y && rangesApart (createSpans y)

/-- R375 steps 1 to 4: the partition with its tables, pool and rings, its supervisor module loaded and `ctl.fltvec` set
from it. -/
def createPartition (s : State) (p : Nat) (b : BitVec 1984) (img : ModuleImage) (y : CreatePlan) : Option State := do
  let s1 := putPart { s with mem := s.mem.filter fun c => c.1 / 2 ^ 53 ≠ p } p (newPartition b y)
  let s2 ← loaderPages s1 p y.pages y.tables
  let x ← smFind s2.parts p
  if !createPlanOk s2 p x y then none
  else
    let s3 ← loadModule (giveFrames (writePool s2 p y) p) p img y.load
    let z ← smFind s3.parts p
    let handler ← (match y.fltKernel with
      | none => some 0
      | some n => (y.load.kernels[n]?).map fun k => k.handle : Option Word)
    some (putPart s3 p { z with regs := { z.regs with fltvec := handler } })

/-- R375, R376: `CREATE`. -/
def execCreate (h : Msg) (sigOk : Bool) (body : BitVec 1984) (img : ModuleImage) (plan : CreatePlan) (s : State) : Out :=
  if !bodyHeld s h body then .fault .notEnabled
  else pfMessage h 0x40 (
    let p := createField body 0 3
    let vf := createField body 8 4
    if createReserved body || vf = 0 || decide (8 < vf) || (partOfFn s vf).isSome || (smFind s.parts p).isSome
        || createField body 384 32 = 0 || !masksOk s p (body.extractLsb' 64 128) (body.extractLsb' 192 128) (body.extractLsb' 16 16)
    then reply s h 0x40 2 0
    else if !sigOk then reply s h 0x40 3 0
    else if !imageOk img then reply s h 0x40 2 0
    else if !planTreats [] img plan.load then .fault .badArgument
    else if !symbolsFit (newPartition body plan) plan.load then reply s h 0x40 4 0
    else if partHeld s (newPartition body plan) then .fault .notEnabled
    else match createPartition s p body img plan with
      | some t => reply t h 0x40 0 0
      | none => .fault .badArgument) s

end Sys2Proof.Machine
end

