-- ==== Sys2Proof/Machine/Messages.lean ====
section
/-!
DEFINITION. The messages that act on a running partition or on the device (spec/21 R365 to R387, spec/19 R358), and the
steps that complete them.
-/
namespace Sys2Proof.Machine

/-! ### Queues and launches -/

/-- R370: `QUEUE` creates a queue that does not exist. -/
def execQueueCreate (h : Msg) (queue : Nat) (cls : BitVec 8) (s : State) : Out :=
  vfMessage h 0x05 (fun p x =>
    if decide (63 < queue) || decide (3 < cls.toNat) then reply s h 0x05 2 0
    else if (smFind x.queues queue).isSome then reply s h 0x05 5 0
    else reply (putPart s p { x with queues := smPut x.queues queue { cls := cls.setWidth 2, items := [] } }) h 0x05 0 0) s

/-- R370: `QUEUE` destroys a queue that exists and is empty. -/
def execQueueDestroy (h : Msg) (queue : Nat) (cls : BitVec 8) (s : State) : Out :=
  vfMessage h 0x05 (fun p x =>
    if decide (63 < queue) || decide (3 < cls.toNat) then reply s h 0x05 2 0
    else match smFind x.queues queue with
      | none => reply s h 0x05 5 0
      | some q =>
        if q.items.isEmpty then reply (putPart s p { x with queues := smErase x.queues queue }) h 0x05 0 0
        else reply s h 0x05 1 0) s

/-- R83: accept a host record at the end of its queue. -/
def acceptHost (s : State) (p : Nat) (x : Partition) (queue : Nat) (q : Queue) (r : BitVec 1024) : State :=
  let s1 := putPart s p { x with queues := smPut x.queues queue { q with items := q.items ++ [s.nextUid] } }
  { putLaunch s1 s.nextUid (newLaunch p queue r) with nextUid := s.nextUid + 1 }

/-- R370, R83, R82: `LAUNCH`: the record takes its queue's class; an invalid one receives status 2 with loader report
0x01, a full queue status 1. -/
def execLaunchMessage (h : Msg) (queue : Nat) (lrec : BitVec 1024) (s : State) : Out :=
  vfMessage h 0x06 (fun p x =>
    match smFind x.queues queue with
    | none => reply s h 0x06 2 0
    | some q =>
      let r := recWithClass lrec q.cls.toNat
      if !recordValid s p r then reply (loaderReport s p 0x01 { kernel := recField r 64 32 }) h 0x06 2 0
      else if 1024 ≤ q.items.length then reply s h 0x06 1 0
      else reply (acceptHost s p x queue q r) h 0x06 0 0) s

/-- R370: `SIGNAL`: an atomic add on a word at system scope; where the page is not mapped, or is mapped with `W` 0,
nothing is added and loader report 0x03 or 0x05 is written. A held line makes it wait (R241, R349); a rebuilt one writes its event
(R346). -/
def execSignal (h : Msg) (va : BitVec 64) (value : BitVec 32) (s : State) : Out :=
  vfMessage h 0x07 (fun p _ =>
    let a := va.toNat
    if a % 4 ≠ 0 then reply s h 0x07 2 0
    else if requestWaits s p a then .fault .notEnabled
    else match addWord s p a value.toNat with
    | .ok (t, v) => reply t h 0x07 0 v
    | .error c =>
      let t := faultEvent s p c a 0
      reply (if c = causeWrite then loaderReport t p 0x05 { addr := a }
        else if c = causePage then loaderReport t p 0x03 { addr := a } else t) h 0x07 2 0) s

/-! ### Releasing lanes -/

/-- R358, R370: a lane that a `RELEASE` message releases. -/
def releasable (code : BitVec 16) (any : Bool) (ln : Lane) : Bool :=
  match ln.hold with
  | .waiting c => any || c == some code
  | _ => false

/-- R358, R370: the lanes of a group that a message releases. -/
def releaseMask (code : BitVec 16) (any : Bool) (g : Group) : Word := maskOf fun l => releasable code any (getLane g l)

/-- R358: the released lanes replay from their positions. -/
def releaseLanes (code : BitVec 16) (any : Bool) (g : Group) : Group :=
  mapLanes g fun _ ln => if releasable code any ln then { ln with hold := .replay } else ln

/-- R370: the launches of a partition that a `LID` names. -/
def namedByLid (s : State) (p : Nat) (lid : BitVec 64) (u : Nat) : Bool :=
  match smFind s.launches u with
  | none => false
  | some x => x.part == p && (lid == 0 || (match x.chair with
      | some c => c.cid == lid
      | none => x.lrec.extractLsb' 0 64 == lid))

/-- R370: the body of `RELEASE`. -/
def releaseBody (lid : BitVec 64) (code : BitVec 16) (any : Bool) : Nat := lid.toNat + code.toNat * 2 ^ 64 + any.toNat * 2 ^ 80

/-- R367, R370: the slot of a `RELEASE` holds its body. A message that tells of a reserved bit may have one anywhere in it. -/
def releaseHeld (s : State) (h : Msg) (lid : BitVec 64) (code : BitVec 16) (any : Bool) : Bool :=
  h.rsvd || bodyHeld s h (BitVec.ofNat 1984 (releaseBody lid code any))

/-- R370: `RELEASE`: release lanes by park code, or every lane awaiting release; the reply is their number. -/
def execRelease (h : Msg) (lid : BitVec 64) (code : BitVec 16) (any : Bool) (s : State) : Out :=
  if !releaseHeld s h lid code any then .fault .notEnabled
  else vfMessage h 0x08 (fun p _ =>
    let count := fun (g : Group) => (lanesOf (releaseMask code any g)).length
    let here := s.groups.filter fun e => e.2.part == p && namedByLid s p lid e.2.launch
    let off := (s.crews.filter fun e => e.2.part == p && namedByLid s p lid e.2.launch).flatMap fun e => e.2.saved
    let t : State :=
      { s with
        groups := s.groups.map fun e => (e.1, if namedByLid s p lid e.2.launch then releaseLanes code any e.2 else e.2)
        crews := s.crews.map fun e =>
          (e.1, if namedByLid s p lid e.2.launch then { e.2 with saved := e.2.saved.map (releaseLanes code any) } else e.2) }
    reply t h 0x08 0 (sumOf (fun e => count e.2) here + sumOf count off)) s

/-! ### Resizing and destroying -/

/-- R379, R368: a resize whose last page and line have moved: the new groups hold, and the message is answered. -/
def finishResize (s : State) (p : Nat) : State :=
  match smFind s.parts p with
  | none => s
  | some x =>
    if x.restripe.isEmpty && x.moving.isEmpty then
      let s1 := putPart s p { x with groups := x.newGroups.getD x.groups, newGroups := none }
      match s1.dev.openMsg with
      | some (slot, ty, tag) =>
        if ty = 0x41 then replyTo { s1 with dev := { s1.dev with openMsg := none } } 0 slot ty tag 0 0 else s1
      | none => s1
    else s

/-- R379: a crew would have no cluster on its die. -/
def strandsCrew (s : State) (p : Nat) (clusters : BitVec 128) : Bool :=
  s.crews.any fun e => e.2.part == p && !(List.range 32).any fun c => clusters.getLsbD (32 * e.2.die + c)

/-- R379, R272: the crews to pre-empt when clusters are removed: whole sets. -/
def crewsToMove (s : State) (p : Nat) (clusters : BitVec 128) : List Nat :=
  let on := s.crews.filter fun e => e.2.part == p && e.2.core.any fun c => !clusters.getLsbD (clusterOfCore c)
  on.flatMap fun e => (setCrews s e.2.launch e.2.set).map fun c => c.1

/-- R379: `RESIZE` applies new masks; it is answered when every page has moved. `lines` are the lines that the removed
slices hold. Status 4 when the new groups cannot hold what the partition uses (R17; the status is the model's choice,
notes/assumptions/52). -/
def execResize (h : Msg) (part : Nat) (clusters slices : BitVec 128) (groups : BitVec 16) (lines : List Nat) (s : State) : Out :=
  pfMessage h 0x41 (
    match smFind s.parts part with
    | none => reply s h 0x41 2 0
    | some x =>
      if !masksOk s part clusters slices groups then reply s h 0x41 2 0
      else if strandsCrew s part clusters then reply s h 0x41 1 0
      else if groupBytes groups < bytesInUse s part x then reply s h 0x41 4 0
      else if lines.any fun l => l % 128 != 0 || slices.getLsbD (homeSlice x l) then .fault .badArgument
      else
        let changed := groups != x.groups
        let y : Partition :=
          { x with clusters := clusters, slices := slices, moving := lines.eraseDups
                   restripe := if changed then mappedPages s part x else []
                   newGroups := if changed then some groups else none }
        let s1 := askPreempt (putPart s part y) (crewsToMove s part clusters)
        .next (finishResize (holdMessage s1 h 0x41) part)) s

/-- R379: a line of a removed slice moves to its new slice in one event. -/
def execSliceLineMove (part va : Nat) (s : State) : Out :=
  match smFind s.parts part with
  | none => .fault .notEnabled
  | some x =>
    if x.moving.contains (lineOf va) then
      .next (finishResize (putPart s part { x with moving := x.moving.filter (· ≠ lineOf va) }) part)
    else .fault .notEnabled

/-- The lines of a page. -/
def pageLines (page : Nat × Bool) : List Nat :=
  (List.range (if page.2 then 2 ^ 14 else 2 ^ 9)).map fun i => page.1 + 128 * i

/-- R379: a page moves to the new parity groups in one event, its data read, rebuilt where it must be (R346), and written; a
lost line stays lost (R348). -/
def movePage (s : State) (p : Nat) (x : Partition) (page : Nat × Bool) : State :=
  let lines := pageLines page
  let lost := lines.filter fun l => lineLost s x l && !x.lost.contains l
  let s1 := dropTlb (rangeRead s p 0 page.1 (if page.2 then 2 ^ 21 else 2 ^ 16)) p (some page.1)
  match smFind s1.parts p with
  | none => s1
  | some y => putPart s1 p
      { y with
        restripe := y.restripe.filter (· ≠ page)
        bad := y.bad.filter fun l => !lines.contains l
        badParity := y.badParity.filter fun l => !lines.contains l
        lost := lost ++ y.lost }

/-- R379: the loader restripes one page and writes report 0x04. -/
def execPageRestripe (part va : Nat) (s : State) : Out :=
  match smFind s.parts part with
  | none => .fault .notEnabled
  | some x => match x.restripe.find? fun g => g.1 == va with
    | none => .fault .notEnabled
    | some page => if partHeld s x then .fault .notEnabled else .next (finishResize (loaderReport (movePage s part x page) part 0x04 {}) part)

/-- R380: what a partition leaves when it goes: nothing of it stays in memory, registers or engines. -/
def erasePartition (s : State) (p : Nat) (x : Partition) : State :=
  { s with
    mem := s.mem.filter fun c => c.1 / 2 ^ 53 ≠ p
    parts := smErase s.parts p
    launches := s.launches.filter fun e => e.2.part ≠ p
    crews := s.crews.filter fun e => e.2.part ≠ p
    groups := s.groups.filter fun e => e.2.part ≠ p
    reqs := s.reqs.filter fun e => e.2.part ≠ p
    items := s.items.filter fun e => e.2.part ≠ p
    filters := s.filters.filter fun e => !holdsCluster x (clusterOfCore e.1)
    tableFaults := s.tableFaults.filter fun k => k / 2 ^ 53 ≠ p }

/-- R380: `DESTROY` contains every launch, then frees the partition. -/
def execDestroy (h : Msg) (part : Nat) (s : State) : Out :=
  pfMessage h 0x42 (
    match smFind s.parts part with
    | none => reply s h 0x42 2 0
    | some x =>
      if partHeld s x then .fault .notEnabled
      else
      let us := (s.launches.filter fun e => e.2.part == part).map fun e => e.1
      let s1 := us.foldl (fun t u => containLaunch t u) s
      reply (erasePartition s1 part x) h 0x42 0 0) s

/-! ### Memory stacks -/

/-- A stack as it is after reset. -/
def Stack.zero : Stack := { held := false, takeover := false }

/-- A stack by its number. -/
def getStack (s : State) (t : Nat) : Stack := (smFind s.dev.memStacks t).getD Stack.zero

/-- Put a stack. -/
def putStack (s : State) (t : Nat) (x : Stack) : State := { s with dev := { s.dev with memStacks := smPut s.dev.memStacks t x } }

/-- A channel as it is after reset (R385). -/
def Channel.zero : Channel := { failed := false, ratio := 0, quiesce := none }

/-- A channel by its number. -/
def getChannel (s : State) (c : Nat) : Channel := (smFind s.dev.chans c).getD Channel.zero

/-- Put a channel. -/
def putChannel (s : State) (c : Nat) (x : Channel) : State := { s with dev := { s.dev with chans := smPut s.dev.chans c x } }

/-- R385, R350: `RATIO`: the channels of the mask quiesce, and the message is answered when they have the new split; status
5 when the stack of one is under refresh takeover. -/
def execRatio (h : Msg) (channels : BitVec 128) (code : Nat) (s : State) : Out :=
  pfMessage h 0x43 (
    let cs := (List.range 128).filter fun c => channels.getLsbD c
    if 3 < code then reply s h 0x43 2 0
    else if cs.any fun c => (getStack s (stackOfChannel c)).takeover then reply s h 0x43 5 0
    else if cs.isEmpty then reply s h 0x43 0 0
    else
      let s1 := cs.foldl (fun t c => putChannel t c { getChannel t c with quiesce := some (BitVec.ofNat 2 code) }) s
      .next (holdMessage s1 h 0x43)) s

/-- R385, R368: the last channel of a `RATIO` has its new split: the message is answered. -/
def finishRatio (s : State) : State :=
  match s.dev.openMsg with
  | some (slot, ty, tag) =>
    if ty = 0x43 && s.dev.chans.all fun c => c.2.quiesce.isNone then
      replyTo { s with dev := { s.dev with openMsg := none } } 0 slot ty tag 0 0
    else s
  | none => s

/-- R385: a channel ends its quiesce under the new split. -/
def execRatioQuiesceEnd (channel : Nat) (s : State) : Out :=
  match smFind s.dev.chans channel with
  | none => .fault .notEnabled
  | some x => match x.quiesce with
    | none => .fault .notEnabled
    | some r => .next (finishRatio (putChannel s channel { x with ratio := r, quiesce := none }))

/-- R385, R350: `MRESET` resets a stack's management core, which ends a refresh takeover. -/
def execMreset (h : Msg) (stack : Nat) (s : State) : Out :=
  pfMessage h 0x48 (
    if 7 < stack then reply s h 0x48 2 0
    else reply (putStack s stack { getStack s stack with takeover := false }) h 0x48 0 0) s

/-! ### Limits, windows, boot and trust -/

/-- R378: `RATE` sets the limit of a partition on each die; 0: none. -/
def execRate (h : Msg) (part limit : Nat) (s : State) : Out :=
  pfMessage h 0x44 (
    match smFind s.parts part with
    | none => reply s h 0x44 2 0
    | some x => reply (putPart s part { x with rate := limit, buckets := [] }) h 0x44 0 0) s

/-- R381: `PEER` names a window onto another device; it takes effect once the other operator has sent the matching
message. -/
def execPeer (h : Msg) (part base size device peerPart : Nat) (s : State) : Out :=
  pfMessage h 0x45 (
    match smFind s.parts part with
    | none => reply s h 0x45 2 0
    | some x =>
      if size = 0 || decide (2 ^ 31 < base + size) || decide (7 < peerPart) || x.peers.any fun w => rangesMeet w.base w.size base size
      then reply s h 0x45 2 0
      else reply (putPart s part
        { x with peers := x.peers ++ [{ base := base, size := size, device := device, peerPart := peerPart, live := false }] }) h 0x45 0 0) s

/-- R381: the peer's operator has sent the matching message: the window takes effect. -/
def execMatchingPeerMessage (part base : Nat) (s : State) : Out :=
  match smFind s.parts part with
  | none => .fault .notEnabled
  | some x =>
    if x.peers.any fun w => w.base == base && !w.live then
      .next (putPart s part { x with peers := x.peers.map fun w => if w.base = base then { w with live := true } else w })
    else .fault .notEnabled

/-- R21: `POWER` sets the module limit, 300 to 1,800 W. -/
def execPower (h : Msg) (watts : Nat) (s : State) : Out :=
  pfMessage h 0x46 (
    if watts < 300 || 1800 < watts then reply s h 0x46 2 0
    else reply { s with dev := { s.dev with limit := watts } } h 0x46 0 0) s

/-- R386: `SVN` raises the anti-rollback counter, at most to the running image's version. -/
def execSvn (h : Msg) (value : Nat) (s : State) : Out :=
  pfMessage h 0x47 (
    if value < s.dev.svn || s.dev.fwVersion < value then reply s h 0x47 2 0
    else reply { s with dev := { s.dev with svn := value } } h 0x47 0 0) s

/-- R387: the measurement of a partition's configuration (notes/assumptions/14). -/
def measureOf (p : Nat) (x : Partition) : Measure :=
  { part := p, clusters := x.clusters, slices := x.slices, groups := x.groups, rate := x.rate, peers := x.peers, key := x.tenantKey }

/-- R387: the configurations that a function is told of: the physical function of every partition, another of its own. -/
def measuredParts (s : State) (fn : Nat) : List Measure :=
  (s.parts.filter fun e => fn == 0 || e.2.vf == fn).map fun e => measureOf e.1 e.2

/-- R387: what a function receives: measurements of the ROM, the firmware and the loader, and the configurations it may know. -/
def measurementsFor (s : State) (fn : Nat) : Measurements :=
  { rom := Config.romMeasure, firmware := s.dev.firmware, loader := s.dev.loader, parts := measuredParts s fn }

/-- R387: a function receives signed measurements. -/
def execMeasurements (fn : Nat) (s : State) : Out :=
  if 8 < fn then .fault .badArgument
  else if s.dev.boot = .running then
    .next (putFn s fn { getFn s fn with measured := some (measurementsFor s fn) })
  else .fault .notEnabled

/-- R369: the message types that exist. -/
def messageTypes : List Nat := [1, 2, 3, 4, 5, 6, 7, 8, 9, 0x40, 0x41, 0x42, 0x43, 0x44, 0x45, 0x46, 0x47, 0x48]

/-- R369: a message of an unlisted type receives status 2. -/
def execUnlistedMessageType (h : Msg) (ty : BitVec 8) (s : State) : Out :=
  if messageTypes.contains ty.toNat then .fault .badArgument
  else if msgTaken s h ty then reply s h ty 2 0 else .fault .notEnabled

/-- R382, R365: a secured SPDM session is set up on a function. -/
def execSpdmSession (fn : Nat) (s : State) : Out :=
  if 8 < fn then .fault .badArgument
  else if s.dev.boot = .running then .next (putFn s fn { getFn s fn with session := true }) else .fault .notEnabled

end Sys2Proof.Machine
end

