-- ==== Sys2Proof/Machine/Device.lean ====
section
/-!
DEFINITION. The device as a whole: channels and stacks that fail or hold (spec/19 R344 to R350), energy and clock
(spec/01 R21 to R25), accesses by the host and by peer devices (spec/21 R366, spec/12 R256, spec/14 R287), boot (R386).
-/
namespace Sys2Proof.Machine

/-! ### Memory errors and holds -/

/-- R375: the partition that holds a parity group. -/
def partOfGroup (s : State) (group : Nat) : Option Nat :=
  (s.parts.find? fun e => (heldGroups e.2).getLsbD group).map fun e => e.1

/-- R345: an event of a stack, for each partition with a parity group on it. -/
def stackEvent (s : State) (stack event : Nat) : State :=
  ((s.parts.filter fun e => (heldGroups e.2).getLsbD (2 * stack) || (heldGroups e.2).getLsbD (2 * stack + 1)).map fun e => e.1).foldl
    (fun t p => deviceEvent t p event {}) s

/-- R346: DRAM cannot correct a line, or the parity line of its stripe. -/
def markBad (s : State) (p va : Nat) (parity : Bool) : State :=
  match smFind s.parts p with
  | none => s
  | some x =>
    if parity then
      if x.badParity.contains (stripeOf x va) then s else putPart s p { x with badParity := stripeOf x va :: x.badParity }
    else if x.bad.contains (lineOf va) then s
    else putPart s p { x with bad := lineOf va :: x.bad }

/-- R347: a channel is declared failed; its partition's event is written once. -/
def execChannelFailed (channel : Nat) (s : State) : Out :=
  if 128 ≤ channel then .fault .badArgument
  else if channelFailed s channel then .fault .notEnabled
  else
    let s1 := putChannel s channel { getChannel s channel with failed := true }
    .next (match partOfGroup s (channel / 8) with | some p => deviceEvent s1 p 0x21 {} | none => s1)

/-- R349: a stack enters self-refresh and holds its requests. -/
def execCriticalTemperature (stack : Nat) (s : State) : Out :=
  if 8 ≤ stack then .fault .badArgument
  else if (getStack s stack).held then .fault .notEnabled
  else .next (stackEvent (putStack s stack { getStack s stack with held := true }) stack 0x24)

/-- R349: the stack leaves self-refresh and serves its requests. -/
def execSelfRefreshExit (stack : Nat) (s : State) : Out :=
  if (getStack s stack).held then .next (stackEvent (putStack s stack { getStack s stack with held := false }) stack 0x25)
  else .fault .notEnabled

/-- R350: the hardware timer takes over the refresh of a stack. -/
def execRefreshTakeover (stack : Nat) (s : State) : Out :=
  if 8 ≤ stack then .fault .badArgument
  else if (getStack s stack).takeover then .fault .notEnabled
  else .next (stackEvent (putStack s stack { getStack s stack with takeover := true }) stack 0x26)

/-- R348: a line is lost. -/
def loseLine (s : State) (p : Nat) (x : Partition) (va : Nat) : State :=
  deviceEvent (if x.lost.contains (lineOf va) then s else putPart s p { x with lost := lineOf va :: x.lost }) p 0x22
    { addr := lineOf va }

/-- R344, R348: an uncorrectable error in on-chip state: of a group it contains the group's launch, of what the partition
shares every launch of it; of a modified line it loses the line. -/
def execOnchipUncorrectable (part : Nat) (what : OnChip) (s : State) : Out :=
  match smFind s.parts part with
  | none => .fault .badArgument
  | some x =>
    match what with
    | .groupState k => match smFind s.groups k with
      | some g => if g.part = part then .next (containGroup s k g 0x18 0) else .fault .notEnabled
      | none => .fault .notEnabled
    | .shared =>
      let us := (s.launches.filter fun e => e.2.part == part).map fun e => e.1
      .next (deviceEvent (us.foldl (fun t u => containLaunch t u) s) part 0x18 {})
    | .modifiedLine va => if va < 2 ^ 52 then .next (loseLine s part x va) else .fault .badArgument

/-! ### Energy and clock -/

/-- The sum of the entries of a list that a unit meets a test. -/
def sumWhere (test : Nat → Bool) (xs : List (Nat × Nat)) : Nat := sumOf (fun x => x.2) (xs.filter fun x => test x.1)

/-- The entries of one unit in a list. -/
def sumAt (n : Nat) (xs : List (Nat × Nat)) : Nat := sumWhere (· == n) xs

/-- A part of an energy in proportion, in whole microjoules (notes/assumptions/16). -/
def shareOf (energy mine all : Nat) : Nat := energy * mine / all

/-- R22, R379: the clusters of a partition, and those that a resize has removed while a crew of it still stands there. -/
def paidCluster (s : State) (p : Nat) (x : Partition) (cluster : Nat) : Bool :=
  x.clusters.getLsbD cluster || s.crews.any fun e => e.2.part == p && e.2.core.any fun core => clusterOfCore core == cluster

/-- R22: what a partition is charged: its clusters with their cores and engines, home slices and channels, and its share of
the I/O die and links, by the bytes `w` of each partition's traffic through them. A slice that RESIZE removes is charged no more from then on,
though lines homed there have still to move (the model's choice, notes/assumptions/16). -/
def partCharge (s : State) (r : EnergyReading) (w : List (Nat × Nat)) (p : Nat) (x : Partition) : Nat :=
  let inside := fun core => paidCluster s p x (clusterOfCore core)
  sumWhere (paidCluster s p x) r.clusters + sumWhere inside r.cores + sumWhere inside r.engines
    + sumWhere (fun c => x.slices.getLsbD c) r.slices + sumWhere (fun c => (heldGroups x).getLsbD (c / 8)) r.channels
    + shareOf r.io (sumAt p w) (sumWhere (fun _ => true) w)

/-- What a unit has counted for one launch, and for all. -/
def countOf (m : SMap (SMap Nat)) (unit launch : Nat) : Nat := smGet 0 (smGet [] m unit) launch

/-- What a unit has counted. -/
def countAll (m : SMap (SMap Nat)) (unit : Nat) : Nat := sumWhere (fun _ => true) (smGet [] m unit)

/-- R25: an equal part for each crew of a launch on a core. -/
def equalCharge (s : State) (energy u core : Nat) : Nat :=
  let on := s.crews.filter fun e => e.2.core == some core
  (on.filter fun e => e.2.launch == u).length * (energy / on.length)

/-- R25: a launch's part of the energy of a core, by issue slots, or equal parts for the resident crews when none issued; and of the
core's engine, by accumulation steps. The rule gives no proportion for the engine when there were no steps: it is then divided
as the core's is (the model's choice, notes/assumptions/16). -/
def coreCharge (s : State) (r : EnergyReading) (u core : Nat) : Nat :=
  let ofCore := fun energy =>
    if countAll s.meters.slots core = 0 then equalCharge s energy u core
    else shareOf energy (countOf s.meters.slots core u) (countAll s.meters.slots core)
  ofCore (sumAt core r.cores)
    + if countAll s.meters.steps core = 0 then ofCore (sumAt core r.engines)
      else shareOf (sumAt core r.engines) (countOf s.meters.steps core u) (countAll s.meters.steps core)

/-- R25: a launch's part of the energy of the channels, by the bytes of its requests and jobs. -/
def channelCharge (s : State) (r : EnergyReading) (u channel : Nat) : Nat :=
  shareOf (sumAt channel r.channels) (countOf s.meters.traffic channel (u + 1)) (countAll s.meters.traffic channel)

/-- R25: what a launch is charged: its parts of the cores and of the channels. -/
def launchCharge (s : State) (r : EnergyReading) (u : Nat) : Nat :=
  sumOf (coreCharge s r u) (List.range 512) + sumOf (channelCharge s r u) (List.range 128)

/-- The entries of a list name different units. -/
def unitsOnce (xs : List (Nat × Nat)) : Bool := (xs.map fun x => x.1).eraseDups.length == xs.length

/-- R22: the readings of a microsecond: each unit of the package at most once, and no more in all than the package's. -/
def readingOk (pkg : Nat) (r : EnergyReading) : Bool :=
  let units := [(r.clusters, 128), (r.cores, 512), (r.engines, 512), (r.slices, 128), (r.channels, 128)]
  (units.all fun e => unitsOnce e.1 && e.1.all fun x => decide (x.1 < e.2))
    && decide (sumOf (fun e => sumWhere (fun _ => true) e.1) units + r.io ≤ pkg)

/-- R22, R23, R25: the energy of a microsecond: of the package, charged to partitions and to launches; the counts begin anew. -/
def execEnergySample (pkg : Nat) (r : EnergyReading) (w : List (Nat × Nat)) (s : State) : Out :=
  if readingOk pkg r then
    .next
      { s with
        dev := { s.dev with pkgUj := s.dev.pkgUj + pkg }
        parts := s.parts.map fun e => (e.1, { e.2 with regs := { e.2.regs with emuj := e.2.regs.emuj + partCharge s r w e.1 e.2 } })
        launches := s.launches.map fun e => (e.1, { e.2 with uj := e.2.uj + launchCharge s r e.1 })
        meters := Meters.zero }
  else .fault .badArgument

/-- R19: the core clock in MHz. -/
def nominalMhz : Nat := 3300

/-- R21: package power above the limit lowers the core clock by 100 MHz. -/
def execClockStepDown (watts : Nat) (s : State) : Out :=
  if s.dev.limit < watts && 100 < s.dev.mhz then .next { s with dev := { s.dev with mhz := s.dev.mhz - 100 } }
  else .fault .notEnabled

/-- R21: power 5% or more below the limit raises the core clock again, up to its nominal value. The step of 100 MHz is the
model's choice (notes/assumptions/48). -/
def execClockStepUp (watts : Nat) (s : State) : Out :=
  if 100 * watts ≤ 95 * s.dev.limit && s.dev.mhz < nominalMhz then .next { s with dev := { s.dev with mhz := min nominalMhz (s.dev.mhz + 100) } }
  else .fault .notEnabled

/-! ### The host's and peers' accesses -/

/-- Store bytes at system scope, one after another; a line written whole is good again (R348). -/
def storeSystem (s : State) (p va : Nat) (bs : List Byte) : Except MemFault State := do
  let t ← putBlockBytes s p va bs
  .ok (healRanges (lineRequests t p 0 none [] (linesFrom va bs.length)) p [(va, bs.length)])

/-- R241, R257, R318, R349: an access from outside waits while a line of it, or its bank, is held. -/
def outsideWaits (s : State) (p va n : Nat) : Bool := (linesFrom va (max n 1)).any (requestWaits s p)

/-- The bytes that an access of a peer device reaches. -/
def peerOpBytes (op : PeerOp) : Nat :=
  match op with
  | .read n => n
  | .write bytes => bytes.length
  | .add _ => 4

/-- R346, R348: the events of a read of a range of bytes: of a lost line, or of one that is rebuilt. -/
def readEvents (s : State) (p va n : Nat) : State :=
  (List.range ((va + n - 1) / 128 - va / 128 + 1)).foldl (fun t i =>
    let line := lineOf va + 128 * i
    match serveLine t p line 0 with
    | .ok _ => lineRequest p 0 none true t line
    | .error c => faultEvent t p c line 0) s

/-- R366, R348: the bytes of a host read, which lie on one page: of a lost line, free values (notes/assumptions/53). -/
def hostBytes (s : State) (p va n : Nat) : List Byte :=
  (List.range n).map fun i => match readBytes s p (va + i) 1 with
    | .ok v => BitVec.ofNat 8 v
    | .error _ => (Config.freeValue (s.freeCtr + i)).setWidth 8

/-- R256, R287: an access of a peer device, within one line, is performed at the home slice at system scope: a read as a load, with
its events, that returns the bytes; one that faults returns free values. -/
def execPeerRequest (part va : Nat) (op : PeerOp) (s : State) : Out :=
  let n := peerOpBytes op
  match smFind s.parts part with
  | none => .fault .notEnabled
  | some x =>
    if !(x.peers.any fun w => w.live) then .fault .notEnabled
    else if n = 0 || decide (128 < va % 128 + n) || decide (2 ^ 52 ≤ va) || inPeerWindow s part va then .fault .badArgument
    else if outsideWaits s part va n then .fault .notEnabled
    else match op with
      | .read _ =>
        let t := match channelWalk s part va with
          | .page _ _ _ _ => countPeer (readEvents s part va n) part va
          | _ => walkEvent s part va 0
        match smFind t.parts part with
        | some y => .next { putPart t part { y with peerData := hostBytes s part va n } with freeCtr := t.freeCtr + 4096 }
        | none => .next t
      | .write bytes => match storeSystem s part va bytes with
        | .ok t => .next t
        | .error f => .next (faultEvent s part f.1 va 0)
      | .add v =>
        if va % 4 ≠ 0 then .fault .badArgument
        else match addWord s part va v.toNat with
          | .ok (t, _) => .next t
          | .error c => .next (faultEvent s part c va 0)

/-- R366: an access of the aperture of a virtual function: the partition and the virtual address; within 4 KiB and within
64 GiB. -/
def apertureAt (s : State) (fn off len : Nat) : Option (Nat × Nat) :=
  if fn = 0 || decide (8 < fn) || len = 0 || decide (4096 < off % 4096 + len) || decide (2 ^ 36 < off + len) then none
  else (partOfFn s fn).map fun x => (x.1, (getFn s fn).apbase.toNat + off)

/-- R366: the loader report of an aperture access at an address, if its page does not permit it. -/
def apertureReport (s : State) (p va : Nat) (write : Bool) : Option Nat :=
  if inPeerWindow s p va then none
  else match channelWalk s p va with
    | .page _ w _ _ => if write && !w then some 0x05 else none
    | _ => some 0x03

/-- R366, R220: an access that its page does not permit writes its loader report, and event 0x19 when the walk met a malformed
entry. -/
def apertureRefused (s : State) (p va report : Nat) : State :=
  loaderReport (faultEvent s p (if report = 0x03 then causePage else causeWrite) va 0) p report { addr := va }

/-- R366: the host has received the data of a read. -/
def hostReceives (s : State) (fn : Nat) (bs : List Byte) : State := putFn s fn { getFn s fn with readData := bs }

/-- R366, R256: a host read through the aperture; of an unmapped page it reads all ones and loader report 0x03 is
written. -/
def execApertureRead (fn off len : Nat) (s : State) : Out :=
  match apertureAt s fn off len with
  | none => .fault .badArgument
  | some (p, va) => match apertureReport s p va false with
    | some r => .next (hostReceives (apertureRefused s p va r) fn (List.replicate len 0xFF))
    | none =>
      if inPeerWindow s p va then .next (countPeer (hostReceives s fn (hostBytes s p va len)) p va)
      else if outsideWaits s p va len then .fault .notEnabled
      else
        let t := readEvents s p va len
        .next { hostReceives t fn (hostBytes s p va len) with freeCtr := t.freeCtr + 4096 }

/-- R366, R256: a host write through the aperture is a store at system scope; of an unmapped page, or of one mapped with
`W` 0, it is dropped and loader report 0x03 or 0x05 is written. -/
def execApertureWrite (fn off : Nat) (bytes : List (BitVec 8)) (s : State) : Out :=
  match apertureAt s fn off bytes.length with
  | none => .fault .badArgument
  | some (p, va) => match apertureReport s p va true with
    | some r => .next (apertureRefused s p va r)
    | none =>
      if !inPeerWindow s p va && outsideWaits s p va bytes.length then .fault .notEnabled
      else match storeSystem s p va bytes with
        | .ok t => .next t
        | .error _ => .next s

/-- R366, R367: the 8 bytes of BAR0 of a function at an offset, as a host read returns them. -/
def bar0Read (s : State) (fn off : Nat) : DWord :=
  let f := getFn s fn
  let reg := fun (v : Partition → DWord) => match partOfFn s fn with | some (_, x) => if fn = 0 then 0 else v x | none => 0
  if off < 0x4000 then
    let y := getSlot f (off / 256)
    if off % 256 = 0 then y.header else y.body.extractLsb' (8 * (off % 256 / 8 * 8 - 8)) 64
  else if off = 0x4000 then f.apbase
  else if off = 0x4008 then reg fun x => x.fqlost.setWidth 64
  else if off = 0x4010 then (if fn = 0 then BitVec.ofNat 64 (s.dev.pkgUj / 1000) else 0)
  else if off = 0x4018 then reg fun x => x.regs.fqbase
  else if off = 0x4020 then reg fun x => x.regs.mrbase
  else if off = 0x4028 then reg fun x => x.regs.erbase
  else if 0x5000 ≤ off && off < 0x5040 then smGet 0 f.msix ((off - 0x5000) / 8)
  else 0

/-- R367, R368: a slot with 8 of its bytes written by the host: the header, which arrives at place `n` when it gives the slot to the
loader, or a word of the body. The loader may have taken an earlier value of a word that is written in a slot of its own. -/
def slotWritten (y : MsgSlot) (at_ : Nat) (value : BitVec 64) (n : Nat) : MsgSlot :=
  if at_ = 0 then
    if slotOwned y || !value.getLsbD 63 then { y with header := value } else { y with header := value, arrived := n, earlier := [] }
  else
    let lo := 8 * (at_ - 8)
    { y with body := BitVec.ofNat 1984 (y.body.toNat - bitsOf y.body.toNat lo 64 * 2 ^ lo + value.toNat * 2 ^ lo)
             earlier := if slotOwned y then (at_ / 8 - 1, slotWord y.body (at_ / 8 - 1)) :: y.earlier else y.earlier }

/-- R368: a write to a message window; it counts as the next to arrive. -/
def hostSlotWrite (s : State) (fn off : Nat) (value : BitVec 64) : State :=
  let f := getFn s fn
  let t := putFn s fn
    { f with slots := smPut f.slots (off / 256) (slotWritten (getSlot f (off / 256)) (off % 256) value s.dev.arrivals) }
  { t with dev := { t.dev with arrivals := t.dev.arrivals + 1 } }

/-- R366, R367: a host write of 8 bytes to BAR0: the message slots, `APBASE` of a virtual function and the MSI-X table can be
written. -/
def execBar0RegisterWrite (fn off : Nat) (value : BitVec 64) (s : State) : Out :=
  if decide (8 < fn) || off % 8 ≠ 0 then .fault .badArgument
  else
    let f := getFn s fn
    if off < 0x4000 then .next (hostSlotWrite s fn off value)
    else if off = 0x4000 && fn ≠ 0 then .next (putFn s fn { f with apbase := BitVec.ofNat 64 (value.toNat / 2 ^ 36 * 2 ^ 36) })
    else if 0x5000 ≤ off && off < 0x5040 then .next (putFn s fn { f with msix := smSet 0 f.msix ((off - 0x5000) / 8) value })
    else .next s

/-! ### Boot -/

/-- R386: an image that the boot ROM accepts under a fused anti-rollback counter. -/
def imageAccepted (svn : Nat) (image : FirmwareImage) : Bool := image.ecdsaOk && image.lmsOk && decide (svn ≤ image.version)

/-- R386: the device after the ROM has fetched an image. -/
def bootWith (dev : Device) (image : FirmwareImage) : Device :=
  if imageAccepted dev.svn image then
    { dev with boot := .running, fwVersion := image.version, firmware := image.measure, loader := image.loaderMeasure }
  else { dev with boot := .retry }

/-- R386: reset: the boot ROM fetches an image, and starts it or refuses it. The fused counter stays as it is, and so do the
schedule and the counter of free values, which are the model's own. -/
def execDeviceReset (image : FirmwareImage) (s : State) : Out :=
  .next { State.reset with agenda := s.agenda, freeCtr := s.freeCtr, dev := bootWith { Device.reset with svn := s.dev.svn } image }

/-- R386: the ROM retries the fetch after a refusal. -/
def execBootRetry (image : FirmwareImage) (s : State) : Out :=
  if s.dev.boot = .retry then .next { s with dev := bootWith s.dev image } else .fault .notEnabled

end Sys2Proof.Machine
end

