-- ==== Sys2Proof/Machine/Special.lean ====
section
/-!
DEFINITION. The special functions (spec/09 R177 to R179). `FRCP` and `FSQRT` are rounded once from the exact value.
The other six are fixed functions that the spec bounds and does not give: the result is the value of an opaque
constant where it lies within the bound of R179, and the exact value rounded elsewhere (notes/assumptions/12). The
exact values are enclosed in fixed point with 80 fraction bits, and the bounds are narrowed by more than the error of that.
-/
namespace Sys2Proof.Machine

/-- The format of `.f32`. -/
def f32 : Format := formatOf 16

/-- R177: the special points of a function: at NaN, at an infinity, at a zero, by sign. -/
structure SpecialPoints where
  zeroPos : Nat
  zeroNeg : Nat
  infPos : Nat
  infNeg : Nat

/-- R177: the value at a special point, as a pattern of the format, or `fn` of a finite non-zero operand. -/
def atPoint (f : Format) (p : SpecialPoints) (a : FVal) (fn : Bool → Nat → Int → Nat) : Nat :=
  match a with
  | .nan => f.nanCode
  | .inf neg => if neg then p.infNeg else p.infPos
  | .fin neg m e => if m = 0 then (if neg then p.zeroNeg else p.zeroPos) else fn neg m e

/-- R73: a pattern with `.sat`: an infinite value becomes the largest finite one. -/
def satPattern (f : Format) (sat : Bool) (pat : Nat) : Nat :=
  match fval f pat with
  | .inf neg => roundVal f .rne sat (.inf neg)
  | _ => pat

/-! ### Square roots and fixed point -/

/-- The integer square root, bit by bit from bit `k - 1`. -/
def isqrtFrom (n k r : Nat) : Nat :=
  match k with
  | 0 => r
  | k + 1 => if (r + 2 ^ k) * (r + 2 ^ k) ≤ n then isqrtFrom n k (r + 2 ^ k) else isqrtFrom n k r

/-- The integer square root. -/
def isqrt (n : Nat) : Nat := isqrtFrom n (bitLen n / 2 + 1) 0

/-- One, in fixed point. -/
def fxOne : Nat := 2 ^ 80

/-- The natural logarithm of 2, in fixed point. -/
def fxLn2 : Nat := 837963523372001241319907

/-- The base-2 logarithm of e, in fixed point. -/
def fxLog2e : Nat := 1744111284760651037637903

/-- 2π with 100 fraction bits. -/
def twoPi100 : Nat := 7964883625991394727376702227904

/-- The magnitude m × 2^e in fixed point with `p` fraction bits, rounded down. -/
def fixed (p m : Nat) (e : Int) : Nat :=
  if 0 ≤ e + p then m * 2 ^ (e + p).toNat else m / 2 ^ (-(e + p)).toNat

/-- The terms t^k / k! of a series from the k-th on, `n` of them. -/
def seriesTerms (t term k n : Nat) : List Nat :=
  match n with
  | 0 => []
  | n + 1 => term :: seriesTerms t (term * t / fxOne / (k + 1)) (k + 1) n

/-- 2^x for x in [0, 1), in fixed point. -/
def fxExp2 (x : Nat) : Nat := (seriesTerms (x * fxLn2 / fxOne) fxOne 0 26).foldl (· + ·) 0

/-- The fraction bits of log2 of y in [1, 2), `n` of them. -/
def fxLog2 (y acc n : Nat) : Nat :=
  match n with
  | 0 => acc
  | n + 1 =>
    let z := y * y / fxOne
    if z ≥ 2 * fxOne then fxLog2 (z / 2) (2 * acc + 1) n else fxLog2 z (2 * acc) n

/-- The alternating sum of every second term, from term `k` mod 2. -/
def altSum (xs : List Nat) (use plus : Bool) : Int :=
  match xs with
  | [] => 0
  | x :: rest =>
    if use then (if plus then (x : Int) else -(x : Int)) + altSum rest false (!plus) else altSum rest true plus

/-- sin x or cos x for x in [0, 2π], in fixed point. -/
def fxSinCos (cos : Bool) (x : Nat) : Int := altSum (seriesTerms x fxOne 0 56) cos true

/-! ### The bounds of R179 -/

/-- A value as a multiple of 2^e, an infinity as 2^128; none for a NaN. -/
def multipleOf (e : Int) (v : FVal) : Option Int :=
  match v with
  | .nan => none
  | .inf neg => some (toInt neg (2 ^ (128 - e).toNat))
  | .fin neg m k => some (toInt neg (if e ≤ k then m * 2 ^ (k - e).toNat else m / 2 ^ (e - k).toNat))

/-- Two values lie within `n` multiples of 2^e. -/
def withinMultiples (n : Nat) (e : Int) (x y : FVal) : Bool :=
  match multipleOf e x, multipleOf e y with
  | some a, some b => (a - b).natAbs ≤ n
  | _, _ => false

/-- R179: the exponent of an ulp of `.f32` at an exact value: of the gap that encloses it (at a value of `.f32` itself,
of the gap above it in magnitude). -/
def ulpExp (v : FVal) : Int :=
  match v with
  | .fin _ m e =>
    let top : Int := (bitLen m : Int) - 1 + e
    (if top < -126 then -126 else top) - 23
  | _ => 104

/-- R179: within `n` ulp of the exact value, of which `y` is an enclosure good to 2^-16 ulp. -/
def withinUlps (n : Nat) (y x : FVal) : Bool := withinMultiples (n * 2 ^ 16 - 3) (ulpExp y - 16) x y

/-- R179: within an absolute error of 2^-k. -/
def withinAbs (k : Nat) (y x : FVal) : Bool := withinMultiples (2 ^ 20 - 3) (-(k : Int) - 20) x y

/-- R179: the fixed function where it keeps the bound, else the exact value rounded. -/
def bounded (fixedFn : Word → Word) (a : FVal) (keeps : FVal → Bool) (exact : FVal) : Nat :=
  let v := (fixedFn (BitVec.ofNat 32 (roundVal f32 .rne false a))).toNat
  if keeps (fval f32 v) then v else roundVal f32 .rne false exact

/-- R178: a function of the other six at a type: the `.f32` result, rounded once to `.f16` or `.bf16`. -/
def viaF32 (fn : FVal → Nat) (t : BitVec 5) (_ : Rounding) (sat : Bool) (pat : Nat) : Nat :=
  roundVal (formatOf t) .rne sat (fval f32 (fn (fval (formatOf t) pat)))

/-! ### The functions -/

/-- R177, R178: 1/a rounded once. -/
def spRcp (t : BitVec 5) (mode : Rounding) (sat : Bool) (pat : Nat) : Nat :=
  let f := formatOf t
  satPattern f sat (atPoint f
    { zeroPos := signed f false f.infCode, zeroNeg := signed f true f.infCode, infPos := signed f false 0,
      infNeg := signed f true 0 }
    (fval f pat)
    fun neg m e => roundMag f mode sat neg (2 ^ 96 / m) (-e - 96) (2 ^ 96 % m != 0))

/-- R177, R178: √a rounded once. -/
def spSqrt (t : BitVec 5) (mode : Rounding) (sat : Bool) (pat : Nat) : Nat :=
  let f := formatOf t
  satPattern f sat (atPoint f
    { zeroPos := signed f false 0, zeroNeg := signed f true 0, infPos := signed f false f.infCode,
      infNeg := f.nanCode }
    (fval f pat)
    fun neg m e =>
      if neg then f.nanCode
      else
        let k : Nat := 96 + (e % 2).toNat
        let x := m * 2 ^ k
        let r := isqrt x
        roundMag f mode sat false r ((e - k) / 2) (r * r != x))

/-- R177, R179: 1/√a. -/
def f32Rsq (a : FVal) : Nat :=
  atPoint f32 { zeroPos := f32.infCode, zeroNeg := signed f32 true f32.infCode, infPos := 0, infNeg := f32.nanCode } a
    fun neg m e =>
      if neg then f32.nanCode
      else
        let k : Nat := 192 + (e % 2).toNat
        let y : FVal := .fin false (isqrt (2 ^ k / m)) ((-e - k) / 2)
        bounded Config.frsq a (withinUlps 1 y) y

/-- R177: n when the value is the integer n. -/
def asInteger (neg : Bool) (m : Nat) (e : Int) : Option Int :=
  if 0 ≤ e then some (toInt neg (m * 2 ^ (min e 64).toNat))
  else if m % 2 ^ (-e).toNat = 0 then some (toInt neg (m / 2 ^ (-e).toNat))
  else none

/-- R177, R179: 2^a. An integer power that `.f32` holds is exact; a power of 2^128 or more is +∞. A negative operand
too small for the fixed point counts as its last bit, so that the enclosure of a value just below 1 lies in the gap below 1. -/
def f32Exp2 (a : FVal) : Nat :=
  atPoint f32 { zeroPos := 0x3F800000, zeroNeg := 0x3F800000, infPos := f32.infCode, infNeg := 0 } a
    fun neg m e =>
      if !neg && fixed 0 m e ≥ 128 then f32.infCode
      else
        let y : FVal :=
          if fixed 0 m e ≥ 200 then .fin false 1 (-200)
          else
            let x : Int := toInt neg (if neg then max 1 (fixed 80 m e) else fixed 80 m e)
            .fin false (fxExp2 (x % fxOne).toNat) (x / fxOne - 80)
        match asInteger neg m e with
        | some n => if -149 ≤ n then roundVal f32 .rne false (.fin false 1 n) else bounded Config.fexp2 a (withinUlps 2 y) y
        | none => bounded Config.fexp2 a (withinUlps 2 y) y

/-- R177, R179: log2 a; exact for a power of 2. -/
def f32Log2 (a : FVal) : Nat :=
  atPoint f32 { zeroPos := signed f32 true f32.infCode, zeroNeg := signed f32 true f32.infCode, infPos := f32.infCode,
                infNeg := f32.nanCode } a
    fun neg m e =>
      if neg then f32.nanCode
      else
        let k := bitLen m - 1
        let n : Int := (k : Int) + e
        if m = 2 ^ k then roundVal f32 .rne false (.fin (n < 0) n.natAbs 0)
        else
          let x : Int := n * 2 ^ 64 + (fxLog2 (fixed 80 m (-(k : Int))) 0 64 : Nat)
          let y : FVal := .fin (x < 0) x.natAbs (-64)
          let near := fixed 1 m e ≥ 1 && fixed 20 m e < 2 ^ 21
          bounded Config.flog2 a (if near then withinAbs 22 y else withinUlps 2 y) y

/-- R177, R179: sin a or cos a. For |a| above 2^14 it is the fixed function's value where that lies in [-1, 1], else +0 (the model's
choice, notes/assumptions/12). -/
def f32SinCos (cos : Bool) (fixedFn : Word → Word) (a : FVal) : Nat :=
  let one := if cos then 0x3F800000 else 0
  atPoint f32 { zeroPos := one, zeroNeg := if cos then one else signed f32 true 0, infPos := f32.nanCode,
                infNeg := f32.nanCode } a
    fun neg m e =>
      if fixed 20 m e ≤ 2 ^ 34 then
        let x := fixed 100 m e % twoPi100 / 2 ^ 20
        let s := fxSinCos cos x
        let y : FVal := .fin (decide (s < 0) != (neg && !cos)) s.natAbs (-80)
        bounded fixedFn a (withinAbs 21 y) y
      else
        bounded fixedFn a
          (fun v => match multipleOf (-30) v with | some x => x.natAbs ≤ 2 ^ 30 | none => false) (.fin false 0 0)

/-- R177, R179: tanh a; ±1 when |a| ≥ 10. The cubic term counts for one at least, so that the enclosure lies below a
in magnitude, as the exact value does, and the ulp is that of the gap there. -/
def f32Tanh (a : FVal) : Nat :=
  atPoint f32 { zeroPos := 0, zeroNeg := signed f32 true 0, infPos := 0x3F800000, infNeg := 0xBF800000 } a
    fun neg m e =>
      if fixed 0 m e ≥ 10 then signed f32 neg 0x3F800000
      else
        let y : FVal :=
          if fixed 12 m e = 0 then .fin neg (m * 2 ^ 64 - max 1 (fixed (64 : Nat) (m * m * m) (2 * e) / 3)) (e - 64)
          else
            let z := 2 * fixed 80 m e * fxLog2e / fxOne
            let x := fxExp2 (z % fxOne) * 2 ^ (z / fxOne)
            .fin neg ((x - fxOne) * fxOne / (x + fxOne)) (-80)
        bounded Config.ftanh a (withinUlps 2 y) y

/-- R177 to R179. -/
def spRsq : BitVec 5 → Rounding → Bool → Nat → Nat := viaF32 f32Rsq
/-- R177 to R179. -/
def spExp2 : BitVec 5 → Rounding → Bool → Nat → Nat := viaF32 f32Exp2
/-- R177 to R179. -/
def spLog2 : BitVec 5 → Rounding → Bool → Nat → Nat := viaF32 f32Log2
/-- R177 to R179. -/
def spSin : BitVec 5 → Rounding → Bool → Nat → Nat := viaF32 (f32SinCos false Config.fsin)
/-- R177 to R179. -/
def spCos : BitVec 5 → Rounding → Bool → Nat → Nat := viaF32 (f32SinCos true Config.fcos)
/-- R177 to R179. -/
def spTanh : BitVec 5 → Rounding → Bool → Nat → Nat := viaF32 f32Tanh

end Sys2Proof.Machine
end

