-- ==== Sys2Proof/Machine/Float.lean ====
section
/-!
DEFINITION. The floating-point instructions, opcodes 0x40-0x5F (spec/09 R168 to R182).
-/
namespace Sys2Proof.Machine

/-- R171: compute exactly and round once: `op` on the values of a and b at the type. -/
def laneFloatBin (op : Rounding → FVal → FVal → FVal) (c : Ctx) : Except (BitVec 8) Lane := do
  let f := formatOf c.ty
  let a ← readTy c c.a c.ty
  let b ← readTy c c.b c.ty
  let mode := modeOf c.i
  writeLane c c.ln c.d c.ty (roundVal f mode (satOf c) (op mode (fval f a) (fval f b)))

/-- R171: a + b. -/
def opFAdd (mode : Rounding) (a b : FVal) : FVal := fAdd mode a b
/-- R171: a - b. -/
def opFSub (mode : Rounding) (a b : FVal) : FVal := fAdd mode a (fNegate b)
/-- R171: a × b. -/
def opFMul (_ : Rounding) (a b : FVal) : FVal := fMul a b

/-- R172: the lesser or the greater operand's pattern, or the canonical NaN. -/
def laneFloatMin (greater : Bool) (c : Ctx) : Except (BitVec 8) Lane := do
  let a ← readTy c c.a c.ty
  let b ← readTy c c.b c.ty
  writeLane c c.ln c.d c.ty (foldMin c.ty greater [a, b])

/-- R173: an operation on the sign bit. -/
def laneSign (op : Nat → Nat → Nat) (c : Ctx) : Except (BitVec 8) Lane := do
  let a ← readTy c c.a c.ty
  writeLane c c.ln c.d c.ty (op a (2 ^ (tyBits c.ty - 1)))

/-- R174: the order of a and b at a floating-point type. -/
def floatOrder (c : Ctx) : Except (BitVec 8) (Option Ordering) := do
  let f := formatOf c.ty
  let a ← readTy c c.a c.ty
  let b ← readTy c c.b c.ty
  .ok (fCompare (fval f a) (fval f b))

/-- R177: a special function of a at the type. -/
def laneSpecial (fn : BitVec 5 → Rounding → Bool → Nat → Nat) (c : Ctx) : Except (BitVec 8) Lane := do
  let a ← readTy c c.a c.ty
  writeLane c c.ln c.d c.ty (fn c.ty (modeOf c.i) (satOf c) a)

/-- R181, R182: the source of `FCVT` as an exact value; a block word is a whole register. -/
def fcvtSource (c : Ctx) : Except (BitVec 8) FVal := do
  let t := sourceTypeOf c.i
  let x ← readLane c c.a (if tyIsBlock t then 32 else tyBits t) (constAt t)
  .ok (valueAt t x)

/-- R182: the 32 values of the block that a group's lanes make; a lane outside E counts as +0. -/
def blockValues (vals : List (Nat × FVal)) : List FVal :=
  laneIxs.map fun l => ((vals.find? fun x => x.1 == l).map (·.2)).getD (.fin false 0 0)

/-- R182, R75: the block word of one element of the block. -/
def fcvtBlock (t : BitVec 5) (mode : Rounding) (vals : List (Nat × FVal)) (own : FVal) : Nat :=
  let e := blockExps t (blockValues vals)
  blockWord t e.1 e.2 (blockQuant t mode e.1 e.2 own)

/-- R80: the two elements of a packed word. -/
def halfOf (x h : Nat) : Nat := bitsOf x (16 * h) 16

/-- R176, R80: compute each half at the type and write one word. -/
def lanePacked (op : Rounding → FVal → FVal → FVal) (c : Ctx) : Except (BitVec 8) Lane := do
  let f := formatOf c.ty
  let a ← readPacked c c.a c.ty
  let b ← readPacked c c.b c.ty
  let mode := modeOf c.i
  let half := fun h => roundVal f mode (satOf c) (op mode (fval f (halfOf a h)) (fval f (halfOf b h)))
  writeLane c c.ln c.d 6 (half 0 + 2 ^ 16 * half 1)

/-- R175: the four predicates of a packed compare: those of element 0 and of element 1. -/
def packedPairs (c : Ctx) : Nat × Nat × Nat × Nat × Nat :=
  let (cmb, q) := cmpFields c
  (cmb, q, (q + 1) % 16, (q + 2) % 16, (q + 3) % 16)

/-- R175: a packed compare writes two pairs and enters a stale value into `b0`. -/
def lanePackedCompare (cond : Cond) (c : Ctx) : Except (BitVec 8) Lane := do
  let f := formatOf c.ty
  let a ← readPacked c c.a c.ty
  let b ← readPacked c c.b c.ty
  let holds := fun h => condHolds cond (fCompare (fval f (halfOf a h)) (fval f (halfOf b h)))
  let (cmb, q0, q1, q2, q3) := packedPairs c
  .ok (shiftLatches (writePair (writePair c.ln q0 q1 cmb true (holds 0)) q2 q3 cmb true (holds 1)) none)

/-- R175, R148: an inactive lane of a packed compare. -/
def idlePackedCompare (c : Ctx) : Lane :=
  let (cmb, q0, q1, q2, q3) := packedPairs c
  writePair (writePair c.ln q0 q1 cmb false false) q2 q3 cmb false false

/-- R171: a + b, rounded once. -/
def execFadd (d : BitVec 8) (a : BitVec 8) (b : BitVec 8) (m : Mods) (s : State) : Out :=
  execLane (.fadd d a b m) (laneFloatBin opFAdd) s

/-- R171: a - b, rounded once. -/
def execFsub (d : BitVec 8) (a : BitVec 8) (b : BitVec 8) (m : Mods) (s : State) : Out :=
  execLane (.fsub d a b m) (laneFloatBin opFSub) s

/-- R171: a × b, rounded once. -/
def execFmul (d : BitVec 8) (a : BitVec 8) (b : BitVec 8) (m : Mods) (s : State) : Out :=
  execLane (.fmul d a b m) (laneFloatBin opFMul) s

/-- R171: a × b + d, rounded once. -/
def execFfma (d : BitVec 8) (a : BitVec 8) (b : BitVec 8) (m : Mods) (s : State) : Out :=
  execLane (.ffma d a b m) (fun c => do
    let f := formatOf c.ty
    let x ← readTy c c.a c.ty
    let y ← readTy c c.b c.ty
    let z ← readAddend c (tyBits c.ty)
    let mode := modeOf c.i
    writeLane c c.ln c.d c.ty (roundVal f mode (satOf c) (fAdd mode (fMul (fval f x) (fval f y)) (fval f z)))) s

/-- R172: the lesser. -/
def execFmin (d : BitVec 8) (a : BitVec 8) (b : BitVec 8) (m : Mods) (s : State) : Out :=
  execLane (.fmin d a b m) (laneFloatMin false) s

/-- R172: the greater. -/
def execFmax (d : BitVec 8) (a : BitVec 8) (b : BitVec 8) (m : Mods) (s : State) : Out :=
  execLane (.fmax d a b m) (laneFloatMin true) s

/-- R173: the sign bit cleared. -/
def execFabs (d : BitVec 8) (a : BitVec 8) (m : Mods) (s : State) : Out :=
  execLane (.fabs d a m) (laneSign fun a sgn => a % sgn) s

/-- R173: the sign bit inverted. -/
def execFneg (d : BitVec 8) (a : BitVec 8) (m : Mods) (s : State) : Out :=
  execLane (.fneg d a m) (laneSign fun a sgn => a ^^^ sgn) s

/-- R174: compare at a floating-point type, condition `.eq`. -/
def execFcmpEq (c : BitVec 3) (q : BitVec 4) (a : BitVec 8) (b : BitVec 8) (m : Mods) (s : State) : Out :=
  execLaneWith (.fcmpEq c q a b m) (laneCompare floatOrder .eq) idleCompare s

/-- R174: compare at a floating-point type, condition `.ne`. -/
def execFcmpNe (c : BitVec 3) (q : BitVec 4) (a : BitVec 8) (b : BitVec 8) (m : Mods) (s : State) : Out :=
  execLaneWith (.fcmpNe c q a b m) (laneCompare floatOrder .ne) idleCompare s

/-- R174: compare at a floating-point type, condition `.lt`. -/
def execFcmpLt (c : BitVec 3) (q : BitVec 4) (a : BitVec 8) (b : BitVec 8) (m : Mods) (s : State) : Out :=
  execLaneWith (.fcmpLt c q a b m) (laneCompare floatOrder .lt) idleCompare s

/-- R174: compare at a floating-point type, condition `.le`. -/
def execFcmpLe (c : BitVec 3) (q : BitVec 4) (a : BitVec 8) (b : BitVec 8) (m : Mods) (s : State) : Out :=
  execLaneWith (.fcmpLe c q a b m) (laneCompare floatOrder .le) idleCompare s

/-- R174: compare at a floating-point type, condition `.gt`. -/
def execFcmpGt (c : BitVec 3) (q : BitVec 4) (a : BitVec 8) (b : BitVec 8) (m : Mods) (s : State) : Out :=
  execLaneWith (.fcmpGt c q a b m) (laneCompare floatOrder .gt) idleCompare s

/-- R174: compare at a floating-point type, condition `.ge`. -/
def execFcmpGe (c : BitVec 3) (q : BitVec 4) (a : BitVec 8) (b : BitVec 8) (m : Mods) (s : State) : Out :=
  execLaneWith (.fcmpGe c q a b m) (laneCompare floatOrder .ge) idleCompare s

/-- R177 to R179: 1/a, correctly rounded. -/
def execFrcp (d : BitVec 8) (a : BitVec 8) (m : Mods) (s : State) : Out :=
  execLane (.frcp d a m) (laneSpecial spRcp) s

/-- R177 to R179: 1/√a. -/
def execFrsq (d : BitVec 8) (a : BitVec 8) (m : Mods) (s : State) : Out :=
  execLane (.frsq d a m) (laneSpecial spRsq) s

/-- R177 to R179: √a, correctly rounded. -/
def execFsqrt (d : BitVec 8) (a : BitVec 8) (m : Mods) (s : State) : Out :=
  execLane (.fsqrt d a m) (laneSpecial spSqrt) s

/-- R177 to R179: 2^a. -/
def execFexp2 (d : BitVec 8) (a : BitVec 8) (m : Mods) (s : State) : Out :=
  execLane (.fexp2 d a m) (laneSpecial spExp2) s

/-- R177 to R179: log2 a. -/
def execFlog2 (d : BitVec 8) (a : BitVec 8) (m : Mods) (s : State) : Out :=
  execLane (.flog2 d a m) (laneSpecial spLog2) s

/-- R177 to R179: sin a. -/
def execFsin (d : BitVec 8) (a : BitVec 8) (m : Mods) (s : State) : Out :=
  execLane (.fsin d a m) (laneSpecial spSin) s

/-- R177 to R179: cos a. -/
def execFcos (d : BitVec 8) (a : BitVec 8) (m : Mods) (s : State) : Out :=
  execLane (.fcos d a m) (laneSpecial spCos) s

/-- R177 to R179: tanh a. -/
def execFtanh (d : BitVec 8) (a : BitVec 8) (m : Mods) (s : State) : Out :=
  execLane (.ftanh d a m) (laneSpecial spTanh) s

/-- R180 to R182: convert from the type in `MOD` to the type in `TYPE`; a block destination takes all lanes of E. -/
def execFcvt (d : BitVec 8) (a : BitVec 8) (m : Mods) (s : State) : Out :=
  let i := (.fcvt d a m)
  let t := typeOf i
  if tyIsBlock t then execCross i noLead fcvtSource (fun _ _ vals own => fcvtBlock t (modeOf i) vals own) 6 s
  else execLane i (fun c => do
    let x ← fcvtSource c
    writeLane c c.ln c.d t (convertTo t (modeOf i) (satOf c && !widensInt (sourceTypeOf i) t) x)) s

/-- R176: a + b in each half. -/
def execHadd2 (d : BitVec 8) (a : BitVec 8) (b : BitVec 8) (m : Mods) (s : State) : Out :=
  execLane (.hadd2 d a b m) (lanePacked opFAdd) s

/-- R176: a × b in each half. -/
def execHmul2 (d : BitVec 8) (a : BitVec 8) (b : BitVec 8) (m : Mods) (s : State) : Out :=
  execLane (.hmul2 d a b m) (lanePacked opFMul) s

/-- R176: a × b + d in each half. -/
def execHfma2 (d : BitVec 8) (a : BitVec 8) (b : BitVec 8) (m : Mods) (s : State) : Out :=
  execLane (.hfma2 d a b m) (fun c => do
    let f := formatOf c.ty
    let x ← readPacked c c.a c.ty
    let y ← readPacked c c.b c.ty
    let z ← readAddend c 32
    let mode := modeOf c.i
    let half := fun h => roundVal f mode (satOf c)
      (fAdd mode (fMul (fval f (halfOf x h)) (fval f (halfOf y h))) (fval f (halfOf z h)))
    writeLane c c.ln c.d 6 (half 0 + 2 ^ 16 * half 1)) s

/-- R175: compare each half, condition `.eq`. -/
def execHcmp2Eq (c : BitVec 3) (q : BitVec 4) (a : BitVec 8) (b : BitVec 8) (m : Mods) (s : State) : Out :=
  execLaneWith (.hcmp2Eq c q a b m) (lanePackedCompare .eq) idlePackedCompare s

/-- R175: compare each half, condition `.ne`. -/
def execHcmp2Ne (c : BitVec 3) (q : BitVec 4) (a : BitVec 8) (b : BitVec 8) (m : Mods) (s : State) : Out :=
  execLaneWith (.hcmp2Ne c q a b m) (lanePackedCompare .ne) idlePackedCompare s

/-- R175: compare each half, condition `.lt`. -/
def execHcmp2Lt (c : BitVec 3) (q : BitVec 4) (a : BitVec 8) (b : BitVec 8) (m : Mods) (s : State) : Out :=
  execLaneWith (.hcmp2Lt c q a b m) (lanePackedCompare .lt) idlePackedCompare s

/-- R175: compare each half, condition `.le`. -/
def execHcmp2Le (c : BitVec 3) (q : BitVec 4) (a : BitVec 8) (b : BitVec 8) (m : Mods) (s : State) : Out :=
  execLaneWith (.hcmp2Le c q a b m) (lanePackedCompare .le) idlePackedCompare s

/-- R175: compare each half, condition `.gt`. -/
def execHcmp2Gt (c : BitVec 3) (q : BitVec 4) (a : BitVec 8) (b : BitVec 8) (m : Mods) (s : State) : Out :=
  execLaneWith (.hcmp2Gt c q a b m) (lanePackedCompare .gt) idlePackedCompare s

/-- R175: compare each half, condition `.ge`. -/
def execHcmp2Ge (c : BitVec 3) (q : BitVec 4) (a : BitVec 8) (b : BitVec 8) (m : Mods) (s : State) : Out :=
  execLaneWith (.hcmp2Ge c q a b m) (lanePackedCompare .ge) idlePackedCompare s

end Sys2Proof.Machine
end

