-- ==== Sys2Proof/Machine/Uniform.lean ====
section
/-!
DEFINITION. The uniform instructions other than memory accesses, opcodes 0x80-0x90 (spec/07 R160 to R163).
-/
namespace Sys2Proof.Machine

/-- R161: an operation on integers at the type, computed once with the group's values. -/
def uniIntBin (op : BitVec 5 → Bool → Int → Int → Nat) (c : Ctx) : Except (BitVec 8) Group :=
  .ok (writeUni c.g c.d c.ty
    (op c.ty (satOf c) (intVal c.ty (readUni c c.a c.ty)) (intVal c.ty (readUni c c.b c.ty))))

/-- R161: an operation on w-bit patterns. -/
def uniBits (op : Nat → Nat → Nat → Nat) (c : Ctx) : Except (BitVec 8) Group :=
  .ok (writeUni c.g c.d c.ty (op (tyBits c.ty) (readUni c c.a c.ty) (readUni c c.b c.ty)))

/-- R161, R142: a shift: the amount is read as `.n32`. -/
def uniShift (op : Nat → Nat → Nat → Nat) (c : Ctx) : Except (BitVec 8) Group :=
  .ok (writeUni c.g c.d c.ty (op (tyBits c.ty) (readUni c c.a c.ty) (readUniN32 c c.b)))

/-- R162: a compare writes q and q XOR 1 of the group. -/
def uniCompare (cond : Cond) (active : Bool) (c : Ctx) : Group :=
  let (cmb, q) := cmpFields c
  let x := intVal c.ty (readUni c c.a c.ty)
  let y := intVal c.ty (readUni c c.b c.ty)
  writeUniPair c.g q (pairOther q) cmb active (condHolds cond (some (compare x y)))

/-- R163: the predicate that selects. -/
def uniSelector (c : Ctx) : Bool :=
  let e := extOf c.i
  !e.ge || (uniPred c.g e.gp.toNat != e.gn)

/-- R161: a + b. -/
def execUadd (d : BitVec 7) (a : BitVec 8) (b : BitVec 8) (m : Mods) (s : State) : Out :=
  execUni (.uadd d a b m) (uniIntBin opAdd) s

/-- R161: a - b. -/
def execUsub (d : BitVec 7) (a : BitVec 8) (b : BitVec 8) (m : Mods) (s : State) : Out :=
  execUni (.usub d a b m) (uniIntBin opSub) s

/-- R161: the low half of a × b. -/
def execUmul (d : BitVec 7) (a : BitVec 8) (b : BitVec 8) (m : Mods) (s : State) : Out :=
  execUni (.umul d a b m) (uniIntBin opMul) s

/-- R161: a AND b. -/
def execUand (d : BitVec 7) (a : BitVec 8) (b : BitVec 8) (m : Mods) (s : State) : Out :=
  execUni (.uand d a b m) (uniBits opAnd) s

/-- R161: a OR b. -/
def execUor (d : BitVec 7) (a : BitVec 8) (b : BitVec 8) (m : Mods) (s : State) : Out :=
  execUni (.uor d a b m) (uniBits opOr) s

/-- R161: a XOR b. -/
def execUxor (d : BitVec 7) (a : BitVec 8) (b : BitVec 8) (m : Mods) (s : State) : Out :=
  execUni (.uxor d a b m) (uniBits opXor) s

/-- R161, R142: shift left. -/
def execUshl (d : BitVec 7) (a : BitVec 8) (b : BitVec 8) (m : Mods) (s : State) : Out :=
  execUni (.ushl d a b m) (uniShift opShl) s

/-- R161: `SHR` for an unsigned type, `SAR` for a signed one. -/
def execUshr (d : BitVec 7) (a : BitVec 8) (b : BitVec 8) (m : Mods) (s : State) : Out :=
  let i := (.ushr d a b m)
  execUni i (uniShift (if tySigned (typeOf i) then opSar else opShr)) s

/-- R161: a. -/
def execUmov (d : BitVec 7) (a : BitVec 8) (m : Mods) (s : State) : Out :=
  execUni (.umov d a m) (fun c => .ok (writeUni c.g c.d c.ty (readUni c c.a c.ty))) s

/-- R161, R54: the immediate. -/
def execUmovi (d : BitVec 7) (i : BitVec 16) (m : Mods) (s : State) : Out :=
  execUni (.umovi d i m) (fun c => .ok (writeUni c.g c.d c.ty (immediate c.i i))) s

/-- R162: compare, condition `.eq`. -/
def execUcmpEq (c : BitVec 3) (q : BitVec 4) (a : BitVec 8) (b : BitVec 8) (m : Mods) (s : State) : Out :=
  execUniWith (.ucmpEq c q a b m) (fun x => .ok (uniCompare .eq true x)) (uniCompare .eq false) s

/-- R162: compare, condition `.ne`. -/
def execUcmpNe (c : BitVec 3) (q : BitVec 4) (a : BitVec 8) (b : BitVec 8) (m : Mods) (s : State) : Out :=
  execUniWith (.ucmpNe c q a b m) (fun x => .ok (uniCompare .ne true x)) (uniCompare .ne false) s

/-- R162: compare, condition `.lt`. -/
def execUcmpLt (c : BitVec 3) (q : BitVec 4) (a : BitVec 8) (b : BitVec 8) (m : Mods) (s : State) : Out :=
  execUniWith (.ucmpLt c q a b m) (fun x => .ok (uniCompare .lt true x)) (uniCompare .lt false) s

/-- R162: compare, condition `.le`. -/
def execUcmpLe (c : BitVec 3) (q : BitVec 4) (a : BitVec 8) (b : BitVec 8) (m : Mods) (s : State) : Out :=
  execUniWith (.ucmpLe c q a b m) (fun x => .ok (uniCompare .le true x)) (uniCompare .le false) s

/-- R162: compare, condition `.gt`. -/
def execUcmpGt (c : BitVec 3) (q : BitVec 4) (a : BitVec 8) (b : BitVec 8) (m : Mods) (s : State) : Out :=
  execUniWith (.ucmpGt c q a b m) (fun x => .ok (uniCompare .gt true x)) (uniCompare .gt false) s

/-- R162: compare, condition `.ge`. -/
def execUcmpGe (c : BitVec 3) (q : BitVec 4) (a : BitVec 8) (b : BitVec 8) (m : Mods) (s : State) : Out :=
  execUniWith (.ucmpGe c q a b m) (fun x => .ok (uniCompare .ge true x)) (uniCompare .ge false) s

/-- R163: a where the selecting predicate holds, b elsewhere. -/
def execUsel (d : BitVec 7) (a : BitVec 8) (b : BitVec 8) (m : Mods) (s : State) : Out :=
  execUni (.usel d a b m)
    (fun c => .ok (writeUni c.g c.d c.ty (readUni c (if uniSelector c then c.a else c.b) c.ty))) s

end Sys2Proof.Machine
end

