-- ==== Sys2Proof/Machine/Dispatch.lean ====
section
/-!
DEFINITION. One arm for each constructor of `Instr`: the meaning of each row of the opcode table.
-/
namespace Sys2Proof.Machine

def exec (i : Instr) (s : State) : Host.Outcome State Fault Refusal :=
  match i with
  | .br t => Sys2Proof.Machine.execBr t s
  | .brc p a b => Sys2Proof.Machine.execBrc p a b s
  | .brx a => Sys2Proof.Machine.execBrx a s
  | .brl d a b => Sys2Proof.Machine.execBrl d a b s
  | .exit => Sys2Proof.Machine.execExit s
  | .gend => Sys2Proof.Machine.execGend s
  | .yield m => Sys2Proof.Machine.execYield m s
  | .nop m => Sys2Proof.Machine.execNop m s
  | .win imm m => Sys2Proof.Machine.execWin imm m s
  | .winOperand a m => Sys2Proof.Machine.execWinOperand a m s
  | .uwin imm m => Sys2Proof.Machine.execUwin imm m s
  | .uwinOperand a m => Sys2Proof.Machine.execUwinOperand a m s
  | .brk c m => Sys2Proof.Machine.execBrk c m s
  | .trap c m => Sys2Proof.Machine.execTrap c m s
  | .launch d a b m => Sys2Proof.Machine.execLaunch d a b m s
  | .ill pre imm => Sys2Proof.Machine.execIll pre imm s
  | .illFf pre imm => Sys2Proof.Machine.execIllFf pre imm s
  | .unassignedOpcode pre w => Sys2Proof.Machine.execUnassignedOpcode pre w s
  | .str b l => Sys2Proof.Machine.execStr b l s
  | .add d a b m => Sys2Proof.Machine.execAdd d a b m s
  | .sub d a b m => Sys2Proof.Machine.execSub d a b m s
  | .mul d a b m => Sys2Proof.Machine.execMul d a b m s
  | .mulh d a b m => Sys2Proof.Machine.execMulh d a b m s
  | .mad d a b m => Sys2Proof.Machine.execMad d a b m s
  | .min d a b m => Sys2Proof.Machine.execMin d a b m s
  | .max d a b m => Sys2Proof.Machine.execMax d a b m s
  | .abs d a m => Sys2Proof.Machine.execAbs d a m s
  | .neg d a m => Sys2Proof.Machine.execNeg d a m s
  | .and d a b m => Sys2Proof.Machine.execAnd d a b m s
  | .or d a b m => Sys2Proof.Machine.execOr d a b m s
  | .xor d a b m => Sys2Proof.Machine.execXor d a b m s
  | .andn d a b m => Sys2Proof.Machine.execAndn d a b m s
  | .not d a m => Sys2Proof.Machine.execNot d a m s
  | .shl d a b m => Sys2Proof.Machine.execShl d a b m s
  | .shr d a b m => Sys2Proof.Machine.execShr d a b m s
  | .sar d a b m => Sys2Proof.Machine.execSar d a b m s
  | .rot d a b m => Sys2Proof.Machine.execRot d a b m s
  | .clz d a m => Sys2Proof.Machine.execClz d a m s
  | .popc d a m => Sys2Proof.Machine.execPopc d a m s
  | .brev d a m => Sys2Proof.Machine.execBrev d a m s
  | .addw d a b m => Sys2Proof.Machine.execAddw d a b m s
  | .subw d a b m => Sys2Proof.Machine.execSubw d a b m s
  | .mov d a m => Sys2Proof.Machine.execMov d a m s
  | .movi d imm m => Sys2Proof.Machine.execMovi d imm m s
  | .sel d a b m => Sys2Proof.Machine.execSel d a b m s
  | .icmpEq c q a b m => Sys2Proof.Machine.execIcmpEq c q a b m s
  | .icmpNe c q a b m => Sys2Proof.Machine.execIcmpNe c q a b m s
  | .icmpLt c q a b m => Sys2Proof.Machine.execIcmpLt c q a b m s
  | .icmpLe c q a b m => Sys2Proof.Machine.execIcmpLe c q a b m s
  | .icmpGt c q a b m => Sys2Proof.Machine.execIcmpGt c q a b m s
  | .icmpGe c q a b m => Sys2Proof.Machine.execIcmpGe c q a b m s
  | .rget d a m => Sys2Proof.Machine.execRget d a m s
  | .rput a b m => Sys2Proof.Machine.execRput a b m s
  | .shfl d a b m => Sys2Proof.Machine.execShfl d a b m s
  | .shflx d a b m => Sys2Proof.Machine.execShflx d a b m s
  | .shfld d a b m => Sys2Proof.Machine.execShfld d a b m s
  | .shfln d a b m => Sys2Proof.Machine.execShfln d a b m s
  | .vote d a m => Sys2Proof.Machine.execVote d a m s
  | .redadd d a m => Sys2Proof.Machine.execRedadd d a m s
  | .redmin d a m => Sys2Proof.Machine.execRedmin d a m s
  | .redmax d a m => Sys2Proof.Machine.execRedmax d a m s
  | .scanadd d a m => Sys2Proof.Machine.execScanadd d a m s
  | .rdlane d a b m => Sys2Proof.Machine.execRdlane d a b m s
  | .sample d a b m => Sys2Proof.Machine.execSample d a b m s
  | .vconf d a m => Sys2Proof.Machine.execVconf d a m s
  | .segsum d a b m => Sys2Proof.Machine.execSegsum d a b m s
  | .fadd d a b m => Sys2Proof.Machine.execFadd d a b m s
  | .fsub d a b m => Sys2Proof.Machine.execFsub d a b m s
  | .fmul d a b m => Sys2Proof.Machine.execFmul d a b m s
  | .ffma d a b m => Sys2Proof.Machine.execFfma d a b m s
  | .fmin d a b m => Sys2Proof.Machine.execFmin d a b m s
  | .fmax d a b m => Sys2Proof.Machine.execFmax d a b m s
  | .fabs d a m => Sys2Proof.Machine.execFabs d a m s
  | .fneg d a m => Sys2Proof.Machine.execFneg d a m s
  | .fcmpEq c q a b m => Sys2Proof.Machine.execFcmpEq c q a b m s
  | .fcmpNe c q a b m => Sys2Proof.Machine.execFcmpNe c q a b m s
  | .fcmpLt c q a b m => Sys2Proof.Machine.execFcmpLt c q a b m s
  | .fcmpLe c q a b m => Sys2Proof.Machine.execFcmpLe c q a b m s
  | .fcmpGt c q a b m => Sys2Proof.Machine.execFcmpGt c q a b m s
  | .fcmpGe c q a b m => Sys2Proof.Machine.execFcmpGe c q a b m s
  | .frcp d a m => Sys2Proof.Machine.execFrcp d a m s
  | .frsq d a m => Sys2Proof.Machine.execFrsq d a m s
  | .fsqrt d a m => Sys2Proof.Machine.execFsqrt d a m s
  | .fexp2 d a m => Sys2Proof.Machine.execFexp2 d a m s
  | .flog2 d a m => Sys2Proof.Machine.execFlog2 d a m s
  | .fsin d a m => Sys2Proof.Machine.execFsin d a m s
  | .fcos d a m => Sys2Proof.Machine.execFcos d a m s
  | .ftanh d a m => Sys2Proof.Machine.execFtanh d a m s
  | .fcvt d a m => Sys2Proof.Machine.execFcvt d a m s
  | .hadd2 d a b m => Sys2Proof.Machine.execHadd2 d a b m s
  | .hmul2 d a b m => Sys2Proof.Machine.execHmul2 d a b m s
  | .hfma2 d a b m => Sys2Proof.Machine.execHfma2 d a b m s
  | .hcmp2Eq c q a b m => Sys2Proof.Machine.execHcmp2Eq c q a b m s
  | .hcmp2Ne c q a b m => Sys2Proof.Machine.execHcmp2Ne c q a b m s
  | .hcmp2Lt c q a b m => Sys2Proof.Machine.execHcmp2Lt c q a b m s
  | .hcmp2Le c q a b m => Sys2Proof.Machine.execHcmp2Le c q a b m s
  | .hcmp2Gt c q a b m => Sys2Proof.Machine.execHcmp2Gt c q a b m s
  | .hcmp2Ge c q a b m => Sys2Proof.Machine.execHcmp2Ge c q a b m s
  | .bmm8 d a b m => Sys2Proof.Machine.execBmm8 d a b m s
  | .bmmor d a b m => Sys2Proof.Machine.execBmmor d a b m s
  | .bsprd d a b m => Sys2Proof.Machine.execBsprd d a b m s
  | .bgath d a b m => Sys2Proof.Machine.execBgath d a b m s
  | .bperm d a t m => Sys2Proof.Machine.execBperm d a t m s
  | .bpld t a m => Sys2Proof.Machine.execBpld t a m s
  | .uadd d a b m => Sys2Proof.Machine.execUadd d a b m s
  | .usub d a b m => Sys2Proof.Machine.execUsub d a b m s
  | .umul d a b m => Sys2Proof.Machine.execUmul d a b m s
  | .uand d a b m => Sys2Proof.Machine.execUand d a b m s
  | .uor d a b m => Sys2Proof.Machine.execUor d a b m s
  | .uxor d a b m => Sys2Proof.Machine.execUxor d a b m s
  | .ushl d a b m => Sys2Proof.Machine.execUshl d a b m s
  | .ushr d a b m => Sys2Proof.Machine.execUshr d a b m s
  | .umov d a m => Sys2Proof.Machine.execUmov d a m s
  | .umovi d imm m => Sys2Proof.Machine.execUmovi d imm m s
  | .ucmpEq c q a b m => Sys2Proof.Machine.execUcmpEq c q a b m s
  | .ucmpNe c q a b m => Sys2Proof.Machine.execUcmpNe c q a b m s
  | .ucmpLt c q a b m => Sys2Proof.Machine.execUcmpLt c q a b m s
  | .ucmpLe c q a b m => Sys2Proof.Machine.execUcmpLe c q a b m s
  | .ucmpGt c q a b m => Sys2Proof.Machine.execUcmpGt c q a b m s
  | .ucmpGe c q a b m => Sys2Proof.Machine.execUcmpGe c q a b m s
  | .usel d a b m => Sys2Proof.Machine.execUsel d a b m s
  | .uld d a b m => Sys2Proof.Machine.execUld d a b m s
  | .ust d a b m => Sys2Proof.Machine.execUst d a b m s
  | .ld d a b m => Sys2Proof.Machine.execLd d a b m s
  | .st d a b m => Sys2Proof.Machine.execSt d a b m s
  | .ldt d a b m => Sys2Proof.Machine.execLdt d a b m s
  | .stt d a b m => Sys2Proof.Machine.execStt d a b m s
  | .lds d a b m => Sys2Proof.Machine.execLds d a b m s
  | .sts d a b m => Sys2Proof.Machine.execSts d a b m s
  | .ldc d a b m => Sys2Proof.Machine.execLdc d a b m s
  | .stc d a b m => Sys2Proof.Machine.execStc d a b m s
  | .cpy d a b m => Sys2Proof.Machine.execCpy d a b m s
  | .cpys d a b m => Sys2Proof.Machine.execCpys d a b m s
  | .batch d m => Sys2Proof.Machine.execBatch d m s
  | .waitb a m => Sys2Proof.Machine.execWaitb a m s
  | .pref d a b m => Sys2Proof.Machine.execPref d a b m s
  | .fence m => Sys2Proof.Machine.execFence m s
  | .atom d a b m => Sys2Proof.Machine.execAtom d a b m s
  | .uatom d a b m => Sys2Proof.Machine.execUatom d a b m s
  | .wlpush d a b m => Sys2Proof.Machine.execWlpush d a b m s
  | .wlpop d a b m => Sys2Proof.Machine.execWlpop d a b m s
  | .wlins d a b m => Sys2Proof.Machine.execWlins d a b m s
  | .wlbind d a b m => Sys2Proof.Machine.execWlbind d a b m s
  | .wlcnt d a m => Sys2Proof.Machine.execWlcnt d a m s
  | .bara n a m => Sys2Proof.Machine.execBara n a m s
  | .barw n a m => Sys2Proof.Machine.execBarw n a m s
  | .baraw n a m => Sys2Proof.Machine.execBaraw n a m s
  | .gath d a b m => Sys2Proof.Machine.execGath d a b m s
  | .scat d a b m => Sys2Proof.Machine.execScat d a b m s
  | .scatadd d a b m => Sys2Proof.Machine.execScatadd d a b m s
  | .lgath d a b m => Sys2Proof.Machine.execLgath d a b m s
  | .lscat d a b m => Sys2Proof.Machine.execLscat d a b m s
  | .setshape k z a b m => Sys2Proof.Machine.execSetshape k z a b m s
  | .getshape d z sel m => Sys2Proof.Machine.execGetshape d z sel m s
  | .mma z t a b m => Sys2Proof.Machine.execMma z t a b m s
  | .mmas z t a b m => Sys2Proof.Machine.execMmas z t a b m s
  | .mmabx z t a b m => Sys2Proof.Machine.execMmabx z t a b m s
  | .scacc z t p m => Sys2Proof.Machine.execScacc z t p m s
  | .accz t m => Sys2Proof.Machine.execAccz t m s
  | .accld z t a f m => Sys2Proof.Machine.execAccld z t a f m s
  | .accst z t a f m => Sys2Proof.Machine.execAccst z t a f m s
  | .accrd d t z m => Sys2Proof.Machine.execAccrd d t z m s
  | .gload slot a b m => Sys2Proof.Machine.execGload slot a b m s
  | .gjob d a b m => Sys2Proof.Machine.execGjob d a b m s
  | .gstat d b m => Sys2Proof.Machine.execGstat d b m s
  | .lattach d a b m => Sys2Proof.Machine.execLattach d a b m s
  | .lfree b m => Sys2Proof.Machine.execLfree b m s
  | .gfold d b m => Sys2Proof.Machine.execGfold d b m s
  | .sysrd d a m => Sys2Proof.Machine.execSysrd d a m s
  | .syswr a b m => Sys2Proof.Machine.execSyswr a b m s
  | .rtrap f a m => Sys2Proof.Machine.execRtrap f a m s
  | .rflt m => Sys2Proof.Machine.execRflt m s
  | .mapf d a b m => Sys2Proof.Machine.execMapf d a b m s
  | .tlbinv f a m => Sys2Proof.Machine.execTlbinv f a m s
  | .ctxsv d a b m => Sys2Proof.Machine.execCtxsv d a b m s
  | .ctxld a b m => Sys2Proof.Machine.execCtxld a b m s
  | .park c m => Sys2Proof.Machine.execPark c m s
  | .laneReplay g => Sys2Proof.Machine.execLaneReplay g s
  | .entryBind part res entry => Sys2Proof.Machine.execEntryBind part res entry s
  | .gateInstall part handle gate => Sys2Proof.Machine.execGateInstall part handle gate s
  | .launchDequeue launch => Sys2Proof.Machine.execLaunchDequeue launch s
  | .signalWordRead launch => Sys2Proof.Machine.execSignalWordRead launch s
  | .waitPollTimer launch => Sys2Proof.Machine.execWaitPollTimer launch s
  | .clusterSetPlace launch cluster cores => Sys2Proof.Machine.execClusterSetPlace launch cluster cores s
  | .preemptTimeout g => Sys2Proof.Machine.execPreemptTimeout g s
  | .chairGroupStart chair core => Sys2Proof.Machine.execChairGroupStart chair core s
  | .chairTimerExpiry chair => Sys2Proof.Machine.execChairTimerExpiry chair s
  | .completionAdd launch => Sys2Proof.Machine.execCompletionAdd launch s
  | .engineRun turn => Sys2Proof.Machine.execEngineRun turn s
  | .copyTransfer item => Sys2Proof.Machine.execCopyTransfer item s
  | .listTransfer item => Sys2Proof.Machine.execListTransfer item s
  | .batchComplete owner batch => Sys2Proof.Machine.execBatchComplete owner batch s
  | .gatherPartServe req home => Sys2Proof.Machine.execGatherPartServe req home s
  | .homeSliceAtomic req => Sys2Proof.Machine.execHomeSliceAtomic req s
  | .channelRequest req lane => Sys2Proof.Machine.execChannelRequest req lane s
  | .writeStreamGraph req lane => Sys2Proof.Machine.execWriteStreamGraph req lane s
  | .jobRowStep item channel => Sys2Proof.Machine.execJobRowStep item channel s
  | .jobSuspend item channel => Sys2Proof.Machine.execJobSuspend item channel s
  | .jobResume item channel => Sys2Proof.Machine.execJobResume item channel s
  | .gloadCommit item => Sys2Proof.Machine.execGloadCommit item s
  | .lattachFreeze item => Sys2Proof.Machine.execLattachFreeze item s
  | .lfreeRelease item => Sys2Proof.Machine.execLfreeRelease item s
  | .channelFailed channel => Sys2Proof.Machine.execChannelFailed channel s
  | .criticalTemperature stack => Sys2Proof.Machine.execCriticalTemperature stack s
  | .selfRefreshExit stack => Sys2Proof.Machine.execSelfRefreshExit stack s
  | .refreshTakeover stack => Sys2Proof.Machine.execRefreshTakeover stack s
  | .onchipUncorrectable part what => Sys2Proof.Machine.execOnchipUncorrectable part what s
  | .energySample pkg r w => Sys2Proof.Machine.execEnergySample pkg r w s
  | .clockStepDown watts => Sys2Proof.Machine.execClockStepDown watts s
  | .clockStepUp watts => Sys2Proof.Machine.execClockStepUp watts s
  | .rateInject req => Sys2Proof.Machine.execRateInject req s
  | .peerRequest part va op => Sys2Proof.Machine.execPeerRequest part va op s
  | .apertureRead fn off len => Sys2Proof.Machine.execApertureRead fn off len s
  | .apertureWrite fn off bytes => Sys2Proof.Machine.execApertureWrite fn off bytes s
  | .bar0RegisterWrite fn off value => Sys2Proof.Machine.execBar0RegisterWrite fn off value s
  | .load h sigOk img plan => Sys2Proof.Machine.execLoad h sigOk img plan s
  | .unload h modId => Sys2Proof.Machine.execUnload h modId s
  | .moduleRetire part modId => Sys2Proof.Machine.execModuleRetire part modId s
  | .map h va pages w pin big frames => Sys2Proof.Machine.execMap h va pages w pin big frames s
  | .res h index entry => Sys2Proof.Machine.execRes h index entry s
  | .queueCreate h queue cls => Sys2Proof.Machine.execQueueCreate h queue cls s
  | .queueDestroy h queue cls => Sys2Proof.Machine.execQueueDestroy h queue cls s
  | .launchMessage h queue lrec => Sys2Proof.Machine.execLaunchMessage h queue lrec s
  | .signal h va value => Sys2Proof.Machine.execSignal h va value s
  | .release h lid code any => Sys2Proof.Machine.execRelease h lid code any s
  | .key h key => Sys2Proof.Machine.execKey h key s
  | .create h sigOk body img plan => Sys2Proof.Machine.execCreate h sigOk body img plan s
  | .resize h part clusters slices groups lines => Sys2Proof.Machine.execResize h part clusters slices groups lines s
  | .sliceLineMove part va => Sys2Proof.Machine.execSliceLineMove part va s
  | .pageRestripe part va => Sys2Proof.Machine.execPageRestripe part va s
  | .destroy h part => Sys2Proof.Machine.execDestroy h part s
  | .ratio h channels code => Sys2Proof.Machine.execRatio h channels code s
  | .ratioQuiesceEnd channel => Sys2Proof.Machine.execRatioQuiesceEnd channel s
  | .rate h part limit => Sys2Proof.Machine.execRate h part limit s
  | .peer h part base size device peerPart => Sys2Proof.Machine.execPeer h part base size device peerPart s
  | .power h watts => Sys2Proof.Machine.execPower h watts s
  | .svn h value => Sys2Proof.Machine.execSvn h value s
  | .mreset h stack => Sys2Proof.Machine.execMreset h stack s
  | .measurements fn => Sys2Proof.Machine.execMeasurements fn s
  | .deviceReset image => Sys2Proof.Machine.execDeviceReset image s
  | .bootRetry image => Sys2Proof.Machine.execBootRetry image s
  | .accessPerformed req lane => Sys2Proof.Machine.execAccessPerformed req lane s
  | .unlistedMessageType h ty => Sys2Proof.Machine.execUnlistedMessageType h ty s
  | .spdmSession fn => Sys2Proof.Machine.execSpdmSession fn s
  | .matchingPeerMessage part base => Sys2Proof.Machine.execMatchingPeerMessage part base s

end Sys2Proof.Machine
end

