-- ==== Sys2Proof/Machine/Step.lean ====
section
/-!
DEFINITION. One step of the machine: the next turn of the schedule (notes/assumptions/3), and the placement of an
instruction where the next step fetches it.
-/
namespace Sys2Proof.Machine

/-- What an issue comes to as a step. -/
def finishPlan (p : Plan) : Host.Outcome State Fault Refusal :=
  match p with
  | .idle => .fault .notEnabled
  | .done s => .next s
  | .run i s => match exec i s with
    | .next t => .next (countIssue i s t)
    | o => o
  | .broken => .fault .gateCodeBroken

/-- A turn of the schedule, in a state from which it has been taken. -/
def takeTurnOf (t : Turn) (s : State) : Host.Outcome State Fault Refusal :=
  match t with
  | .event i => exec i { s with cur := none }
  | .dramError part va parity => .next (markBad s part va parity)
  | .issue core seq wait defer => finishPlan (planIssue s core seq wait defer)

/-- One step: the next turn of the agenda; with an empty agenda the lowest sequencer that has a ready group issues, and a
cycle passes when none has. -/
def step (s : State) : Host.Outcome State Fault Refusal :=
  match s.agenda with
  | t :: rest => takeTurnOf t { s with agenda := rest }
  | [] => match defaultSequencer s with
    | some q => finishPlan (planIssue s (q / 4) (q % 4) 1 false)
    | none => .next { s with cycle := s.cycle + 1 }

/-! ### Placing an instruction -/

/-- A kernel of the greatest sizes with 63 blocks. -/
def fetchKernel : Kernel :=
  { modId := 0, gateTable := 0, codeBase := 0, entry := 0, nreg := 256, nureg := 384, nacc := 16, crew := 1, scratch := 0,
    canon := List.replicate 63 [] }

/-- A partition whose page table stands in frame sets 1 to 4 and maps its first page. -/
def fetchPartition : Partition :=
  { vf := 1, clusters := 1, slices := 1, groups := 1
    regs := { fltvec := 0, emuj := 0, elost := 0, mlost := 0, rtbase := 0, rtcnt := 0, hotbase := 0, ptbase := 1, fpool := 0,
              hbase := 0, vwbase := 0, fzbase := 0, svbase := 0, erbase := 0, mrbase := 0, fqbase := 0 }
    fqlost := 0, tails := [], queues := [], pool := [], kernels := [(1, fetchKernel)], modules := [], highest := [], slots := [],
    views := [], factors := [], tlb := [], stlb := [], bad := [], badParity := [], lost := [], aliased := [], owners := [],
    frozen := [], resident := [],
    buckets := [], rate := 0, peers := [], tenantKey := none, supKey := 0,
    turn := [], moving := [], restripe := [], newGroups := none, tokens := [], named := [], bound := [], given := [], peerData := [] }

/-- R342: the entries of the four tables for address 0, and code words in frame set 5. -/
def fetchMem (m : List Host.Cell) (code : List Word) : List Host.Cell :=
  let m1 := memWrite m (pteKey 0 1 1 0) 8 (pteOf 2 false false)
  let m2 := memWrite m1 (pteKey 0 2 2 0) 8 (pteOf 3 false false)
  let m3 := memWrite m2 (pteKey 0 3 3 0) 8 (pteOf 4 false false)
  let m4 := memWrite m3 (pteKey 0 4 4 0) 8 (pteOf 5 true false)
  memPut m4 (physKey 0 5 0) (bytesOfWords code)

/-- The gate walk that stands at an instruction: inside a run of block 0, or outside a run for `STR` and `GEND`. -/
def fetchRun (w : Word) : Run :=
  let at_ : Run := { kern := 1, mask := 1, base := 0, len := 7, pos := 1, strand := some { blk := 0, left := 5 }, offs := [], rpt := 0,
                     replay := none }
  match (decode [w]).result with
  | .ok (.str _ _) => { at_ with pos := 0, len := 1, strand := none }
  | .ok .gend => { at_ with pos := 0, len := 1, strand := none }
  | _ => at_

/-- A group of 32 lanes in block 0; each has executed its terminator when the instruction is `GEND`. -/
def fetchGroup (w : Word) : Group :=
  { uid := 0, part := 0, launch := 0, crew := 0, num := 0, cls := 3, kern := 1, nreg := 256, nacc := 16
    lanes := laneIxs.map fun _ => { laneInit 0 with nb := match (decode [w]).result with | .ok .gend => some 63 | _ => none }
    uregs := [], qpreds := 1, uwin := 0, waits := [], bclose := 0, batches := [], pend := [], njobs := 0, jobs := [], pms := [],
    shapes := [], rowm := [], colm := [], tiles := [], trapvec := 0, ctl := .run (fetchRun w), pass := none, wait := .none,
    preempt := false, ctxReq := none, lastIssue := none }

/-- The words of code with an instruction at the place that `fetchRun` names. -/
def fetchCode (w : Word) : List Word :=
  if (fetchRun w).pos = 0 then [w] else [0xFB000004, w, 0, 0, 0, 0, 0x06000000]

/-- The state with an instruction where the next step fetches it: partition 0 holds a loaded kernel, and the group in slot 0
of sequencer 0 of core 0 stands at the instruction, with the turn (notes/assumptions/2). -/
def State.withFetchWord (s : State) (nbits w : Nat) : State :=
  let word : Word := BitVec.ofNat 32 (w % 2 ^ nbits)
  { s with
    agenda := []
    parts := smPut s.parts 0 fetchPartition
    mem := fetchMem s.mem (fetchCode word)
    groups := smPut s.groups 0 (fetchGroup word)
    seqs := smSet Seq.zero s.seqs 0 { Seq.zero with slot := some 0 } }

end Sys2Proof.Machine
end

