-- ==== Sys2Proof/Safety.lean ====
section
/-!
DEFINITION. What counts as a safe step and a safe run, and the invariants that every step keeps: memory and scratch, and the
accumulator tiles, in their canonical form.
-/
namespace Sys2Proof

open Sys2Proof.Machine

/-- A step that answers a next state. -/
def StepsTo (s t : State) : Prop := step s = .next t

/-- A run of steps that all answer a next state. -/
inductive RunsTo : State → State → Prop where
  | done (s : State) : RunsTo s s
  | more {s t u : State} (h : StepsTo s t) (r : RunsTo t u) : RunsTo s u

/-- A state that the machine reaches from reset under a schedule. -/
def Reachable (s : State) : Prop := ∃ agenda, RunsTo { State.reset with agenda := agenda } s

/-- Memory, cluster scratch and the scratch of every crew are in canonical form: addresses strictly rising, no entry equal to
what an unlisted address reads as. -/
def MemCanonical (s : State) : Prop :=
  Memory.wf s.mem = true ∧ Memory.wf s.cscratch = true ∧ ∀ e ∈ s.crews, Memory.wf e.2.scratch = true

/-- The tiles of a group are in canonical form. -/
def Group.TilesCanonical (g : Group) : Prop := ∀ e ∈ g.tiles, smWf 0 e.2.elems = true

/-- The tiles of every group, standing in a slot or saved by a pre-emption, are in canonical form. -/
def TilesCanonical (s : State) : Prop :=
  (∀ e ∈ s.groups, Group.TilesCanonical e.2) ∧ ∀ c ∈ s.crews, ∀ g ∈ c.2.saved, Group.TilesCanonical g

end Sys2Proof
end

