-- ==== Sys2Proof/Certificates/Slice0/Obligations.lean ====
section
/-!
DEFINITION. The statements for the provers.
-/
/-! ### What an instruction's issue gives -/

namespace Sys2Proof.Claims

open Sys2Proof.Machine

/-- R93, R106: group `g` in slot `k` issues an instruction inside a strand run of its walk `r`, and no lane of a handler
pass of it holds a record that R337 has still to take. -/
def Issues (s : State) (k : Nat) (g : Group) (r : Run) : Prop := issuing s = some (k, g, r) ∧ passTrapped g = 0

/-- R93, R31, R119: after a switch point: the turn has ended and every latch of the group is stale, but that in a replay the
lanes that have still to join keep theirs. -/
def switchedTo (s : State) (k : Nat) (g : Group) : State :=
  putGroup (endTurn s k) k (mapLanes g fun _ ln => if inReplay g && ln.hold == .replay then ln else staleLane ln)

/-- R93, R196: after an instruction that traps: it is a switch point when its opcode is one. -/
def afterTrap (s : State) (k : Nat) (g : Group) (i : Instr) : State :=
  if isSwitchPoint i then switchedTo s k g else putGroup s k g

/-- R135: the executing set E of a lane instruction. -/
def setE (g : Group) (i : Instr) : Word := guardMask g (guardOf i) (selectedMask g)

/-- What lane `l` sees of the instruction. -/
def ctx (s : State) (k : Nat) (g : Group) (r : Run) (i : Instr) (l : Nat) : Ctx :=
  mkCtx s k g r i (selectedMask g) (setE g i) l

/-- A source operand at a type; none: it traps (R31, R32). -/
def val (c : Ctx) (code : Nat) (t : BitVec 5) : Option Nat := (readTy c code t).toOption

/-- R49, R80: a packed source operand: both halves. -/
def packed (c : Ctx) (code : Nat) : Option Nat := (readPacked c code c.ty).toOption

/-- R70, R139: a source operand as an exact integer, signed or plain binary as its type says. -/
def intOf (c : Ctx) (code : Nat) : Option Int := (val c code c.ty).map (intVal c.ty)

/-- R64: a source operand as an exact value. -/
def fltOf (c : Ctx) (code : Nat) : Option FVal := (val c code c.ty).map (fval (formatOf c.ty))

/-- R71: an exact integer as a w-bit pattern: clamped to the type with `.sat`, else reduced modulo 2^w. -/
def fitted (t : BitVec 5) (sat : Bool) (x : Int) : Nat :=
  if sat then (max (intMin t) (min (intMax t) x) % 2 ^ tyBits t).toNat else (x % 2 ^ tyBits t).toNat

/-- R31: the latches of a lane move up one place and `v` enters `b0`; none: a stale value. -/
def latched (ln : Lane) (v : Latch) : Lane := { ln with lat0 := v, lat1 := ln.lat0, lat2 := ln.lat1, lat3 := ln.lat2 }

/-- R46: the registers of a lane with a result of type `rt` in register `n`, and in `n + 1` as well at 64 bits. -/
def regsWith (rs : SMap Word) (n : Nat) (rt : BitVec 5) (v : Nat) : SMap Word :=
  let low := smSet 0 rs n ((widen rt v).setWidth 32)
  if tyBits rt = 64 then smSet 0 low (n + 1) ((widen rt v).extractLsb' 32 32) else low

/-- R31, R42, R46, R47: a lane that takes a result of type `rt`: in the register of its window slot, or nowhere with `NW`,
and in latch `b0`. -/
def written (c : Ctx) (rt : BitVec 5) (v : Nat) : Lane :=
  latched { c.ln with regs := if 0x80 ≤ c.d then c.ln.regs else regsWith c.ln.regs (c.ln.win.toNat + c.d) rt v }
    (some (BitVec.ofNat 64 (v % 2 ^ tyBits rt)))

/-- The state after an instruction that changes the lanes of E by `f`, the selected lanes outside E by `idle` and no other
lane, moved past the instruction or to its next repeat (R52). -/
def afterLanes (s : State) (k : Nat) (g : Group) (r : Run) (i : Instr) (f idle : Ctx → Lane) : State :=
  putGroup s k (advance (mapLanes g fun l ln =>
    if (setE g i).getLsbD l then f (ctx s k g r i l)
    else if (selectedMask g).getLsbD l then idle (ctx s k g r i l) else ln) r i)

/-- Instruction `i` completes when the operands of every lane of E are readable (`ok`) and the registers that the lane
names are allocated (R32): it changes the lanes of E by `f` and the inactive ones by `idle`. -/
def LaneChange (i : Instr) (ok : Ctx → Bool) (f idle : Ctx → Lane) : Prop :=
  ∀ s k g r, Issues s k g r → legal i = true →
    (∀ l < 32, (setE g i).getLsbD l = true →
      namesInside (ctx s k g r i l) = true ∧ ok (ctx s k g r i l) = true) →
    exec i s = .next (afterLanes s k g r i f idle)

/-- Instruction `i` completes, and every lane of E takes `value` of its operands at type `rt`. -/
def LaneResult (i : Instr) (rt : BitVec 5) (value : Ctx → Option Nat) : Prop :=
  LaneChange i (fun c => destInside c c.d rt && (value c).isSome) (fun c => written c rt ((value c).getD 0)) fun c => c.ln

/-- R139: a result computed exactly from two integers and fitted to the type; `sat` says that `.sat` applies. -/
def ofInts (sat : Bool) (op : Ctx → Int → Int → Int) (c : Ctx) : Option Nat := do
  let a ← intOf c c.a
  let b ← intOf c c.b
  some (fitted c.ty (sat && (extOf c.i).sat) (op c a b))

/-- R139: the same from one integer. -/
def ofInt (op : Int → Int) (c : Ctx) : Option Nat := do
  let a ← intOf c c.a
  some (fitted c.ty (extOf c.i).sat (op a))

/-- R140, R171: the addend: the register that D names, or latch `b0` with `NW`. -/
def addend (c : Ctx) (w : Nat) : Option Nat := (readLane c (if 0x80 ≤ c.d then 0xC0 else c.d) w fun _ => 0).toOption

/-- R141: a result computed from the patterns of two operands. -/
def ofPatterns (op : Nat → Nat → Nat → Nat) (c : Ctx) : Option Nat := do
  let a ← val c c.a c.ty
  let b ← val c c.b c.ty
  some (op (tyBits c.ty) a b)

/-- R142: a result computed from a pattern and a shift amount read as `.n32`. -/
def ofShift (op : Nat → Nat → Nat → Nat) (c : Ctx) : Option Nat := do
  let a ← val c c.a c.ty
  let n ← val c c.b 6
  some (op (tyBits c.ty) a n)

/-- A result computed from the pattern of one operand. -/
def ofPattern (op : Nat → Nat → Nat) (c : Ctx) : Option Nat := do
  let a ← val c c.a c.ty
  some (op (tyBits c.ty) a)

/-- R142: a shifted right by n with copies of bit w - 1, for n below w. -/
def arithShift (w a n : Nat) : Nat := if a.testBit (w - 1) then a / 2 ^ n + (2 ^ w - 2 ^ (w - n)) else a / 2 ^ n

/-- R144: a result at twice the width, reduced modulo 2^(2w). -/
def atDouble (op : Int → Int → Int) (c : Ctx) : Option Nat := do
  let a ← intOf c c.a
  let b ← intOf c c.b
  some (op a b % 2 ^ (2 * tyBits c.ty)).toNat

/-- R147: the predicate that `SEL` selects by. -/
def selects (c : Ctx) : Bool :=
  match (modsOf c.i).ext with
  | some e => if e.ge then xor (lanePred c.ln e.gp.toNat) e.gn else true
  | none => true

/-- R149: the register number that A gives is one of the lane's, and even for a pair. -/
def numbered (c : Ctx) : Bool :=
  decide (readUniN32 c c.a < c.g.nreg) && (tyBits c.ty != 64 || readUniN32 c c.a % 2 == 0)

/-- R149: the value of a register by its number, a pair for 64 bits, the low bits of narrower types. -/
def regAt (ln : Lane) (n w : Nat) : Nat :=
  if w = 64 then (getReg ln n).toNat + 2 ^ 32 * (getReg ln (n + 1)).toNat else (getReg ln n).toNat % 2 ^ w

end Sys2Proof.Claims

open Sys2Proof Sys2Proof.Machine Sys2Proof.Claims

/-- R139, R140: `ADD`, `SUB`, `MUL`, `MULH`, `MAD`, `MIN`, `MAX`, `ABS` and `NEG` complete and write the exact result
fitted to the type; everything but the lanes of E and the place in the code stays. -/
def Obligations.IntegerArithmetic : Prop :=
  ∀ d a b m,
    LaneResult (.add d a b m) (typeOf (.add d a b m)) (ofInts true fun _ x y => x + y) ∧
    LaneResult (.sub d a b m) (typeOf (.sub d a b m)) (ofInts true fun _ x y => x - y) ∧
    LaneResult (.mul d a b m) (typeOf (.mul d a b m)) (ofInts true fun _ x y => x * y) ∧
    LaneResult (.mulh d a b m) (typeOf (.mulh d a b m)) (ofInts false fun c x y => x * y / 2 ^ tyBits c.ty) ∧
    LaneResult (.mad d a b m) (typeOf (.mad d a b m)) (fun c => do
      let x ← intOf c c.a
      let y ← intOf c c.b
      let z ← addend c (tyBits c.ty)
      some (fitted c.ty (extOf c.i).sat (x * y + intVal c.ty z))) ∧
    LaneResult (.min d a b m) (typeOf (.min d a b m)) (ofInts false fun _ x y => min x y) ∧
    LaneResult (.max d a b m) (typeOf (.max d a b m)) (ofInts false fun _ x y => max x y) ∧
    LaneResult (.abs d a m) (typeOf (.abs d a m)) (ofInt fun x => max x (-x)) ∧
    LaneResult (.neg d a m) (typeOf (.neg d a m)) (ofInt fun x => -x)

/-- R141 to R144: logic, shifts, bit counts and widening sums complete and write their results. -/
def Obligations.LogicAndShifts : Prop :=
  ∀ d a b m,
    LaneResult (.and d a b m) (typeOf (.and d a b m)) (ofPatterns fun _ x y => x &&& y) ∧
    LaneResult (.or d a b m) (typeOf (.or d a b m)) (ofPatterns fun _ x y => x ||| y) ∧
    LaneResult (.xor d a b m) (typeOf (.xor d a b m)) (ofPatterns fun _ x y => x ^^^ y) ∧
    LaneResult (.andn d a b m) (typeOf (.andn d a b m)) (ofPatterns fun w x y => x &&& (2 ^ w - 1 - y)) ∧
    LaneResult (.not d a m) (typeOf (.not d a m)) (ofPattern fun w x => 2 ^ w - 1 - x) ∧
    LaneResult (.shl d a b m) (typeOf (.shl d a b m)) (ofShift fun w x n => if w ≤ n then 0 else x * 2 ^ n % 2 ^ w) ∧
    LaneResult (.shr d a b m) (typeOf (.shr d a b m)) (ofShift fun w x n => if w ≤ n then 0 else x / 2 ^ n) ∧
    LaneResult (.sar d a b m) (typeOf (.sar d a b m)) (ofShift fun w x n => arithShift w x (min n (w - 1))) ∧
    LaneResult (.rot d a b m) (typeOf (.rot d a b m))
      (ofShift fun w x n => x * 2 ^ (n % w) % 2 ^ w + x / 2 ^ (w - n % w)) ∧
    LaneResult (.clz d a m) 6 (ofPattern fun w x => w - bitLen x) ∧
    LaneResult (.popc d a m) 6 (ofPattern fun w x => ((List.range w).filter fun j => x.testBit j).length) ∧
    LaneResult (.brev d a m) (typeOf (.brev d a m)) (ofPattern opBrev) ∧
    LaneResult (.addw d a b m) (doubleType (typeOf (.addw d a b m))) (atDouble fun x y => x + y) ∧
    LaneResult (.subw d a b m) (doubleType (typeOf (.subw d a b m))) (atDouble fun x y => x - y)

/-- R145 to R147, R149: `MOV`, `MOVI`, `SEL`, `RGET` and `RPUT` complete and move their value unchanged. -/
def Obligations.MovesAndSelection : Prop :=
  ∀ d a b imm m,
    LaneResult (.mov d a m) (typeOf (.mov d a m)) (fun c => val c c.a c.ty) ∧
    LaneResult (.movi d imm m) (typeOf (.movi d imm m)) (fun c => some (immediate c.i imm)) ∧
    LaneResult (.sel d a b m) (typeOf (.sel d a b m)) (fun c => val c (if selects c then c.a else c.b) c.ty) ∧
    LaneResult (.rget d a m) (typeOf (.rget d a m))
      (fun c => if numbered c then some (regAt c.ln (readUniN32 c c.a) (tyBits c.ty)) else none) ∧
    LaneChange (.rput a b m) (fun c => numbered c && (val c c.b c.ty).isSome)
      (fun c => latched { c.ln with regs := regsWith c.ln.regs (readUniN32 c c.a) c.ty ((val c c.b c.ty).getD 0) }
        (some (BitVec.ofNat 64 ((val c c.b c.ty).getD 0)))) (fun c => c.ln)

namespace Sys2Proof.Claims

open Sys2Proof.Machine

/-- R148: the table of combine types: the new values of q and q XOR 1 from the condition and their old values. -/
def combined (cmb : Nat) (c x y : Bool) : Bool × Bool :=
  match cmb with
  | 0 => (c, !c)
  | 1 => (c, !c)
  | 2 => (x && c, y && c)
  | 3 => (x || c, y || c)
  | 4 => (x && !c, y && !c)
  | 5 => (x || !c, y || !c)
  | 6 => (x && c, y || !c)
  | _ => (x || c, y && !c)

/-- R29, R148: a lane with the predicate pair q, q' written; both old values are read first, and p0 discards its write. -/
def pairSet (ln : Lane) (q q' cmb : Nat) (c : Bool) : Lane :=
  let v := combined cmb c (lanePred ln q) (lanePred ln q')
  { ln with preds := setPred (setPred ln.preds q v.1) q' v.2 }

/-- R148: an inactive lane: `.unc` clears the pair, every other type keeps it. -/
def pairIdle (ln : Lane) (q q' cmb : Nat) : Lane :=
  if cmb = 1 then { ln with preds := setPred (setPred ln.preds q false) q' false } else ln

/-- R43: q XOR 1. -/
def partner (q : Nat) : Nat := if q % 2 = 0 then q + 1 else q - 1

/-- R148: the combine type and the predicate of the D field, stepped by `REP`. -/
def cmbOf (c : Ctx) : Nat := c.d / 32
/-- R43, R148: the predicate that a compare names. -/
def predOf (c : Ctx) : Nat := c.d % 16

/-- A compare of two operands completes: the lanes of E take the pair and a stale value into `b0`, inactive lanes are
written by `.unc` alone. -/
def CompareResult (i : Instr) (holds : Ctx → Option Bool) : Prop :=
  LaneChange i (fun c => (holds c).isSome)
    (fun c => latched (pairSet c.ln (predOf c) (partner (predOf c)) (cmbOf c) ((holds c).getD false)) none)
    (fun c => pairIdle c.ln (predOf c) (partner (predOf c)) (cmbOf c))

/-- R148: a relation of two integers. -/
def onInts (rel : Int → Int → Bool) (c : Ctx) : Option Bool := do
  let a ← intOf c c.a
  let b ← intOf c c.b
  some (rel a b)

/-- R174: a relation of two floating-point operands, by their order; unordered: none. -/
def onFloats (rel : Option Ordering → Bool) (c : Ctx) : Option Bool := do
  let a ← fltOf c c.a
  let b ← fltOf c c.b
  some (rel (fCompare a b))

/-- R175: the relations of the two halves of two packed operands. -/
def onHalves (rel : Option Ordering → Bool) (c : Ctx) : Option (Bool × Bool) := do
  let a ← packed c c.a
  let b ← packed c c.b
  let f := formatOf c.ty
  some (rel (fCompare (fval f (a % 2 ^ 16)) (fval f (b % 2 ^ 16))),
        rel (fCompare (fval f (a / 2 ^ 16)) (fval f (b / 2 ^ 16))))

/-- R175: a packed compare writes the pair Q, Q + 1 from element 0 and the pair Q + 2, Q + 3 from element 1. -/
def PackedCompareResult (i : Instr) (rel : Option Ordering → Bool) : Prop :=
  LaneChange i (fun c => (onHalves rel c).isSome)
    (fun c =>
      let v := (onHalves rel c).getD (false, false)
      let q := predOf c
      latched (pairSet (pairSet c.ln q ((q + 1) % 16) (cmbOf c) v.1) ((q + 2) % 16) ((q + 3) % 16) (cmbOf c) v.2) none)
    (fun c =>
      let q := predOf c
      pairIdle (pairIdle c.ln q ((q + 1) % 16) (cmbOf c)) ((q + 2) % 16) ((q + 3) % 16) (cmbOf c))

end Sys2Proof.Claims

/-- R148: the six conditions of `ICMP` complete and write the pair of predicates by the table of combine types. -/
def Sys2Proof.Claims.IntegerCompares : Prop :=
  ∀ c q a b m,
    CompareResult (.icmpEq c q a b m) (onInts fun x y => decide (x = y)) ∧
    CompareResult (.icmpNe c q a b m) (onInts fun x y => decide (x ≠ y)) ∧
    CompareResult (.icmpLt c q a b m) (onInts fun x y => decide (x < y)) ∧
    CompareResult (.icmpLe c q a b m) (onInts fun x y => decide (x ≤ y)) ∧
    CompareResult (.icmpGt c q a b m) (onInts fun x y => decide (y < x)) ∧
    CompareResult (.icmpGe c q a b m) (onInts fun x y => decide (y ≤ x))

/-- R174: the six conditions of `FCMP` complete; an unordered pair meets `.ne` alone. -/
def Sys2Proof.Claims.FloatCompares : Prop :=
  ∀ c q a b m,
    CompareResult (.fcmpEq c q a b m) (onFloats fun o => o == some .eq) ∧
    CompareResult (.fcmpNe c q a b m) (onFloats fun o => o != some .eq) ∧
    CompareResult (.fcmpLt c q a b m) (onFloats fun o => o == some .lt) ∧
    CompareResult (.fcmpLe c q a b m) (onFloats fun o => o == some .lt || o == some .eq) ∧
    CompareResult (.fcmpGt c q a b m) (onFloats fun o => o == some .gt) ∧
    CompareResult (.fcmpGe c q a b m) (onFloats fun o => o == some .gt || o == some .eq)

/-- R175: the six conditions of `HCMP2` complete and write one pair for each half. -/
def Sys2Proof.Claims.PackedCompares : Prop :=
  ∀ c q a b m,
    PackedCompareResult (.hcmp2Eq c q a b m) (fun o => o == some .eq) ∧
    PackedCompareResult (.hcmp2Ne c q a b m) (fun o => o != some .eq) ∧
    PackedCompareResult (.hcmp2Lt c q a b m) (fun o => o == some .lt) ∧
    PackedCompareResult (.hcmp2Le c q a b m) (fun o => o == some .lt || o == some .eq) ∧
    PackedCompareResult (.hcmp2Gt c q a b m) (fun o => o == some .gt) ∧
    PackedCompareResult (.hcmp2Ge c q a b m) (fun o => o == some .gt || o == some .eq)

namespace Sys2Proof.Claims

open Sys2Proof.Machine

/-- R72: the rounding mode of an instruction. -/
def mode (c : Ctx) : Rounding := roundingOf (extOf c.i).rnd

/-- R72, R73: an exact value rounded once to a type in the mode of the instruction. -/
def rounded (c : Ctx) (t : BitVec 5) (x : FVal) : Nat := roundVal (formatOf t) (mode c) (extOf c.i).sat x

/-- R171: a result computed exactly from two values and rounded once. -/
def ofFloats (op : Rounding → FVal → FVal → FVal) (c : Ctx) : Option Nat := do
  let a ← fltOf c c.a
  let b ← fltOf c c.b
  some (rounded c c.ty (op (mode c) a b))

/-- R172: the lesser operand, or the greater, with -0 below +0; a NaN gives the canonical NaN. -/
def lesserOf (greater : Bool) (c : Ctx) : Option Nat := do
  let a ← val c c.a c.ty
  let b ← val c c.b c.ty
  let x := fval (formatOf c.ty) a
  let y := fval (formatOf c.ty) b
  some (if x = .nan ∨ y = .nan then (formatOf c.ty).nanCode
    else if fLeSigned x y then (if greater then b else a) else if greater then a else b)

/-- R176, R80: a result of two halves, each computed as at its type. -/
def ofHalves (op : Rounding → FVal → FVal → FVal) (c : Ctx) : Option Nat := do
  let a ← packed c c.a
  let b ← packed c c.b
  let f := formatOf c.ty
  some (rounded c c.ty (op (mode c) (fval f (a % 2 ^ 16)) (fval f (b % 2 ^ 16)))
    + 2 ^ 16 * rounded c c.ty (op (mode c) (fval f (a / 2 ^ 16)) (fval f (b / 2 ^ 16))))

/-- R171: a × b + d, rounded once. -/
def fused (m : Rounding) (a b d : FVal) : FVal := fAdd m (fMul a b) d

/-- R177: a special function of the operand at the type. -/
def ofSpecial (fn : BitVec 5 → Rounding → Bool → Nat → Nat) (c : Ctx) : Option Nat := do
  let a ← val c c.a c.ty
  some (fn c.ty (mode c) (extOf c.i).sat a)

/-- R180, R182: the source of `FCVT` as an exact value; a block word is a whole register. -/
def converted (c : Ctx) : Option FVal :=
  let t := sourceTypeOf c.i
  (readLane c c.a (if tyIsBlock t then 32 else tyBits t) (constAt t)).toOption.map (valueAt t)

/-- R188: a table's entry i. -/
def entryOfTable (pm : BitVec 384) (i : Nat) : Nat := (pm.extractLsb' (6 * i) 6).toNat

end Sys2Proof.Claims

/-- R171, R172, R173, R176: the floating-point and packed arithmetic instructions complete, exact and rounded once. -/
def Obligations.FloatArithmetic : Prop :=
  ∀ d a b m,
    LaneResult (.fadd d a b m) (typeOf (.fadd d a b m)) (ofFloats fun r x y => fAdd r x y) ∧
    LaneResult (.fsub d a b m) (typeOf (.fsub d a b m)) (ofFloats fun r x y => fAdd r x (fNegate y)) ∧
    LaneResult (.fmul d a b m) (typeOf (.fmul d a b m)) (ofFloats fun _ x y => fMul x y) ∧
    LaneResult (.ffma d a b m) (typeOf (.ffma d a b m)) (fun c => do
      let x ← fltOf c c.a
      let y ← fltOf c c.b
      let z ← addend c (tyBits c.ty)
      some (rounded c c.ty (fused (mode c) x y (fval (formatOf c.ty) z)))) ∧
    LaneResult (.fmin d a b m) (typeOf (.fmin d a b m)) (lesserOf false) ∧
    LaneResult (.fmax d a b m) (typeOf (.fmax d a b m)) (lesserOf true) ∧
    LaneResult (.fabs d a m) (typeOf (.fabs d a m)) (ofPattern fun w x => x % 2 ^ (w - 1)) ∧
    LaneResult (.fneg d a m) (typeOf (.fneg d a m)) (ofPattern fun w x => x ^^^ 2 ^ (w - 1)) ∧
    LaneResult (.hadd2 d a b m) 6 (ofHalves fun r x y => fAdd r x y) ∧
    LaneResult (.hmul2 d a b m) 6 (ofHalves fun _ x y => fMul x y) ∧
    LaneResult (.hfma2 d a b m) 6 (fun c => do
      let x ← packed c c.a
      let y ← packed c c.b
      let z ← addend c 32
      let f := formatOf c.ty
      let half := fun j => rounded c c.ty
        (fused (mode c) (fval f (x / 2 ^ (16 * j))) (fval f (y / 2 ^ (16 * j))) (fval f (z / 2 ^ (16 * j))))
      some (half 0 + 2 ^ 16 * half 1))

/-- R177 to R181: the special functions and `FCVT` between scalar types, or into a scalar type, complete; `.sat` has no effect
on a conversion into a wider integer type (R74). The result between two integer types of one width, and of a block value in an
integer type, is the model's choice (notes/assumptions/50). The value of `FRSQ`, `FEXP2`, `FLOG2`, `FSIN`, `FCOS` and `FTANH` within the bound of R179 is the model's free function
(notes/assumptions/12). -/
def Obligations.SpecialFunctionsComplete : Prop :=
  ∀ d a m,
    LaneResult (.frcp d a m) (typeOf (.frcp d a m)) (ofSpecial spRcp) ∧
    LaneResult (.frsq d a m) (typeOf (.frsq d a m)) (ofSpecial spRsq) ∧
    LaneResult (.fsqrt d a m) (typeOf (.fsqrt d a m)) (ofSpecial spSqrt) ∧
    LaneResult (.fexp2 d a m) (typeOf (.fexp2 d a m)) (ofSpecial spExp2) ∧
    LaneResult (.flog2 d a m) (typeOf (.flog2 d a m)) (ofSpecial spLog2) ∧
    LaneResult (.fsin d a m) (typeOf (.fsin d a m)) (ofSpecial spSin) ∧
    LaneResult (.fcos d a m) (typeOf (.fcos d a m)) (ofSpecial spCos) ∧
    LaneResult (.ftanh d a m) (typeOf (.ftanh d a m)) (ofSpecial spTanh) ∧
    (tyIsBlock (typeOf (.fcvt d a m)) = false →
      LaneResult (.fcvt d a m) (typeOf (.fcvt d a m))
        (fun c => (converted c).map (convertTo c.ty (mode c) ((extOf c.i).sat && !widensInt (sourceTypeOf c.i) c.ty))))

/-- R183 to R188: the bit-matrix, bit-field and permutation instructions of lanes complete with their results. -/
def Sys2Proof.Claims.BitInstructions : Prop :=
  ∀ d a b t m,
    LaneResult (.bmm8 d a b m) 8 (fun c => do
      let x ← val c c.a 8
      let y ← val c c.b 8
      some (bitProduct (fun p q => p ^^^ q) x y)) ∧
    LaneResult (.bmmor d a b m) 8 (fun c => do
      let x ← val c c.a 8
      let y ← val c c.b 8
      some (bitProduct (fun p q => p ||| q) x y)) ∧
    LaneResult (.bsprd d a b m) 6 (fun c => do
      let x ← val c c.a 6
      let y ← val c c.b 6
      some (bitSpread x y)) ∧
    LaneResult (.bgath d a b m) 6 (fun c => do
      let x ← val c c.a 6
      let y ← val c c.b 6
      some (bitGather x y)) ∧
    LaneResult (.bperm d a t m) 8 (fun c => do
      let x ← val c c.a 8
      some (bitPermute (smGet identityTable c.g.pms c.b) x))

/-- R184, R185, R188: bit by bit, the product of two bit matrices over GF(2) and over the Boolean semiring, the deposit and
the extraction of bits under a mask, with zeros above the bits extracted, and the permutation of 64 bits. -/
def Sys2Proof.Claims.BitResults : Prop :=
  (∀ a b i j : Nat, i < 8 → j < 8 →
    (bitProduct (fun p q => p ^^^ q) a b).testBit (8 * i + j)
      = (List.range 8).foldl (fun acc k => xor acc (a.testBit (8 * i + k) && b.testBit (8 * k + j))) false ∧
    (bitProduct (fun p q => p ||| q) a b).testBit (8 * i + j)
      = (List.range 8).any fun k => a.testBit (8 * i + k) && b.testBit (8 * k + j)) ∧
  (∀ a m j : Nat, j < 32 →
    (bitSpread a m).testBit j = (m.testBit j && a.testBit ((List.range j).filter fun x => m.testBit x).length) ∧
    (m.testBit j = true →
      (bitGather a m).testBit ((List.range j).filter fun x => m.testBit x).length = a.testBit j) ∧
    (((List.range 32).filter fun x => m.testBit x).length ≤ j → (bitGather a m).testBit j = false)) ∧
  (∀ (pm : BitVec 384) (a i : Nat), i < 64 → (bitPermute pm a).testBit i = a.testBit (entryOfTable pm i))

namespace Sys2Proof.Claims

open Sys2Proof.Machine

/-- R151: what the lanes of E hold, in ascending lane order. -/
def heldBy {α : Type} (s : State) (k : Nat) (g : Group) (r : Run) (i : Instr) (read : Ctx → Option α) : List (Nat × α) :=
  (lanesOf (setE g i)).filterMap fun l => (read (ctx s k g r i l)).map fun v => (l, v)

/-- R151: a cross-lane instruction completes when every lane of E can read its own operands and write its destination, and
the operand that is read once (`lead`, in the lowest lane of E) can be read: every lane of E takes `result` of what the
lanes of E hold. -/
def CrossResult {α β : Type} (i : Instr) (rt : BitVec 5) (lead : Ctx → Option β) (read : Ctx → Option α)
    (result : Ctx → β → List (Nat × α) → α → Nat) : Prop :=
  ∀ s k g r, Issues s k g r → legal i = true →
    (∀ l < 32, (setE g i).getLsbD l = true →
      destInside (ctx s k g r i l) (ctx s k g r i l).d rt = true ∧ (read (ctx s k g r i l)).isSome = true) →
    ∀ v, (setE g i ≠ 0 → lead (ctx s k g r i (lowestLane (setE g i))) = some v) →
    exec i s = .next (if setE g i = 0 then putGroup s k (advance g r i)
      else afterLanes s k g r i
        (fun c => match read c with
          | some own => written c rt (result c v (heldBy s k g r i read) own)
          | none => c.ln) (fun c => c.ln))

/-- No operand is read once. -/
def noOperand (_ : Ctx) : Option Unit := some ()

/-- The values in ascending lane order, of the lanes up to and including `l`. -/
def upTo (l : Nat) (xs : List (Nat × Nat)) : List Nat := (xs.filter fun x => x.1 ≤ l).map (·.2)

/-- R79: the fold by addition of an instruction. -/
def summed (c : Ctx) (xs : List Nat) : Nat := foldAdd c.ty (mode c) (extOf c.i).sat xs

/-- R152: the value of the lane that a shuffle names, or the own value where it names no lane of E. -/
def shuffled (src : Nat → Nat → Int) (c : Ctx) (xs : List (Nat × Nat × Nat)) (own : Nat × Nat) : Nat :=
  match xs.find? fun x => (x.1 : Int) == src c.l own.2 with
  | some x => x.2.1
  | none => own.1

/-- R152: a shuffle reads its own selector as `.n32` and its own value at the type. -/
def valueAndN32 (c : Ctx) : Option (Nat × Nat) := do
  let t ← val c c.b 6
  let x ← val c c.a c.ty
  some (x, t)

/-- R151: A at the type. -/
def valueA (c : Ctx) : Option Nat := val c c.a c.ty

end Sys2Proof.Claims

/-- R151 to R153, R156, R158: shuffles, votes, `RDLANE` and `VCONF` complete; every lane of E takes the result computed
from the lanes of E alone. -/
def Sys2Proof.Claims.CrossLaneMoves : Prop :=
  ∀ d a b m,
    CrossResult (.shfl d a b m) (typeOf (.shfl d a b m)) noOperand valueAndN32
      (fun c _ xs own => shuffled (fun _ t => t) c xs own) ∧
    CrossResult (.shflx d a b m) (typeOf (.shflx d a b m)) noOperand valueAndN32
      (fun c _ xs own => shuffled (fun l t => (l ^^^ t : Nat)) c xs own) ∧
    CrossResult (.shfld d a b m) (typeOf (.shfld d a b m)) noOperand valueAndN32
      (fun c _ xs own => shuffled (fun l t => l + t) c xs own) ∧
    CrossResult (.shfln d a b m) (typeOf (.shfln d a b m)) noOperand valueAndN32
      (fun c _ xs own => shuffled (fun l t => (l : Int) - t) c xs own) ∧
    CrossResult (.vote d a m) 6 noOperand valueA (fun c _ xs _ =>
      match (extOf c.i).md.toNat with
      | 0 => if xs.any fun x => x.2 ≠ 0 then 1 else 0
      | 1 => if xs.all fun x => x.2 ≠ 0 then 1 else 0
      | _ => (maskOf fun l => xs.any fun x => x.1 == l && decide (x.2 ≠ 0)).toNat) ∧
    CrossResult (.rdlane d a b m) (typeOf (.rdlane d a b m))
      (fun c => (val c c.b 6).bind fun j => if j < 32 then some j else none) valueA
      (fun _ j xs own => match xs.find? fun x => x.1 == j with | some x => x.2 | none => own) ∧
    CrossResult (.vconf d a m) 6 noOperand valueA (fun c _ xs own =>
      (maskOf fun j => if j = c.l then xs.all fun x => decide (x.1 ≤ c.l) || decide (x.2 ≠ own)
        else decide (j < c.l) && xs.any fun x => x.1 == j && x.2 == own).toNat)

/-- R154, R155, R157, R159, R182: folds, prefixes, `SAMPLE`, `SEGSUM` and `FCVT` into a block format complete. That `.sat`
reaches the first element of a fold is the model's choice (notes/assumptions/50). -/
def Sys2Proof.Claims.CrossLaneFolds : Prop :=
  ∀ d a b m,
    CrossResult (.redadd d a m) (typeOf (.redadd d a m)) noOperand valueA (fun c _ xs _ => summed c (xs.map (·.2))) ∧
    CrossResult (.redmin d a m) (typeOf (.redmin d a m)) noOperand valueA
      (fun c _ xs _ => foldMin c.ty false (xs.map (·.2))) ∧
    CrossResult (.redmax d a m) (typeOf (.redmax d a m)) noOperand valueA
      (fun c _ xs _ => foldMin c.ty true (xs.map (·.2))) ∧
    CrossResult (.scanadd d a m) (typeOf (.scanadd d a m)) noOperand valueA (fun c _ xs _ => summed c (upTo c.l xs)) ∧
    CrossResult (.sample d a b m) 6 (fun c => val c c.b c.ty) valueA
      (fun c u xs _ => samplePick c.ty (mode c) u xs) ∧
    CrossResult (.segsum d a b m) (typeOf (.segsum d a b m)) noOperand
      (fun c => do
        let x ← val c c.a c.ty
        let key ← val c c.b 6
        some (x, key))
      (fun c _ xs own => summed c ((xs.filter fun x => x.1 ≤ c.l && x.2.2 == own.2).map (·.2.1))) ∧
    (tyIsBlock (typeOf (.fcvt d a m)) = true →
      CrossResult (.fcvt d a m) 6 noOperand converted (fun c _ xs own => fcvtBlock c.ty (mode c) xs own))

namespace Sys2Proof.Claims

open Sys2Proof.Machine

/-- What the group sees of a uniform instruction. -/
def uctx (s : State) (k : Nat) (g : Group) (r : Run) (i : Instr) : Ctx :=
  mkCtx s k g r i (selectedMask g) (selectedMask g) (lowestLane (selectedMask g))

/-- R47, R135: a uniform instruction completes: when its strand selects a lane and its guard holds, the group changes by
`f`; when the guard fails, by `idle`; when no lane is selected, not at all. No lane changes. -/
def UniformChange (i : Instr) (ok : Ctx → Bool) (f idle : Ctx → Group) : Prop :=
  ∀ s k g r, Issues s k g r → legal i = true → ok (uctx s k g r i) = true →
    exec i s = .next (putGroup s k (advance
      (if selectedMask g = 0 then g else if uniGuard g (guardOf i) then f (uctx s k g r i) else idle (uctx s k g r i)) r i))

/-- R42, R46: a group that takes a result of type `rt` in the uniform slot that D names. -/
def uniWritten (c : Ctx) (rt : BitVec 5) (v : Nat) : Group :=
  { c.g with uregs := regsWith c.g.uregs (c.g.uwin.toNat + c.d) rt v }

/-- A uniform instruction completes and writes `value` of its operands. -/
def UniformResult (i : Instr) (value : Ctx → Nat) : Prop :=
  UniformChange i (fun _ => true) (fun c => uniWritten c c.ty (value c)) fun c => c.g

/-- R45, R161: an operand of the group at the instruction's type. -/
def uval (c : Ctx) (code : Nat) : Nat := readUni c code c.ty

/-- R161: an operand of the group as an exact integer. -/
def uint (c : Ctx) (code : Nat) : Int := intVal c.ty (uval c code)

/-- R162: a compare of the group writes the pair q, q XOR 1; `.unc` clears it when the guard fails. -/
def UniformCompare (i : Instr) (rel : Int → Int → Bool) : Prop :=
  UniformChange i (fun _ => true)
    (fun c =>
      let q := predOf c
      let v := combined (cmbOf c) (rel (uint c c.a) (uint c c.b)) (uniPred c.g q) (uniPred c.g (partner q))
      { c.g with qpreds := setPred (setPred c.g.qpreds q v.1) (partner q) v.2 })
    (fun c =>
      let q := predOf c
      if cmbOf c = 1 then { c.g with qpreds := setPred (setPred c.g.qpreds q false) (partner q) false } else c.g)

/-- R163: the predicate that `USEL` selects by. -/
def uselects (c : Ctx) : Bool :=
  match (modsOf c.i).ext with
  | some e => if e.ge then xor (uniPred c.g e.gp.toNat) e.gn else true
  | none => true

end Sys2Proof.Claims

/-- R160, R161, R163, R187: the uniform instructions other than compares and accesses complete, once for the group, and
touch no lane and no latch. -/
def Sys2Proof.Claims.UniformInstructions : Prop :=
  ∀ d a b imm t m,
    UniformResult (.uadd d a b m) (fun c => fitted c.ty (extOf c.i).sat (uint c c.a + uint c c.b)) ∧
    UniformResult (.usub d a b m) (fun c => fitted c.ty (extOf c.i).sat (uint c c.a - uint c c.b)) ∧
    UniformResult (.umul d a b m) (fun c => fitted c.ty (extOf c.i).sat (uint c c.a * uint c c.b)) ∧
    UniformResult (.uand d a b m) (fun c => uval c c.a &&& uval c c.b) ∧
    UniformResult (.uor d a b m) (fun c => uval c c.a ||| uval c c.b) ∧
    UniformResult (.uxor d a b m) (fun c => uval c c.a ^^^ uval c c.b) ∧
    UniformResult (.ushl d a b m) (fun c =>
      let n := readUni c c.b 6
      if tyBits c.ty ≤ n then 0 else uval c c.a * 2 ^ n % 2 ^ tyBits c.ty) ∧
    UniformResult (.ushr d a b m) (fun c =>
      let n := readUni c c.b 6
      if tySigned c.ty then arithShift (tyBits c.ty) (uval c c.a) (min n (tyBits c.ty - 1))
      else if tyBits c.ty ≤ n then 0 else uval c c.a / 2 ^ n) ∧
    UniformResult (.umov d a m) (fun c => uval c c.a) ∧
    UniformResult (.umovi d imm m) (fun c => immediate c.i imm) ∧
    UniformResult (.usel d a b m) (fun c => uval c (if uselects c then c.a else c.b)) ∧
    UniformChange (.bpld t a m) (fun _ => true)
      (fun c =>
        let slot := fun j => (getUreg c.g (c.g.uwin.toNat + (c.a - 0xD0) + j)).toNat
        let table := BitVec.ofNat 384 ((List.range 12).foldl (fun acc j => acc + 2 ^ (32 * j) * slot j) 0)
        { c.g with pms := smSet identityTable c.g.pms c.d table })
      (fun c => c.g)

/-- R162: the six conditions of `UCMP` complete and write a pair of uniform predicates. -/
def Sys2Proof.Claims.UniformCompares : Prop :=
  ∀ c q a b m,
    UniformCompare (.ucmpEq c q a b m) (fun x y => decide (x = y)) ∧
    UniformCompare (.ucmpNe c q a b m) (fun x y => decide (x ≠ y)) ∧
    UniformCompare (.ucmpLt c q a b m) (fun x y => decide (x < y)) ∧
    UniformCompare (.ucmpLe c q a b m) (fun x y => decide (x ≤ y)) ∧
    UniformCompare (.ucmpGt c q a b m) (fun x y => decide (y < x)) ∧
    UniformCompare (.ucmpGe c q a b m) (fun x y => decide (y ≤ x))

namespace Sys2Proof.Claims

open Sys2Proof.Machine

/-- R119, R121: after a terminator; in a replay it ends the replay. -/
def terminated (r : Run) (g : Group) : Group := if r.replay.isSome then endReplay g else g

/-- R121 to R126: a terminator completes when its targets are blocks of the kernel: the selected lanes change by `f`. -/
def Terminates (i : Instr) (targets : List (BitVec 6)) (ok : Nat → Ctx → Bool) (f : Ctx → Lane) : Prop :=
  ∀ s k g r, Issues s k g r → legal i = true → (∀ t ∈ targets, t.toNat < blockCount s g r) →
    (∀ l < 32, (selectedMask g).getLsbD l = true → ok (blockCount s g r) (ctx s k g r i l) = true) →
    exec i s = .next (putGroup s k (terminated r
      (advance (mapLanes g fun l ln => if (selectedMask g).getLsbD l then f (ctx s k g r i l) else ln) r i)))

/-- R121: a lane whose next block is set, with a stale value in `b0`. -/
def headed (ln : Lane) (b : BitVec 6) : Lane := latched { ln with nb := some b } none

end Sys2Proof.Claims

/-- R121 to R126: the terminators set the next block of the selected lanes: `BR` one block, `BRC` one of two by a predicate,
`BRX` the block that each lane's operand holds, `BRL` a block with the return block written to D, `EXIT` block 63. -/
def Sys2Proof.Claims.Terminators : Prop :=
  ∀ t p a b d x,
    Terminates (.br t) [t] (fun _ _ => true) (fun c => headed c.ln t) ∧
    Terminates (.brc p a b) [a, b] (fun _ _ => true) (fun c => headed c.ln (if lanePred c.ln p.toNat then a else b)) ∧
    Terminates (.brx x) [] (fun n c => match val c c.a 6 with | some j => decide (j = 63) || decide (j < n) | none => false)
      (fun c => headed c.ln (BitVec.ofNat 6 ((val c c.a 6).getD 0))) ∧
    Terminates (.brl d a b) [a, b] (fun _ c => destInside c c.d 6) (fun c => { written c 6 b.toNat with nb := some a }) ∧
    Terminates .exit [] (fun _ _ => true) (fun c => headed c.ln 63)

/-- R128 to R131: `NOP` and `YIELD` change nothing but `b0` of the lanes of E (`YIELD` ends the turn when a lane executes
it); `WIN` and `UWIN` move the windows to a base that is in range. -/
def Sys2Proof.Claims.WindowsAndHints : Prop :=
  ∀ imm uimm a m,
    LaneChange (.nop m) (fun _ => true) (fun c => latched c.ln none) (fun c => c.ln) ∧
    (∀ s k g r, Issues s k g r → legal (.yield m) = true →
      exec (.yield m) s = .next (afterLanes (if setE g (.yield m) = 0 then s else endTurn s k) k g r (.yield m)
        (fun c => latched c.ln none) (fun c => c.ln))) ∧
    LaneChange (.win imm m) (fun c => decide (imm.toNat % 32 = 0) && decide (imm.toNat < c.g.nreg))
      (fun c => latched { c.ln with win := BitVec.ofNat 8 imm.toNat } none) (fun c => c.ln) ∧
    LaneChange (.winOperand a m)
      (fun c => match val c c.b 6 with | some x => decide (x % 32 = 0) && decide (x < c.g.nreg) | none => false)
      (fun c => latched { c.ln with win := BitVec.ofNat 8 ((val c c.b 6).getD 0) } none) (fun c => c.ln) ∧
    UniformChange (.uwin uimm m) (fun _ => true) (fun c => { c.g with uwin := BitVec.ofNat 9 uimm.toNat }) (fun c => c.g) ∧
    UniformChange (.uwinOperand a m) (fun c => decide (readUni c c.b 6 % 48 = 0) && decide (readUni c c.b 6 ≤ 336))
      (fun c => { c.g with uwin := BitVec.ofNat 9 (readUni c c.b 6) }) (fun c => c.g)

/-- R118, R132, R236, R338: `BRK` and `TRAP` park the lanes of E outside a pass with their records: the cause, the code, the
position. -/
def Obligations.StopsParkTheirLanes : Prop :=
  ∀ code m s k g r, issuing s = some (k, g, r) → g.pass = none →
    (legal (.brk code m) = true → exec (.brk code m) s = .next (afterLanes s k g r (.brk code m)
      (fun c => { c.ln with hold := .pending (mkRec g r (encode (.brk code m)) c.l 0x05 code {}), off := BitVec.ofNat 16 (offOf r),
                            rpt := BitVec.ofNat 8 r.rpt }) (fun c => c.ln))) ∧
    (legal (.trap code m) = true → exec (.trap code m) s = .next (afterLanes s k g r (.trap code m)
      (fun c => { c.ln with hold := .pending (mkRec g r (encode (.trap code m)) c.l 0x06 code {}), off := BitVec.ofNat 16 (offOf r),
                            rpt := BitVec.ofNat 8 r.rpt }) (fun c => c.ln)))

/-- R57, R59: `ILL`, in both spellings, and an unassigned opcode trap every selected lane: no guard is looked at, nothing
else of a lane changes, and the walk stands behind the words, of which a `STR` does not count in the offset. -/
def Sys2Proof.Claims.IllegalWordsTrap : Prop :=
  ∀ pre w x s k g r, issuing s = some (k, g, r) → g.pass = none →
    (∀ i cause, (i, cause) ∈ [(Instr.ill pre w, 0x03#8), (.illFf pre w, 0x03#8), (.unassignedOpcode pre x, 0x01#8)] →
      opcodeUnassigned (x.extractLsb' 24 8).toNat = true →
      exec i s = .next (putGroup s k (advanceOf (mapLanes g fun l ln =>
        if (selectedMask g).getLsbD l then
          { ln with hold := .pending (mkRec g r (encode i) l cause 0 {}), off := BitVec.ofNat 16 (offOf r), rpt := BitVec.ofNat 8 r.rpt }
        else ln) r (encode i).length ((encode i).filter fun w => w.extractLsb' 24 8 != 0xFB).length)))

/-- R50, R57: the instructions whose words can be faulty in a field: all that have words and carry only prefixes that their
opcode takes, but for `STR` and `GEND`, the words of no instruction, and the two that a handler alone may execute. -/
def Sys2Proof.Claims.checkedByWords (i : Instr) : Bool :=
  match i with
  | .str _ _ => false
  | .gend => false
  | .ill _ _ => false
  | .illFf _ _ => false
  | .unassignedOpcode _ _ => false
  | .rtrap _ _ _ => false
  | .rflt _ => false
  | i => i.encodable

/-- R57, R93, R196: an instruction of any opcode that a field makes faulty traps every selected lane with cause illegal operand,
without any other effect than that of a switch point, where its opcode is one. -/
def Sys2Proof.Claims.EncodingFaultTraps : Prop :=
  ∀ s k g r, issuing s = some (k, g, r) → g.pass = none →
    ∀ i, checkedByWords i = true → legal i = false → selectedMask g ≠ 0 →
      exec i s = .next (afterTrap s k (advanceBy (mapLanes g fun l ln =>
        if (selectedMask g).getLsbD l then
          { ln with hold := .pending (mkRec g r (encode i) l 0x02 0 {}), off := BitVec.ofNat 16 (offOf r), rpt := BitVec.ofNat 8 r.rpt }
        else ln) r (encode i).length) i)

/-- R106, R119: `STR` opens a run of the block's strand when the block has a selected lane; with none, outside a replay, it
is passed over whole, and the block's offset grows by its words. -/
def Sys2Proof.Claims.StrandRunsOpen : Prop :=
  ∀ s k g (r : Run) b l, s.cur = some k → smFind s.groups k = some g → g.ctl = .run r → r.strand = none →
    (maskOf (laneSelected g r b) ≠ 0 →
      exec (.str b l) s = .next (putGroup s k { g with ctl := .run { r with
        pos := r.pos + 1, rpt := 0, offs := smSet 0 r.offs b.toNat (smGet 0 r.offs b.toNat)
        strand := some { blk := b, left := l.toNat + 1 } } })) ∧
    (maskOf (laneSelected g r b) = 0 → r.replay = none →
      exec (.str b l) s = .next (putGroup s k { g with ctl := .run { r with
        pos := r.pos + 1 + (l.toNat + 1)
        offs := smSet 0 r.offs b.toNat (smGet 0 r.offs b.toNat + (l.toNat + 1)) } }))

/-- R109: the next block of a lane that has executed its terminator is committed. -/
def Sys2Proof.Claims.committed (ln : Lane) : Lane :=
  match ln.nb with
  | some b => { ln with lb := b, nb := none, off := 0, rpt := 0 }
  | none => ln

/-- R109, R127: `GEND` as the last word of a gate whose lanes have all executed their terminators ends the turn, commits
every next block, makes every latch stale and goes on between gates; a lane that has not contains the launch (R106). -/
def Sys2Proof.Claims.GateEnds : Prop :=
  ∀ s k g (r : Run), s.cur = some k → smFind s.groups k = some g → g.ctl = .run r → r.strand = none → r.pos + 1 = r.len →
    (unfinishedLanes g r = 0 →
      exec .gend s = .next (boundary (endTurn s k) k
        { mapLanes g (fun _ ln => staleLane (committed ln)) with ctl := .between })) ∧
    (unfinishedLanes g r ≠ 0 → exec .gend s = .next (containGroup s k g 0x14 (unfinishedLanes g r)))

/-- R106, R57, R93: `GEND` and `STR` inside an open run are illegal instructions in every selected lane. `GEND` before the last
word of the gate and outside a run is one in every lane whose terminator is still to come, at the offset that its block has
reached: that, and that either is a switch point, is the model's choice (notes/assumptions/46, notes/assumptions/56). -/
def Sys2Proof.Claims.GateWordsInRuns : Prop :=
  ∀ b l s k g (r : Run), s.cur = some k → smFind s.groups k = some g → g.ctl = .run r → g.pass = none →
    (r.strand ≠ none → ∀ i ∈ [Instr.gend, .str b l],
      exec i s = .next (afterTrap s k (advanceBy (mapLanes g fun j ln =>
        if (selectedMask g).getLsbD j then
          { ln with hold := .pending (mkRec g r (encode i) j 0x01 0 {}), off := BitVec.ofNat 16 (offOf r), rpt := BitVec.ofNat 8 r.rpt }
        else ln) r (encode i).length) i)) ∧
    (r.strand = none → r.pos + 1 < r.len →
      exec .gend s = .next (switchedTo s k { mapLanes g (fun j ln =>
        if (unfinishedLanes g r).getLsbD j then
          let at_ := BitVec.ofNat 16 (smGet 0 r.offs ln.lb.toNat)
          { ln with hold := .pending { mkRec g r [0x06000000] j 0x01 0 {} with blk := ln.lb, off := at_, rpt := 0 }
                    off := at_, rpt := 0 }
        else ln) with ctl := .run { r with pos := r.pos + 1 } }))

namespace Sys2Proof.Claims

open Sys2Proof.Machine

/-- R135: the lanes for which an instruction of the group as a whole executes; `uni`: its guard is a uniform predicate. -/
def groupE (g : Group) (i : Instr) (uni : Bool) : Word :=
  if uni then (if uniGuard g (guardOf i) then selectedMask g else 0) else setE g i

/-- What an instruction of the group as a whole sees. -/
def gctx (s : State) (k : Nat) (g : Group) (r : Run) (i : Instr) (uni : Bool) : Ctx :=
  mkCtx s k g r i (selectedMask g) (groupE g i uni) (lowestLane (groupE g i uni))

/-- A switch point completes when E is not empty and `ok` holds: it leaves the state and the group that `f` names, moved
past the instruction or to its next repeat. -/
def GroupDone (i : Instr) (uni : Bool) (ok : Ctx → Prop) (f : Ctx → State × Group) : Prop :=
  ∀ s k g r, Issues s k g r → legal i = true → groupE g i uni ≠ 0 → ok (gctx s k g r i uni) →
    exec i s = .next (switchedTo (f (gctx s k g r i uni)).1 k (advance (f (gctx s k g r i uni)).2 r i))

/-- What lane `l` sees of an instruction of the group. -/
def laneOf (c : Ctx) (l : Nat) : Ctx := mkCtx c.s c.k c.g c.r c.i c.sel c.e l

/-- The lanes of E changed by `f`. -/
def lanesBy (c : Ctx) (f : Ctx → Lane) : Group :=
  mapLanes c.g fun l ln => if c.e.getLsbD l then f (laneOf c l) else ln

/-- A test of every lane of E. -/
def everyLane (c : Ctx) (p : Ctx → Bool) : Prop := ∀ l < 32, c.e.getLsbD l = true → p (laneOf c l) = true

/-- R46: a lane with a result of type `rt` in the register of window slot `d`, without a latch. -/
def loaded (ln : Lane) (d : Nat) (rt : BitVec 5) (v : Nat) : Lane :=
  { ln with regs := regsWith ln.regs (ln.win.toNat + d) rt v }

/-! #### Scratch -/

/-- R234: the byte of scratch that a lane accesses, from the start of its tier. -/
def scratchAt (c : Ctx) : Nat :=
  let i := (val c c.a 6).getD 0
  resourceIndex c c.b + (if tyBits c.ty = 4 then i / 2 else i * Machine.sizeOf c.ty)

/-- R217, R218: the bytes of the tier: 2 MiB of a cluster, or what the kernel declares for a crew. -/
def tierBytes (c : Ctx) (cluster : Bool) : Nat :=
  if cluster then 2 ^ 21 else match findKernel c.s c.g.part c.g.kern with | some x => x.scratch | none => 0

/-- R32, R218, R234: a lane can make its scratch access: its registers are allocated, the access lies in its tier and is
aligned. -/
def scratchOk (cluster : Bool) (c : Ctx) : Bool :=
  regInside c.g c.ln c.d (tyBits c.ty) && (val c c.a 6).isSome && decide (scratchAt c + Machine.sizeOf c.ty ≤ tierBytes c cluster)
    && scratchAt c % Machine.sizeOf c.ty == 0

/-- R217: the bytes of the tier and the place of its first byte in them. -/
def tierOf (c : Ctx) (cluster : Bool) : Option (List Host.Cell × Nat) :=
  if cluster then some (c.s.cscratch, clusterOfCore (coreOfKey c.k) * 2 ^ 21)
  else (smFind c.s.crews c.g.crew).map fun x => (x.scratch, 0)

/-- R70, R234: the element of a lane in the bytes `m` of its tier. -/
def elementIn (m : List Host.Cell) (first : Nat) (c : Ctx) : Nat :=
  let v := memRead m (first + scratchAt c) (Machine.sizeOf c.ty)
  if tyBits c.ty = 4 then v / 16 ^ ((val c c.a 6).getD 0 % 2) % 16 else v

/-- The state with the bytes of a tier replaced. -/
def withTier (c : Ctx) (cluster : Bool) (m : List Host.Cell) : State :=
  if cluster then { c.s with cscratch := m }
  else match smFind c.s.crews c.g.crew with
    | some x => putCrew c.s c.g.crew { x with scratch := m }
    | none => c.s

/-- R234: the bytes of its tier that the lanes of E access. -/
def scratchBytes (c : Ctx) : List (Nat × Nat) :=
  (lanesOf c.e).map fun l => (scratchAt (laneOf c l), Machine.sizeOf (laneOf c l).ty)

/-- R217: the cluster, or the crew, whose scratch the group reaches. -/
def tierPlace (c : Ctx) (cluster : Bool) : Nat := if cluster then clusterOfCore (coreOfKey c.k) else c.g.crew

/-- R215, R234: a copy or list instruction in flight holds a byte that the lanes of E access: for a load one that it writes, for a
store also one that it reads. -/
def bytesHeld (c : Ctx) (cluster store : Bool) : Bool :=
  scratchHeld c.s cluster (tierPlace c cluster) store (scratchBytes c)

end Sys2Proof.Claims

/-- R93, R135, R196: the instructions of the group as a whole, and whether their guard is a uniform predicate; a matrix
instruction when its tiles exist and no size of its request is a constant zero (R209, R210). -/
def Sys2Proof.Claims.groupForm (nacc : Nat) (i : Instr) : Option Bool :=
  match i with
  | .ld _ _ _ _ => some false
  | .st _ _ _ _ => some false
  | .ldt _ _ _ _ => some false
  | .stt _ _ _ _ => some false
  | .lds _ _ _ _ => some false
  | .sts _ _ _ _ => some false
  | .ldc _ _ _ _ => some false
  | .stc _ _ _ _ => some false
  | .pref _ _ _ _ => some false
  | .fence _ => some false
  | .atom _ _ _ _ => some false
  | .gath _ _ _ _ => some false
  | .scat _ _ _ _ => some false
  | .scatadd _ _ _ _ => some false
  | .cpy _ _ _ _ => some false
  | .cpys _ _ _ _ => some false
  | .lgath _ _ _ _ => some false
  | .lscat _ _ _ _ => some false
  | .wlpush _ _ _ _ => some false
  | .wlpop _ _ _ _ => some false
  | .wlins _ _ _ _ => some false
  | .launch _ _ _ _ => some false
  | .mapf _ _ _ _ => some false
  | .tlbinv _ _ _ => some false
  | .ctxsv _ _ _ _ => some false
  | .ctxld _ _ _ => some false
  | .uld _ _ _ _ => some true
  | .ust _ _ _ _ => some true
  | .uatom _ _ _ _ => some true
  | .batch _ _ => some true
  | .waitb _ _ => some true
  | .wlcnt _ _ _ => some true
  | .wlbind _ _ _ _ => some true
  | .bara _ _ _ => some true
  | .barw _ _ _ => some true
  | .baraw _ _ _ => some true
  | .gload _ _ _ _ => some true
  | .gjob _ _ _ _ => some true
  | .gfold _ _ _ => some true
  | .gstat _ _ _ => some true
  | .lattach _ _ _ _ => some true
  | .lfree _ _ => some true
  | .setshape _ _ a b _ => if a ≠ 0x80 ∧ b ≠ 0x80 then some true else none
  | .getshape _ _ _ _ => some true
  | .mma _ t _ _ _ => if t.toNat < nacc then some true else none
  | .mmas _ t _ _ _ => if t.toNat < nacc then some true else none
  | .mmabx _ t _ _ _ => if t.toNat + 3 < nacc then some true else none
  | .scacc _ t p _ => if t.toNat < nacc ∧ p.toNat + 3 < nacc then some true else none
  | .accz t _ => if t.toNat < nacc then some true else none
  | .accld _ t _ _ _ => if t.toNat < nacc then some true else none
  | .accst _ t _ _ _ => if t.toNat < nacc then some true else none
  | .accrd _ t _ _ => if t.toNat < nacc then some true else none
  | _ => none

/-- R93, R135: any instruction of the group as a whole: one whose strand selects no lane does nothing; one whose guard holds in
no selected lane, or not for the group, is a switch point and no more. -/
def Sys2Proof.Claims.GuardedOffSwitches : Prop :=
  ∀ s k g r, Issues s k g r → ∀ i uni, groupForm g.nacc i = some uni → legal i = true →
    (selectedMask g = 0 → exec i s = .next (putGroup s k (advance g r i))) ∧
    (selectedMask g ≠ 0 → groupE g i uni = 0 → exec i s = .next (switchedTo s k (advance g r i)))

/-- R243, R244: `PREF`, in lanes whose index can be read, and `FENCE` are switch points that change nothing else. For `FENCE`
that is the model's choice (notes/assumptions/7): the group waits for its own accesses before it issues again. -/
def Sys2Proof.Claims.PrefetchAndFence : Prop :=
  ∀ d a b m,
    GroupDone (.pref d a b m) false (fun c => everyLane c fun x => (val x x.a 6).isSome)
      (fun c => (c.s, lanesBy c fun x => x.ln)) ∧
    GroupDone (.fence m) false (fun _ => True) (fun c => (c.s, c.g))

/-- R217, R218, R234: `LDS` and `LDC` complete when no copy or list instruction in flight writes a byte that they read: they give
each lane of E the element of its crew's region, or of its cluster's scratch; no byte of memory or scratch changes. -/
def Sys2Proof.Claims.ScratchLoads : Prop :=
  ∀ d a b m,
    ∀ x ∈ [(Instr.lds d a b m, false), (.ldc d a b m, true)],
      GroupDone x.1 false
        (fun c => (tierOf c x.2).isSome = true ∧ everyLane c (scratchOk x.2) ∧ bytesHeld c x.2 false = false) fun c =>
        (c.s, lanesBy c fun y => match tierOf c x.2 with
          | some (bytes, first) => loaded y.ln y.d y.ty (elementIn bytes first y)
          | none => y.ln)

/-- R217, R218, R233, R234: `STS` and `STC` complete when no copy or list instruction in flight reads or writes a byte that
they store: each element named by a lane of E holds what the highest of the
lanes that name it stores, every byte of the tier outside the elements named is unchanged, every half of a byte that no 4-bit
element names too, and so are the group's lanes and all else; `STC` waits first for the group's own queued matrix instructions that have still to take a named byte (R203). -/
def Sys2Proof.Claims.ScratchStores : Prop :=
  ∀ d a b m, ∀ i ∈ [(Instr.sts d a b m, false), (.stc d a b m, true)],
    ∀ s k g r, Issues s k g r → legal i.1 = true → setE g i.1 ≠ 0 →
      let c := gctx s k g r i.1 false
      everyLane c (scratchOk i.2) → (i.2 = true → scratchClaimed c = false) → bytesHeld c i.2 true = false →
      ∀ bytes first, tierOf c i.2 = some (bytes, first) →
      ∃ after, exec i.1 s = .next (switchedTo (withTier c i.2 after) k (advance g r i.1)) ∧
        (∀ y, (∀ l < 32, c.e.getLsbD l = true →
            ¬ (first + scratchAt (laneOf c l) ≤ y ∧ y < first + scratchAt (laneOf c l) + Machine.sizeOf c.ty)) →
          memGet after y = memGet bytes y) ∧
        (∀ l < 32, c.e.getLsbD l = true →
          (∀ h < 32, l < h → c.e.getLsbD h = true → val (laneOf c h) c.a 6 ≠ val (laneOf c l) c.a 6) →
          elementIn after first (laneOf c l) = regValue (getLane g l) c.d (tyBits c.ty)) ∧
        (tyBits c.ty = 4 → ∀ y h, h < 2 → (∀ l < 32, c.e.getLsbD l = true →
            first + scratchAt (laneOf c l) = y → (val (laneOf c l) c.a 6).getD 0 % 2 ≠ h) →
          (memGet after y).toNat / 16 ^ h % 16 = (memGet bytes y).toNat / 16 ^ h % 16)

/-- R234, R93: a scratch load from bytes that a copy or list instruction in flight writes, and a scratch store to bytes that one
reads or writes, wait until they are held no longer: nothing else happens, and the instruction issues again. -/
def Sys2Proof.Claims.ScratchAccessesWait : Prop :=
  ∀ d u a b m, ∀ x ∈ [(Instr.lds d a b m, false, false), (.ldc d a b m, true, false), (.sts u a b m, false, true),
      (.stc u a b m, true, true)],
    ∀ s k g r, issuing s = some (k, g, r) → legal x.1 = true → setE g x.1 ≠ 0 →
      let c := gctx s k g r x.1 false
      everyLane c (scratchOk x.2.1) → (x.2.1 = true → x.2.2 = true → scratchClaimed c = false) → bytesHeld c x.2.1 x.2.2 = true →
      exec x.1 s = .next (endTurn (putGroup s k
        { g with wait := .bytes x.2.1 (tierPlace c x.2.1) x.2.2 (scratchBytes c), lastIssue := s.prevIssue }) k)

namespace Sys2Proof.Claims

open Sys2Proof.Machine

/-! #### Accesses -/

/-- R227: the element of the flat index that a lane holds. -/
def flatly (c : Ctx) (e : Entry) : Option Named := (val c c.a 6).map (namedFlat e)

/-- R231, R232: the element of the coordinates in `NDIM` + 1 registers of a lane. -/
def byCoords (c : Ctx) (e : Entry) : Option Named :=
  if c.a + e.ndim ≤ 0x7F && (List.range (e.ndim + 1)).all fun j => regInside c.g c.ln (c.a + j) 32 then
    some (namedCoords e ((List.range 4).map fun j =>
      if j ≤ e.ndim then (getReg c.ln (c.ln.win.toNat + c.a + j)).toNat else 0))
  else none

/-- R231: a load into the registers of window slot D. -/
def loading (mk : Nat → AccOp) (c : Ctx) : Option AccOp :=
  if regInside c.g c.ln c.d (tyBits (resultType c.ty false)) then some (mk (c.ln.win.toNat + c.d)) else none

/-- R231: a store from the registers of window slot D. -/
def storing (mk : DWord → AccOp) (c : Ctx) : Option AccOp :=
  if regInside c.g c.ln c.d (tyBits c.ty) then some (mk (BitVec.ofNat 64 (regAt c.ln (c.ln.win.toNat + c.d) (tyBits c.ty))))
  else none

/-- An access as it is made at issue. -/
def accessTo (l : Nat) (x : Named) (op : AccOp) : Acc :=
  { lane := l, coords := x.coords, elem := x.elem, op := op, done := false, translated := false, injected := false }

/-- R93, R257: the state after an instruction whose accesses are made: the group waits for its request, and every access is
performed at once unless the schedule, a rate limit, a held channel or a held line leaves it open. When an access is performed
is the model's choice (notes/assumptions/7). -/
def requested (s : State) (k : Nat) (g : Group) (q : Req) : State :=
  let s1 := putGroup { s with nextReq := s.nextReq + 1, reqs := smPut s.reqs s.nextReq q } k g
  endTurn (if leftOpen s1 q then s1 else performAll s1 s.nextReq) k

/-- The instruction of a group, the name of its resource, its raw entry, and that the entry passes the checks of R226 for
kinds and type. -/
def Checked (c : Ctx) (kinds : List Nat) (raw : BitVec 512) : Prop :=
  resourceEntry c.s c.g.part (resourceIndex c c.b) = .ok raw ∧ checkEntry raw kinds (some c.ty) = .ok (entryOf raw)

/-- R232, R324: the resource may be written. -/
def Writable (c : Ctx) (raw : BitVec 512) : Prop :=
  (entryOf raw).ro = false ∧ (entryOf raw).gre = false ∧ freezeCount c.s c.g.part (resourceIndex c c.b) = 0

/-- R220, R324: the state with the event of the walk for the freeze count of a resource that is written. -/
def checkedFor (c : Ctx) (write : Bool) : State :=
  if write then freezeEvent c.s c.g.part (resourceIndex c c.b) (coreOfKey c.k) else c.s

/-- R231, R232: an access instruction of lanes: when its resource passes its checks and every lane of E names an element in
bounds, one access is made for each lane of E, in ascending lane order. -/
def AccessIssues (i : Instr) (kinds : List Nat) (write noGraph : Bool) (named : Ctx → Entry → Option Named)
    (op : Ctx → Option AccOp) : Prop :=
  ∀ s k g r, Issues s k g r → legal i = true → setE g i ≠ 0 → ∀ raw,
    let c := gctx s k g r i false
    Checked c kinds raw → (noGraph = true → (entryOf raw).gwe = false) → (write = true → Writable c raw) →
    ∀ acc : Nat → Acc, (∀ l < 32, c.e.getLsbD l = true → ∃ x o, named (laneOf c l) (entryOf raw) = some x ∧
        x.inside = true ∧ op (laneOf c l) = some o ∧ acc l = accessTo l x o) →
      exec i s = .next (requested (checkedFor c write) k
        (advance { mapLanes g (fun _ ln => ln) with wait := .req s.nextReq } r i)
        (mkReq c raw (resourceIndex c c.b) false ((lanesOf c.e).map acc)))

/-- R164, R266: an access instruction of the group: one access. -/
def UniformAccessIssues (i : Instr) (kinds : List Nat) (write noGraph : Bool) (named : Ctx → Entry → Option Named)
    (op : Ctx → AccOp) : Prop :=
  ∀ s k g r, Issues s k g r → legal i = true → groupE g i true ≠ 0 → ∀ raw,
    let c := gctx s k g r i true
    Checked c kinds raw → (noGraph = true → (entryOf raw).gwe = false) → (write = true → Writable c raw) →
    ∀ x, named c (entryOf raw) = some x → x.inside = true →
      exec i s = .next (requested (checkedFor c write) k (advance { g with wait := .req s.nextReq } r i)
        (mkReq c raw (resourceIndex c c.b) true [accessTo (lowestLane (selectedMask g)) x (op c)]))

/-- R262: the bits of an operand of an atomic: `.bf16` takes two halves in one register. -/
def atomWidth (t : BitVec 5) : Nat := if t = 18 then 32 else tyBits t

/-- R262, R265: the operation of an atomic, from the `MD` field, and whether it has a second operand. -/
def atomOp (c : Ctx) : BitVec 5 := (extOf c.i).md &&& 15
/-- R262, R265. -/
def hasSecond (c : Ctx) : Bool := atomOp c == 7 || atomOp c == 10

/-- R262: the element, or the pair of elements, that an atomic names. -/
def atomNamed (c : Ctx) (e : Entry) (i : Nat) : Option Named :=
  if c.ty = 18 then
    (if i % 2 = 1 then none else some { elem := i, coords := coordsOf e i, inside := decide (i + 1 < elementCount e) })
  else some (namedFlat e i)

/-- R262, R263: an atomic with its operands from the registers of slot D and those behind them. -/
def atomicOf (c : Ctx) : Option AccOp :=
  let w := atomWidth c.ty
  let d2 := c.d + (if w = 64 then 2 else 1)
  if regInside c.g c.ln c.d w && (!hasSecond c || regInside c.g c.ln d2 w) then
    some (.atom (atomOp c) (c.ln.win.toNat + c.d) (BitVec.ofNat 64 (regAt c.ln (c.ln.win.toNat + c.d) w))
      (BitVec.ofNat 64 (if hasSecond c then regAt c.ln (c.ln.win.toNat + d2) w else 0)))
  else none

/-- R262, R266: an atomic of the group, with its operands from uniform registers. -/
def uniAtomicOf (c : Ctx) : AccOp :=
  let w := atomWidth c.ty
  let d2 := c.d + (if w = 64 then 2 else 1)
  .atom (atomOp c) (c.g.uwin.toNat + c.d) (BitVec.ofNat 64 (slotValue c.g c.d w))
    (BitVec.ofNat 64 (if hasSecond c then slotValue c.g d2 w else 0))

end Sys2Proof.Claims

/-- R226, R231, R232, R264, R291: the loads, stores, atomics, gathers and scatters of lanes complete: they make their
accesses, each with its lane, element and operands. That the accesses are performed at once, unless something leaves them
open, is the model's choice (notes/assumptions/7). -/
def Sys2Proof.Claims.LaneAccesses : Prop :=
  ∀ d u a b m,
    AccessIssues (.ld d a b m) [1, 2, 3] false false flatly (loading .load) ∧
    AccessIssues (.st u a b m) [1, 2] true false flatly (storing .store) ∧
    AccessIssues (.ldt d a b m) [2, 3] false false byCoords (loading .load) ∧
    AccessIssues (.stt u a b m) [2] true false byCoords (storing .store) ∧
    AccessIssues (.atom u a b m) [1, 2] true true (fun c e => (val c c.a 6).bind (atomNamed c e)) atomicOf ∧
    AccessIssues (.gath d a b m) [1, 2, 3] false false flatly (loading .gather) ∧
    AccessIssues (.scat u a b m) [1, 2] true false flatly (storing .scatter) ∧
    AccessIssues (.scatadd u a b m) [1, 2] true true flatly (storing .addTo)

/-- R164, R266: `ULD`, `UST` and `UATOM` complete: they make one access for the group, performed at once unless something
leaves it open (the model's choice, notes/assumptions/7). -/
def Sys2Proof.Claims.UniformAccesses : Prop :=
  ∀ u a b m,
    UniformAccessIssues (.uld u a b m) [1, 2, 3] false false (fun c e => some (namedFlat e (readUni c c.a 6)))
      (fun c => .load (c.g.uwin.toNat + c.d)) ∧
    UniformAccessIssues (.ust u a b m) [1, 2] true false (fun c e => some (namedFlat e (readUni c c.a 6)))
      (fun c => .store (BitVec.ofNat 64 (slotValue c.g c.d (tyBits c.ty)))) ∧
    UniformAccessIssues (.uatom u a b m) [1, 2] true true (fun c e => atomNamed c e (readUni c c.a 6)) uniAtomicOf

namespace Sys2Proof.Claims

open Sys2Proof.Machine

/-- R232: an access instruction whose lanes of E all name elements out of bounds: `BND` 0 parks each with cause out of
bounds, `BND` 1 reports the drop and changes no lane, `BND` 2 gives `zero` to each lane without a report. -/
def OutOfBounds (i : Instr) (kinds : List Nat) (noGraph : Bool) (named : Ctx → Entry → Option Named) (op : Ctx → Option AccOp)
    (zero : Ctx → Lane) : Prop :=
  ∀ s k g r, issuing s = some (k, g, r) → g.pass = none → legal i = true → setE g i ≠ 0 → ∀ raw,
    let c := gctx s k g r i false
    let res := resourceIndex c c.b
    Checked c kinds raw → (noGraph = true → (entryOf raw).gwe = false) →
    ∀ x : Nat → Named, (∀ l < 32, c.e.getLsbD l = true →
        named (laneOf c l) (entryOf raw) = some (x l) ∧ (x l).inside = false ∧ (op (laneOf c l)).isSome = true) →
    ((entryOf raw).bnd = 0 → exec i s = .next (switchedTo s k (advance (lanesBy c fun y =>
        parkLane y.ln (mkRec g r (encode i) y.l 0x83 0 { elem := (x y.l).elem, res := res, lane := y.l })) r i))) ∧
    ((entryOf raw).bnd = 1 → exec i s = .next (switchedTo
        (dropReport s g.part (coreOfKey k) (mkRec g r (encode i) (lowestLane c.e) 0 0 {}) (x (lowestLane c.e)).elem res
          (lanesOf c.e).length (lowestLane c.e) c.e false) k (advance (lanesBy c fun y => y.ln) r i))) ∧
    ((entryOf raw).bnd = 2 → exec i s = .next (switchedTo s k (advance (lanesBy c zero) r i)))

/-- R232: a load reads 0. -/
def readsZero (c : Ctx) : Lane := loaded c.ln c.d (resultType c.ty false) 0

/-- R223, R236: the address that a record gives of a resource whose entry cannot be read: that of the entry. -/
def entryAddress (s : State) (p res : Nat) (cause : BitVec 8) : Nat :=
  if cause = 0x81 ∨ cause = 0x8B then
    match smFind s.parts p with
    | some x => x.regs.rtbase.toNat + 64 * res
    | none => 0
  else 0

/-- R223, R226, R231, R232, R345: a resource that fails its checks parks every lane of E with the cause of the first check that
fails; one whose entry cannot be read writes its event. -/
def ResourceFault (i : Instr) (kinds : List Nat) : Prop :=
  ∀ s k g r, issuing s = some (k, g, r) → g.pass = none → legal i = true → setE g i ≠ 0 →
    let c := gctx s k g r i false
    ∀ cause, namedEntry s g.part (resourceIndex c c.b) kinds (some c.ty) = .error cause →
      let va := entryAddress s g.part (resourceIndex c c.b) cause
      ∃ elem : Nat → Nat, exec i s = .next (switchedTo (faultEvent s g.part cause va (coreOfKey k)) k (advance (lanesBy c fun y =>
        parkLane y.ln (mkRec g r (encode i) y.l cause 0 { va := va, elem := elem y.l, res := resourceIndex c c.b, lane := y.l })) r i))

end Sys2Proof.Claims

/-- R232, R237: what `BND` says of a lane access out of bounds. -/
def Sys2Proof.Claims.OutOfBoundsAccesses : Prop :=
  ∀ d u a b m,
    OutOfBounds (.ld d a b m) [1, 2, 3] false flatly (loading .load) readsZero ∧
    OutOfBounds (.st u a b m) [1, 2] false flatly (storing .store) (fun c => c.ln) ∧
    OutOfBounds (.ldt d a b m) [2, 3] false byCoords (loading .load) readsZero ∧
    OutOfBounds (.stt u a b m) [2] false byCoords (storing .store) (fun c => c.ln) ∧
    OutOfBounds (.gath d a b m) [1, 2, 3] false flatly (loading .gather) readsZero ∧
    OutOfBounds (.scat u a b m) [1, 2] false flatly (storing .scatter) (fun c => c.ln) ∧
    OutOfBounds (.scatadd u a b m) [1, 2] true flatly (storing .addTo) (fun c => c.ln)

/-- R223, R226: the checks of a resource in their order, and the lanes of E parked with the cause of the first that fails. -/
def Sys2Proof.Claims.ResourceFaults : Prop :=
  (∀ d u a b m,
    ResourceFault (.ld d a b m) [1, 2, 3] ∧ ResourceFault (.st u a b m) [1, 2] ∧ ResourceFault (.ldt d a b m) [2, 3] ∧
    ResourceFault (.stt u a b m) [2] ∧ ResourceFault (.gath d a b m) [1, 2, 3] ∧ ResourceFault (.scat u a b m) [1, 2]) ∧
  (∀ raw kinds t,
    ((entryOf raw).kind = 0 → checkEntry raw kinds (some t) = .error 0x87) ∧
    ((entryOf raw).kind ≠ 0 → entryValid (entryOf raw) = false → checkEntry raw kinds (some t) = .error 0x85) ∧
    ((entryOf raw).kind ≠ 0 → entryValid (entryOf raw) = true → (entryOf raw).kind ∉ kinds →
      checkEntry raw kinds (some t) = .error 0x86) ∧
    ((entryOf raw).kind ≠ 0 → entryValid (entryOf raw) = true → (entryOf raw).kind ∈ kinds →
      formatFits t (entryOf raw).fmt = false → checkEntry raw kinds (some t) = .error 0x88)) ∧
  (∀ s p x idx, smFind s.parts p = some x → x.regs.rtcnt.toNat ≤ idx → resourceEntry s p idx = .error 0x84)

namespace Sys2Proof.Claims

open Sys2Proof.Machine

/-- R233, R257, R286: access `n` of request `id` is the one that a step of memory performs next: it is open and injected, nothing
holds its line, no lower lane has still to store to its element, and no other access that the step would perform is open: one of
the same lane, any other where the step performs several (`whole`), one on the same line where they make one request. The group
of the request has not been contained (R344). -/
def StandsNext (s : State) (id n : Nat) (q : Req) (a : Acc) (whole : Bool) : Prop :=
  smFind s.reqs id = some q ∧ q.orphan = false ∧ q.accs[n]? = some a ∧ a.done = false ∧ injectedOk s q a = true ∧
  accHeld s q a = false ∧ (isPart a = true → lineMates q a = [n]) ∧
  (∀ v, a.op = .store v → ∀ b ∈ q.accs, b.done = false → b.lane < a.lane → b.coords ≠ a.coords) ∧
  ∀ j b, j ≠ n → q.accs[j]? = some b → b.done = true ∨ (whole = false ∧ b.lane ≠ a.lane)

/-- The steps that perform access `a` of request `id`, and whether each performs several. -/
def Performing (s : State) (id : Nat) (q : Req) (a : Acc) (ev : Instr) (whole : Bool) : Prop :=
  (ev = .accessPerformed id a.lane ∧ whole = false ∧ isOrdinary a = true) ∨
  (ev = .writeStreamGraph id a.lane ∧ whole = false ∧ (entryOf q.entry).gwe = true) ∨
  (ev = .gatherPartServe id (homeOf s q.part (elemAddr (entryOf q.entry) a.coords)) ∧ whole = true ∧ isGather a = true) ∨
  (ev = .homeSliceAtomic id ∧ whole = true ∧ isAtomic a = true)

/-- The group of a request after an access: `h`, but for its latches and for what it waits for; when the access was the last
one open, the request is gone and the group waits no longer (R93). -/
def Receives (t : State) (id n : Nat) (q : Req) (h : Group) : Prop :=
  ∃ g, smFind t.groups q.group = some g ∧ staleAll { g with wait := .none } = staleAll { h with wait := .none } ∧
    ((∀ j b, j ≠ n → q.accs[j]? = some b → b.done = true) → smFind t.reqs id = none ∧ g.wait = .none)

/-- What an access gives to its lane, or to the group: a value of type `rt` into register `dest`. -/
def given (g : Group) (q : Req) (a : Acc) (dest : Nat) (rt : BitVec 5) (v : Nat) : Group :=
  if q.uniform then { g with uregs := regsWith g.uregs dest rt v }
  else setLane g a.lane { getLane g a.lane with regs := regsWith (getLane g a.lane).regs dest rt v }

/-- R263: `.cas` and `.bfadd` say in p14, or q6, whether they stored, and the opposite in p15, or q7. -/
def tested (g : Group) (q : Req) (a : Acc) (stored : Bool) : Group :=
  if q.uniform then { g with qpreds := setPred (setPred g.qpreds 6 stored) 7 (!stored) }
  else setLane g a.lane { getLane g a.lane with preds := setPred (setPred (getLane g a.lane).preds 14 stored) 15 (!stored) }

/-- R221: no other page names the frame set of the page of an address. -/
def Unshared (s : State) (p va : Nat) : Prop :=
  ∀ x f w g big, smFind s.parts p = some x → channelWalk s p va = .page f w g big → smFind x.aliased f = none

/-- A group with its lanes as `setLane` leaves them. -/
def untouched (g : Group) (q : Req) : Group := if q.uniform then g else mapLanes g fun _ ln => ln

end Sys2Proof.Claims

/-- R164, R232, R257, R291, R346: an open load or gather is performed, at the state in which its line has been read for the first
of its accesses (`serveMates`): the element that its entry gives enters the registers; of memory only the events of that reading
are written, of scratch nothing; the last one ends the wait of the group. -/
def Sys2Proof.Claims.LoadsArePerformed : Prop :=
  ∀ s id n q a g ev whole, StandsNext s id n q a whole → Performing s id q a ev whole →
    smFind s.groups q.group = some g → passTrapped g = 0 →
    ∀ dest v, a.op = .load dest ∨ a.op = .gather dest →
      readElement (serveMates s id q a) q.part (entryOf q.entry) a.coords = .ok v →
      ∃ t, exec ev s = .next t ∧ Receives t id n q (given g q a dest (resultType q.ty false) v) ∧
        t.mem = (serveMates s id q a).mem ∧ t.cscratch = s.cscratch

/-- R164, R222, R232, R233, R257, R291, R311: an open store or scatter is performed, through a graph after the request at the
channel: memory is as `writeElement` leaves it, no register changes. A scatter that passes the graph of a channel alone is written with the value that the graph places. -/
def Sys2Proof.Claims.StoresArePerformed : Prop :=
  ∀ s id n q a g ev whole, StandsNext s id n q a whole → Performing s id q a ev whole →
    smFind s.groups q.group = some g → passTrapped g = 0 →
    (∀ v u, a.op = .store v ∨ (a.op = .scatter v ∧ graphScatter s q a = false) →
      writeElement (serveMates s id q a) q.part (entryOf q.entry) a.coords v.toNat = .ok u →
      ∃ t, exec ev s = .next t ∧ Receives t id n q (untouched g q) ∧ t.mem = u.mem ∧ t.cscratch = s.cscratch) ∧
    (∀ v w u, a.op = .scatter v → graphScatter s q a = true →
      placedPattern s q.part (entryOf q.entry) [(elemAddr (entryOf q.entry) a.coords, v.toNat)] a.coords v.toNat = .ok w →
      writeElement (serveMates s id q a) q.part { entryOf q.entry with gwe := false } a.coords w = .ok u →
      ∃ t, exec ev s = .next t ∧ Receives t id n q (untouched g q) ∧ t.mem = u.mem ∧ t.cscratch = s.cscratch)

/-- R260, R262 to R266, R291, R346: an open atomic is performed at its home slice as one step: memory is as `atomStep` leaves it
after its line has been read, the old value enters the register, `.cas` and `.bfadd` write their predicates; an addition of `SCATADD` changes no register. -/
def Sys2Proof.Claims.AtomicsArePerformed : Prop :=
  ∀ s id n q a g ev whole, StandsNext s id n q a whole → Performing s id q a ev whole →
    smFind s.groups q.group = some g → passTrapped g = 0 →
    (∀ op dest v1 v2 u old stored, a.op = .atom op dest v1 v2 →
      atomStep (serveMates s id q a) q.part (entryOf q.entry) q.ty a.elem op.toNat v1.toNat v2.toNat = .ok (u, old, stored) →
      let h := given g q a dest (resultType q.ty (q.ty == 18)) old
      ∃ t, exec ev s = .next t ∧ t.mem = u.mem ∧ t.cscratch = s.cscratch ∧
        Receives t id n q (if op = 7 ∨ op = 10 then tested h q a stored else h)) ∧
    (∀ v u old stored, a.op = .addTo v →
      atomStep (serveMates s id q a) q.part (entryOf q.entry) q.ty a.elem 0 v.toNat 0 = .ok (u, old, stored) →
      ∃ t, exec ev s = .next t ∧ t.mem = u.mem ∧ t.cscratch = s.cscratch ∧ Receives t id n q (untouched g q))

/-- R70, R227, R232: a store to an element of 8 bits or more writes exactly its bytes, least significant first; one to a
4-bit element writes its half of a byte; a store without a graph of its own changes nothing else, but that a line of a frame
set that pages share is claimed first, which is the model's choice (notes/assumptions/55). -/
def Sys2Proof.Claims.ElementsAreStored : Prop :=
  ∀ s p x e xs v key, smFind s.parts p = some x → peerWindowOf x (elemAddr e xs) = none → e.gwe = false →
    writablePlace s p (elemAddr e xs) = .ok key →
    let s' := claimLine s p (elemAddr e xs)
    (Unshared s p (elemAddr e xs) → s' = s) ∧
    (8 ≤ tyBits e.fmt → ∃ m, writeElement s p e xs v = .ok { s' with mem := m } ∧
      memRead m key (tyBits e.fmt / 8) = v % 2 ^ tyBits e.fmt ∧
      ∀ y, y < key ∨ key + tyBits e.fmt / 8 ≤ y → memGet m y = memGet s'.mem y) ∧
    (tyBits e.fmt = 4 → ∃ m, writeElement s p e xs v = .ok { s' with mem := m } ∧
      (memGet m key).toNat / 16 ^ (xs.getD 0 0 % 2) % 16 = v % 16 ∧
      (memGet m key).toNat / 16 ^ (1 - xs.getD 0 0 % 2) % 16 = (memGet s'.mem key).toNat / 16 ^ (1 - xs.getD 0 0 % 2) % 16 ∧
      ∀ y, y ≠ key → memGet m y = memGet s'.mem y)

/-- R262, R265: the value that each atomic operation stores, from the old value and the operands, and whether it stores. -/
def Sys2Proof.Claims.AtomicOperations : Prop :=
  ∀ (t : BitVec 5) (old x y : Nat), tyIsInt t = true → old < 2 ^ tyBits t → x < 2 ^ tyBits t → y < 2 ^ tyBits t →
    atomApply 0 t old x y = ((old + x) % 2 ^ tyBits t, true) ∧
    (atomApply 1 t old x y).2 = true ∧ intVal t (atomApply 1 t old x y).1 = min (intVal t old) (intVal t x) ∧
    (atomApply 2 t old x y).2 = true ∧ intVal t (atomApply 2 t old x y).1 = max (intVal t old) (intVal t x) ∧
    atomApply 3 t old x y = (old &&& x, true) ∧ atomApply 4 t old x y = (old ||| x, true) ∧
    atomApply 5 t old x y = (old ^^^ x, true) ∧ atomApply 6 t old x y = (x, true) ∧
    atomApply 7 t old x y = (if old = x then (y, true) else (old, false)) ∧
    atomApply 8 t old x y = (if x ≤ old then 0 else old + 1, true) ∧
    atomApply 9 t old x y = (if old = 0 ∨ x < old then x else old - 1, true) ∧
    atomApply 10 t old x y = (if old + x ≤ y then (old + x, true) else (old, false))

/-- R260, R264, R267: one atomic of a type other than `.bf16`: the old value is the element as it stands; when the operation
stores, exactly the element's bytes change, to the new value; when it stores nothing, memory is unchanged and the page need
not be writable (the model's reading, notes/assumptions/47). A frame set that pages share is the model's choice
(notes/assumptions/55): the store claims the line first. -/
def Sys2Proof.Claims.AtomicStep : Prop :=
  ∀ s p x e t elem op v1 v2 old, t ≠ 18 → smFind s.parts p = some x → peerWindowOf x (elemAddr e (coordsOf e elem)) = none →
    e.gwe = false → 8 ≤ tyBits e.fmt → rawElement s p e (coordsOf e elem) = .ok old →
    let at_ := elemAddr e (coordsOf e elem)
    let s' := claimLine s p at_
    (Unshared s p at_ → s' = s ∧ countPeer s p at_ = s) ∧
    ((atomApply op t old v1 v2).2 = false → atomStep s p e t elem op v1 v2 = .ok (countPeer s p at_, old, false)) ∧
    ((atomApply op t old v1 v2).2 = true → ∀ key, writablePlace s p at_ = .ok key →
      ∃ m, atomStep s p e t elem op v1 v2 = .ok (countPeer { s' with mem := m } p at_, old, true) ∧
        memRead m key (tyBits e.fmt / 8) = (atomApply op t old v1 v2).1 % 2 ^ tyBits e.fmt ∧
        ∀ y, y < key ∨ key + tyBits e.fmt / 8 ≤ y → memGet m y = memGet s'.mem y)

namespace Sys2Proof.Claims

open Sys2Proof.Machine

/-! #### Copies, lists and batches -/

/-- R36, R238 to R240, R295: a new item of the group: it is in flight and pending for the next batch. -/
def withItem (c : Ctx) (kind : ItemKind) (st : ItemState) : State × Group :=
  ({ c.s with nextItem := c.s.nextItem + 1
              items := smPut c.s.items c.s.nextItem
                { owner := c.g.uid, launch := c.g.launch, part := c.g.part, core := coreOfKey c.k, kind := kind, istate := st
                  trec := mkRec c.g c.r (encode c.i) c.l 0 0 { lane := c.l } } },
   { c.g with pend := c.g.pend ++ [c.s.nextItem] })

/-- R223, R226: a resource passes its checks for an instruction without a type. -/
def CheckedKinds (c : Ctx) (res : Nat) (kinds : List Nat) (raw : BitVec 512) : Prop :=
  resourceEntry c.s c.g.part res = .ok raw ∧ checkEntry raw kinds none = .ok (entryOf raw)

/-- R238, R240: the checks of a copy: its shape is set, its origin `o` can be read, offset and pitch are aligned, the extent
lies in the tier, the memory pitch is 0 for a tensor alone, blocks are whole. -/
def CopyFits (c : Ctx) (e : Entry) (o : List Nat) : Prop :=
  let sl := copySlots c.g c.d
  let z := shapeReg c.g sl.z
  let shape := copyShape z sl.dim
  let lin := addressedLinear c.s c.g.part e
  sl.reserved = false ∧ sl.dim ≠ 3 ∧ z.v = true ∧ copyOrigin c (if lin then 1 else e.ndim + 1) = some o ∧
    sl.off % Machine.sizeOf e.fmt = 0 ∧ sl.rp % Machine.sizeOf e.fmt = 0 ∧
    sl.off + (shape.1 - 1) * sl.rp + rowBytes e.fmt shape.2 ≤ tierBytes c (!sl.core) ∧ (lin = true ↔ sl.mp ≠ 0) ∧
    (tyIsBlock e.fmt = true → shape.2 % 32 = 0 ∧ o.getD 0 0 % 32 = 0)

/-- R238 to R240: the copy as captured at issue. -/
def copyAt (c : Ctx) (store : Bool) (raw : BitVec 512) (o : List Nat) : CopyDesc :=
  let sl := copySlots c.g c.d
  let shape := copyShape (shapeReg c.g sl.z) sl.dim
  { store := store, lin := addressedLinear c.s c.g.part (entryOf raw), entry := raw
    res := BitVec.ofNat 32 (resourceIndex c c.b), core := sl.core
    place := if sl.core then c.g.crew else clusterOfCore (coreOfKey c.k), off := sl.off
    len := (shape.1 - 1) * sl.rp + rowBytes (entryOf raw).fmt shape.2, rp := sl.rp, mp := sl.mp, rows := shape.1
    cols := shape.2, origin := o, next := 0, drops := 0, dropElem := 0, reached := c.s.nextItem }

/-- R295, R296: the checks of a list instruction: `lraw` is its index list, `raw` its data. -/
def ListFits (c : Ctx) (kinds : List Nat) (lraw raw : BitVec 512) : Prop :=
  let x := listSlots c.g c.d
  let z := Machine.sizeOf c.ty
  x.reserved = false ∧ 1 ≤ x.cnt ∧ x.cnt ≤ 65536 ∧ 1 ≤ x.width ∧ x.width ≤ 4096 ∧ x.off % z = 0 ∧ x.rp % z = 0 ∧
    x.width * z ≤ x.rp ∧ x.off + (x.cnt - 1) * x.rp + x.width * z ≤ tierBytes c (!x.core) ∧
    CheckedKinds c (resourceIndex c c.a) [1] lraw ∧ ((entryOf lraw).fmt = 5 ∨ (entryOf lraw).fmt = 6) ∧
    x.first + x.cnt ≤ (entryOf lraw).dim0 ∧ Checked c kinds raw

/-- R295, R296: the list instruction as captured at issue. -/
def listAt (c : Ctx) (scatter : Bool) (lraw raw : BitVec 512) : ListDesc :=
  let x := listSlots c.g c.d
  { scatter := scatter, list := lraw, data := raw, res := BitVec.ofNat 32 (resourceIndex c c.b), core := x.core
    place := if x.core then c.g.crew else clusterOfCore (coreOfKey c.k), off := x.off
    len := (x.cnt - 1) * x.rp + x.width * Machine.sizeOf c.ty, first := x.first, width := x.width, rp := x.rp
    todo := List.range x.cnt, drops := 0, dropElem := 0, reached := c.s.nextItem }

/-- R42: a group with `v` in the uniform slot `d` as `.n32`. -/
def slotWith (g : Group) (d v : Nat) : Group := { g with uregs := regsWith g.uregs (g.uwin.toNat + d) 6 v }

/-- R241: a batch whose items have all finished, none of them stopped on a fault. -/
def batchClean (s : State) (b : Batch) : Bool := b.complete && (batchFault s b).isNone

/-- R36: the number of a `WAITB`. -/
def waitNumber (c : Ctx) : Nat := readUni c c.a 6

end Sys2Proof.Claims

/-- R36, R238 to R240, R289, R295, R296: `CPY`, `CPYS`, `LGATH` and `LSCAT` complete when their checks hold and the queue has
room: they become items of the group, with all they need captured; no memory and no scratch changes yet. -/
def Obligations.CopiesAndListsIssue : Prop :=
  ∀ d a b m raw lraw o,
    (∀ x ∈ [(Instr.cpy d a b m, false, [1, 2, 3]), (.cpys d a b m, true, [1, 2])],
      GroupDone x.1 false
        (fun c => CheckedKinds c (resourceIndex c c.b) x.2.2 raw ∧ CopyFits c (entryOf raw) o ∧ flightCount c.s c.g isCopy < 256)
        (fun c => withItem c (.copy (copyAt c x.2.1 raw o)) .running)) ∧
    (∀ x ∈ [(Instr.lgath d a b m, false, [1, 2, 3]), (.lscat d a b m, true, [1, 2])],
      GroupDone x.1 false (fun c => ListFits c x.2.2 lraw raw ∧ flightCount c.s c.g isList < 16)
        (fun c => withItem c (.list (listAt c x.2.1 lraw raw)) .running))

/-- R36, R241, R242: `BATCH` closes the pending items under the next number and writes it to D; `WAITB` completes when every
batch up to its number is complete without a fault, and the group keeps the later ones. -/
def Sys2Proof.Claims.BatchesCloseAndEnd : Prop :=
  ∀ u a m,
    GroupDone (.batch u m) true (fun c => c.g.bclose + 1 < 2 ^ 32 ∧ openBatches c.g < 16) (fun c =>
      let n := c.g.bclose + 1
      (sendItems c.s c.g.pend,
       slotWith { c.g with bclose := n, pend := []
                           batches := c.g.batches ++ [{ num := n, items := c.g.pend, complete := itemsFinished c.s c.g.pend
                                                        shown := false }] } c.d n)) ∧
    GroupDone (.waitb a m) true
      (fun c => c.r.replay = none ∧ waitNumber c ≤ c.g.bclose ∧ ∀ b ∈ c.g.batches, b.num ≤ waitNumber c → batchClean c.s b = true)
      (fun c =>
        (forgetItems c.s ((c.g.batches.filter fun b => b.num ≤ waitNumber c).flatMap (·.items)),
         { c.g with batches := c.g.batches.filter fun b => waitNumber c < b.num }))

/-- R36, R93, R241: outside a replay `WAITB` waits while a batch up to its number is not complete; when they all are and one
has faulted, every selected lane parks with the fault of the first such batch. -/
def Sys2Proof.Claims.WaitsForBatches : Prop :=
  ∀ a m s k g r, issuing s = some (k, g, r) → g.pass = none → legal (.waitb a m) = true → groupE g (.waitb a m) true ≠ 0 →
    let c := gctx s k g r (.waitb a m) true
    r.replay = none → waitNumber c ≤ g.bclose →
    let covered := g.batches.filter fun b => b.num ≤ waitNumber c
    (covered.any (fun b => !b.complete) = true → exec (.waitb a m) s = .next (endTurn
      (putGroup s k { g with wait := .batch (waitNumber c), lastIssue := s.prevIssue }) k)) ∧
    (covered.all (fun b => b.complete) = true → ∀ f, covered.findSome? (batchFault s) = some f →
      ∃ t, exec (.waitb a m) s = .next t ∧ ∃ h, smFind t.groups k = some h ∧
        (∀ l < 32, (selectedMask g).getLsbD l = true → ∃ rec, (getLane h l).hold = .pending rec ∧ rec.cause = f.cause ∧
          rec.va = f.va ∧ rec.elem = f.elem ∧ rec.res = f.res) ∧
        (∀ l < 32, (selectedMask g).getLsbD l = false → (getLane h l).hold = (getLane g l).hold))

namespace Sys2Proof.Claims

open Sys2Proof.Machine

/-- R240, R241, R257, R378: a copy in flight reaches its point: it is the first of its engine, no older matrix instruction of its
group has still to take the scratch that it writes (R203), no stopped copy holds the scratch that it names, no access of the matrix
engine that its group queued before it is still to come (R215), nothing holds its lines, and its bytes can be injected. -/
def CopyReaches (s : State) (id : Nat) (x : Item) (c : CopyDesc) : Prop :=
  smFind s.items id = some x ∧ x.kind = .copy c ∧ inFlight x = true ∧
  copyQueued s id x c = false ∧ (c.store = true ∨ c.core = true ∨ itemClaimed s id x c.place c.off c.len = false) ∧
  stoppedHolds s id (!c.core) c.place (!c.store) (copyBytes c) = false ∧
  itemFollows s id x = false ∧ itemReady s id x (copyEnds s x.part c) (unitsLeft c * unitBytes (entryOf c.entry)) = true

/-- R241, R296, R257, R378: a list instruction in flight reaches its point. -/
def ListReaches (s : State) (id : Nat) (x : Item) (l : ListDesc) : Prop :=
  smFind s.items id = some x ∧ x.kind = .list l ∧ inFlight x = true ∧
  listQueued s id x l = false ∧ (l.scatter = true ∨ l.core = true ∨ itemClaimed s id x l.place l.off l.len = false) ∧
  stoppedHolds s id (!l.core) l.place (!l.scatter) (listBytes l) = false ∧
  itemFollows s id x = false ∧ itemReady s id x (indexAddrs l l.todo ++ listAddrs s x.part l l.todo)
    (l.todo.length * l.width * Machine.sizeOf (entryOf l.data).fmt) = true

/-- R219, R222, R346: a line request at an address writes no record: the channel holds the page's translation and the line can be
read as it is, or the line is a peer's. -/
def Served (s : State) (p va : Nat) : Prop :=
  ∃ x, smFind s.parts p = some x ∧
    ((peerWindowOf x (lineOf va)).isSome = true ∨ ((tlbLookup x (lineOf va)).isSome = true ∧ lineBad s x (lineOf va) = false))

/-- R219, R220, R345: a read that the device makes for itself writes no record: the channel holds the page's translation, and the
line is neither lost nor to be rebuilt, or it is a peer's. -/
def Quiet (s : State) (p va : Nat) : Prop :=
  ∃ x, smFind s.parts p = some x ∧ ((peerWindowOf x va).isSome = true ∨
    ((tlbLookup x va).isSome = true ∧ lineBad s x va = false ∧ lineOf va ∉ x.lost))

/-- R324, R328: what an access to a resource reads beside its elements writes no record: the freeze count of one that is written,
the record and the entries of a handle that is read. -/
def NamesServed (s : State) (p res : Nat) (e : Entry) (write : Bool) : Prop :=
  (write = true → Quiet s p (freezeAddr s p res)) ∧ (write = false → e.kind = 3 → ∀ a ∈ handleReads s p e, Quiet s p (lineOf a))

/-- No request for the lines of a copy writes a record. -/
def CopyServed (s : State) (x : Item) (c : CopyDesc) : Prop :=
  NamesServed s x.part c.res.toNat (entryOf c.entry) c.store ∧ ∀ a ∈ copyAddrs s x.part c c.next (c.rows * copyPerRow c), Served s x.part a ∧ Served s x.part (a + unitBytes (entryOf c.entry) - 1)

/-- No request for the lines of a list instruction writes a record. -/
def ListServed (s : State) (x : Item) (l : ListDesc) : Prop :=
  NamesServed s x.part l.res.toNat (entryOf l.data) l.scatter ∧
  ∀ a ∈ indexAddrs l l.todo ++ listAddrs s x.part l l.todo, Served s x.part a

/-- A partition without a rate limit. -/
def Unlimited (s : State) (p : Nat) : Prop := ∃ x, smFind s.parts p = some x ∧ x.rate = 0

/-- R217: the bytes of a crew's region, or of all cluster scratch. -/
def scratchOf (s : State) (core : Bool) (place : Nat) : List Host.Cell :=
  if core then (match smFind s.crews place with | some x => x.scratch | none => []) else s.cscratch

/-- R217: where offset `off` of a place stands in those bytes. -/
def offsetIn (core : Bool) (place off : Nat) : Nat := if core then off else place * 2 ^ 21 + off

/-- R232, R324: a resource may be written. -/
def MayWrite (s : State) (p res : Nat) (e : Entry) : Prop := e.ro = false ∧ e.gre = false ∧ freezeCount s p res = 0

/-- R295: list entry `r` names row `j`, in bounds. -/
def Names (s : State) (p : Nat) (l : ListDesc) (r j : Nat) : Prop :=
  listValue s p l r = .ok (some j) ∧ rowInside (entryOf l.data) l.width j = true

/-- R296: the elements of the entries that are left, entry by entry. -/
def listPlaces (l : ListDesc) : List (Nat × Nat) := l.todo.flatMap fun r => (List.range l.width).map fun w => (r, w)

end Sys2Proof.Claims

/-- R241, R203, R257: a copy that reaches its point moves as a whole: it ends complete or stopped on a fault, and one that stops
when its group is gone leaves nothing (R344). A `CPY` without a
fault or a drop changes no byte of memory when its line requests write no record, and of cluster scratch only bytes of its
units; a `CPYS` changes no scratch. Otherwise the step is not taken yet. -/
def Sys2Proof.Claims.CopiesTransfer : Prop :=
  (∀ s id, (∀ x c, ¬ CopyReaches s id x c) → ∀ t, exec (.copyTransfer id) s ≠ .next t) ∧
  ∀ s id x c, CopyReaches s id x c →
    ∃ t d st, exec (.copyTransfer id) s = .next t ∧
      smFind t.items id = (if st = .complete ∨ groupLives s x.owner = true then some { x with kind := .copy d, istate := st } else none) ∧
      (st = .complete ∨ ∃ f, st = .stopped f) ∧
      (c.store = true → t.cscratch = s.cscratch ∧ t.crews = s.crews) ∧
      (c.store = false → st = .complete → d.drops = 0 → CopyServed s x c → t.mem = s.mem) ∧
      (c.store = false → c.core = true → t.cscratch = s.cscratch) ∧
      (c.store = false → c.core = false → t.crews = s.crews ∧
        ∀ y, (∀ n, c.next ≤ n → n < c.rows * copyPerRow c →
            let at_ := c.place * 2 ^ 21 + (copyPlace c (entryOf c.entry) n).1
            ¬ (at_ ≤ y ∧ y < at_ + unitBytes (entryOf c.entry))) →
          memGet t.cscratch y = memGet s.cscratch y)

/-- R240, R241: a `CPY`, into cluster scratch or into the region of a crew on its core, whose units are all in bounds and
readable, of elements of 8 bits or more, ends complete, and each unit stands in scratch as read, unless a later unit of the
copy has the same place. -/
def Sys2Proof.Claims.CopiesPlaceTheirElements : Prop :=
  ∀ s id x c, CopyReaches s id x c → c.store = false → c.next = 0 → (c.core = true → (smFind s.crews c.place).isSome = true) →
    let e := entryOf c.entry
    tyIsBlock e.fmt = false → 8 ≤ tyBits e.fmt → Unlimited s x.part →
    ∀ v : Nat → Nat, (∀ n < c.rows * copyPerRow c,
        (copyCoords c e n).2.2 = true ∧ readElement s x.part e (copyCoords c e n).1 = .ok (v n)) →
      ∃ t, exec (.copyTransfer id) s = .next t ∧ (smFind t.items id).map (·.istate) = some .complete ∧
        ∀ n < c.rows * copyPerRow c,
          (∀ n' < c.rows * copyPerRow c, n < n' →
            (copyPlace c e n').1 + Machine.sizeOf e.fmt ≤ (copyPlace c e n).1 ∨
            (copyPlace c e n).1 + Machine.sizeOf e.fmt ≤ (copyPlace c e n').1) →
          memRead (scratchOf t c.core c.place) (offsetIn c.core c.place (copyPlace c e n).1) (Machine.sizeOf e.fmt)
            = v n % 2 ^ (8 * Machine.sizeOf e.fmt)

/-- R240, R241: a `CPYS` whose units are all in bounds of a resource that may be written, of elements and not blocks, ends
complete; memory is as the stores of its units leave it, one after another, each with the element of scratch at its place. -/
def Sys2Proof.Claims.CopiesStoreTheirElements : Prop :=
  ∀ s id x c, CopyReaches s id x c → c.store = true → c.next = 0 → c.drops = 0 →
    let e := entryOf c.entry
    tyIsBlock e.fmt = false → e.gwe = false → Unlimited s x.part → CopyServed s x c →
    ∀ u : Nat → State, u 0 = s → (∀ n < c.rows * copyPerRow c,
        (copyCoords c e n).2.2 = true ∧ MayWrite (u n) x.part c.res.toNat e ∧
        writeElement (u n) x.part e (copyCoords c e n).1 (copySource (u n) c e n) = .ok (u (n + 1))) →
      ∃ t, exec (.copyTransfer id) s = .next t ∧ (smFind t.items id).map (·.istate) = some .complete ∧
        t.mem = (u (c.rows * copyPerRow c)).mem

/-- R296, R298, R257: a list instruction that reaches its point moves as a whole: it ends complete, with no entry left, or
stopped with the entries that faulted left, and leaves nothing when it stops and its group is gone (R344). A `LGATH` without a fault or a drop changes no byte of memory when its line
requests write no record, a `LSCAT` no scratch. Otherwise the step is not taken yet. -/
def Sys2Proof.Claims.ListsTransfer : Prop :=
  (∀ s id, (∀ x l, ¬ ListReaches s id x l) → ∀ t, exec (.listTransfer id) s ≠ .next t) ∧
  ∀ s id x l, ListReaches s id x l →
    ∃ t d st, exec (.listTransfer id) s = .next t ∧
      smFind t.items id = (if st = .complete ∨ groupLives s x.owner = true then some { x with kind := .list d, istate := st } else none) ∧
      ((st = .complete ∧ d.todo = []) ∨ ((∃ f, st = .stopped f) ∧ d.todo ≠ [] ∧ ∀ n ∈ d.todo, n ∈ l.todo)) ∧
      (l.scatter = true → t.cscratch = s.cscratch ∧ t.crews = s.crews) ∧
      (l.scatter = false → st = .complete → d.drops = 0 → ListServed s x l → t.mem = s.mem)

/-- R295 to R297: a `LGATH` all of whose entries name rows in bounds and readable ends complete, and each element of each row
stands in scratch at its place, as it was at the point of the instruction. -/
def Sys2Proof.Claims.ListsGatherRows : Prop :=
  ∀ s id x l, ListReaches s id x l → l.scatter = false → (l.core = true → (smFind s.crews l.place).isSome = true) →
    let e := entryOf l.data
    Unlimited s x.part → l.todo.Nodup → l.width * Machine.sizeOf e.fmt ≤ l.rp →
    ∀ (j : Nat → Nat) (v : Nat → Nat → Nat), (∀ r ∈ l.todo, Names s x.part l r (j r) ∧
        ∀ w < l.width, readElement s x.part e (coordsOf e (j r * l.width + w)) = .ok (v r w)) →
      ∃ t, exec (.listTransfer id) s = .next t ∧ (smFind t.items id).map (·.istate) = some .complete ∧
        ∀ r ∈ l.todo, ∀ w < l.width,
          memRead (scratchOf t l.core l.place) (offsetIn l.core l.place (listPlace l e r w)) (Machine.sizeOf e.fmt)
            = v r w % 2 ^ (8 * Machine.sizeOf e.fmt)

/-- R295, R296: a `LSCAT` all of whose entries name rows in bounds of a resource that may be written ends complete; memory is as
the stores of the elements leave it, entry by entry, each with the element of scratch at its place. -/
def Sys2Proof.Claims.ListsScatterRows : Prop :=
  ∀ s id x l, ListReaches s id x l → l.scatter = true → l.drops = 0 →
    let e := entryOf l.data
    e.gwe = false → Unlimited s x.part → ListServed s x l → MayWrite s x.part l.res.toNat e →
    ∀ j : Nat → Nat, (∀ r ∈ l.todo, Names s x.part l r (j r)) →
    ∀ u : Nat → State, u 0 = s → (∀ n r w, (listPlaces l)[n]? = some (r, w) →
        writeElement (u n) x.part e (coordsOf e (j r * l.width + w)) (listSource (u n) l e r w) = .ok (u (n + 1))) →
      ∃ t, exec (.listTransfer id) s = .next t ∧ (smFind t.items id).map (·.istate) = some .complete ∧
        t.mem = (u (listPlaces l).length).mem

/-- R36, R241: a closed batch completes when its items have all finished. -/
def Sys2Proof.Claims.BatchesComplete : Prop :=
  ∀ s owner n k g b, groupOfUid s owner = some (k, g) → b ∈ g.batches → b.num = n → b.complete = false →
    (∀ id ∈ b.items, ∀ x, smFind s.items id = some x → inFlight x = false) →
    exec (.batchComplete owner n) s = .next (putGroup s k
      { g with batches := g.batches.map fun b => if b.num = n then { b with complete := true } else b })

namespace Sys2Proof.Claims

open Sys2Proof.Machine

/-! #### Work lists and barriers -/

/-- R257, R349, R378: nothing keeps the group's step at a list's home waiting, which touches the lines of `x`. -/
def homeFree (c : Ctx) (x : Touched) : Prop :=
  accessWaits c.s c.g.part (coreOfKey c.k) (x.reads ++ x.writes) x.bytes = false

/-- R346, R378: the state in which the step is made: its bytes have passed, and each line that it reads and that must be rebuilt
has its event. -/
def atHome (c : Ctx) (x : Touched) : State := accessMade c.s c.g.part (coreOfKey c.k) x.reads x.bytes

/-- R274, R279: the entry of a work list passes its checks, and the type of the items fits. -/
def ListChecked (c : Ctx) (res : Nat) (raw : BitVec 512) : Prop :=
  CheckedKinds c res [6] raw ∧ tyBits c.ty = 8 * itemSize (entryOf raw)

/-- R280: the values that the lanes of E push, ascending. -/
def pushed (c : Ctx) : List Nat := (lanesOf c.e).map fun l => regValue (getLane c.g l) c.d (tyBits c.ty)

/-- R280: the lowest lanes of E take one item each. -/
def popped (c : Ctx) (vs : List Nat) : Group :=
  mapLanes c.g fun l ln => match ((lanesOf c.e).zip vs).find? fun x => x.1 == l with
    | some (_, v) => loaded ln c.d c.ty v
    | none => ln

/-- R280: the count goes into slot A. -/
def counted (c : Ctx) (g : Group) (n : Nat) : Group := slotWith g (c.a - 0xD0) n

/-- R92: the timer of a chair restarts when a push finds its list empty. -/
def timed (t : State) (p : Nat) (l : WList) (n : Nat) : State := if l.tail = l.head ∧ n ≠ 0 then restartTimer t p l.hdr else t

/-- R37, R270: a barrier as a group's instruction finds it. -/
def barrierAt (c : Ctx) : Barrier := barrierOf c.s (barrierIsCluster c.i) (barrierKey c.s c.g (barrierIsCluster c.i)) (c.d % 16)

/-- R37, R270: the count that the instruction expects is in range and fits the barrier's. -/
def barrierOk (c : Ctx) : Prop :=
  let n := readUni c c.a 6
  1 ≤ n ∧ n ≤ barrierLimit c.s c.g (barrierIsCluster c.i) ∧ ((barrierAt c).exp = 0 ∨ n = (barrierAt c).exp.toNat)

/-- R270: the barrier after an arrival: the last one ends the round. -/
def arrived (b : Barrier) (n : Nat) : Barrier :=
  if b.arr.toNat + 1 = n then { round := b.round + 1, exp := 0, arr := 0 }
  else { round := b.round, exp := BitVec.ofNat 6 n, arr := b.arr + 1 }

/-- The state with a barrier as an arrival leaves it. -/
def withArrival (c : Ctx) : State :=
  putBarrier c.s (barrierIsCluster c.i) (barrierKey c.s c.g (barrierIsCluster c.i)) (c.d % 16)
    (arrived (barrierAt c) (readUni c c.a 6))

/-- R270: the group waits for the round in which it found the barrier. -/
def waiting (c : Ctx) : Group :=
  { c.g with wait := .bar (barrierIsCluster c.i) (barrierKey c.s c.g (barrierIsCluster c.i)) (c.d % 16) (barrierAt c).round }

end Sys2Proof.Claims

/-- R276, R280: one item that is pushed stands in the segment at the tail, at the home of the list, and memory is unchanged as
long as every item at the home lies in the segment at the head or in that at the tail; an item at the head that stands at the
home is taken without a read of the ring. When segments move is the model's choice (notes/assumptions/21). -/
def Sys2Proof.Claims.WorkListsKeepSegments : Prop :=
  ∀ s p x (l : WList), smFind s.parts p = some x →
    (∀ v w, writeBytes s p (ringSlot l l.tail) l.size v = .ok w → l.head ≤ l.tail →
      (∀ y ∈ residentOf s p l.hdr, l.head ≤ y.1 ∧ y.1 < l.tail ∧
        (segmentOf l y.1 = segmentOf l l.head ∨ segmentOf l y.1 = segmentOf l l.tail)) →
      ∃ t, appendItems s p l [v] = .ok (t, { l with tail := l.tail + 1 }) ∧ t.mem = s.mem ∧ itemValue t p l l.tail = .ok v) ∧
    (∀ v, smFind (residentOf s p l.hdr) l.head = some v →
      ∃ t, takeItems s p l 1 = .ok (t, [v], { l with head := l.head + 1 }) ∧ t.mem = s.mem)

/-- R276, R280, R283: `WLPUSH` appends the values of E in lane order, as many as there is room for; `WLPOP` gives the oldest
items to the lowest lanes of E; both write the count to A; `WLCNT` writes the number of items to D. Each is one step, made when
nothing holds a line that it touches, which reads the list's header and writes its counts; where the items stand and the bytes
of the step are the model's choice (notes/assumptions/21, notes/assumptions/54). -/
def Sys2Proof.Claims.WorkListsPushAndPop : Prop :=
  ∀ u a b m raw l,
    let pushes := fun (c : Ctx) => touchPush c.s c.g.part (lanesOf c.e).length (entryOf raw)
    let pops := fun (c : Ctx) => touchPop c.s c.g.part (lanesOf c.e).length (entryOf raw)
    (∀ t, GroupDone (.wlpush u a b m) false
      (fun c => ListChecked c (resourceIndex c c.b) raw ∧ everyLane c (fun x => regInside x.g x.ln x.d (tyBits x.ty)) ∧
        homeFree c (pushes c) ∧ readList (atHome c (pushes c)) c.g.part (entryOf raw) = .ok l ∧
        (do let x ← appendItems (atHome c (pushes c)) c.g.part l ((pushed c).take (l.cap - (l.tail - l.head)))
            writeCounts x.1 c.g.part x.2) = .ok t)
      (fun c =>
        let n := min (lanesOf c.e).length (l.cap - (l.tail - l.head))
        (timed t c.g.part l n, counted c (lanesBy c fun x => x.ln) n))) ∧
    (∀ t w vs l', GroupDone (.wlpop u a b m) false
      (fun c => ListChecked c (resourceIndex c c.b) raw ∧ everyLane c (fun x => regInside x.g x.ln x.d (tyBits x.ty)) ∧
        homeFree c (pops c) ∧ readList (atHome c (pops c)) c.g.part (entryOf raw) = .ok l ∧
        takeItems (atHome c (pops c)) c.g.part l (min (lanesOf c.e).length (l.tail - l.head)) = .ok (w, vs, l') ∧
        writeCounts w c.g.part l' = .ok t)
      (fun c => (t, counted c (popped c vs) (min (lanesOf c.e).length (l.tail - l.head))))) ∧
    GroupDone (.wlcnt u a m) true
      (fun c => CheckedKinds c (resourceIndex c c.a) [6] raw ∧ homeFree c (touchHeader (entryOf raw) 0) ∧
        readList (atHome c (touchHeader (entryOf raw) 0)) c.g.part (entryOf raw) = .ok l)
      (fun c => (atHome c (touchHeader (entryOf raw) 0), slotWith c.g c.d (l.tail - l.head)))

/-- R281: `WLINS` with keys that have bits in the list's bitmap takes them in lane order: a key whose bit is clear, while
there is room, has its bit set and is appended; p14 of its lane says so, p15 the opposite, and A takes the count. Where
the items stand is notes/assumptions/21. -/
def Sys2Proof.Claims.WorkListsInsert : Prop :=
  ∀ u a b m raw l,
    (∀ s k g r, Issues s k g r → legal (.wlins u a b m) = true → setE g (.wlins u a b m) ≠ 0 →
      let c := gctx s k g r (.wlins u a b m) false
      let keys := touchInsert s g.part ((lanesOf c.e).map fun j => regValue (getLane g j) c.d 32) (entryOf raw)
      ListChecked c (resourceIndex c c.b) raw → everyLane c (fun x => regInside x.g x.ln x.d 32) → homeFree c keys →
      readList (atHome c keys) g.part (entryOf raw) = .ok l → everyLane c (fun x => decide (regValue x.ln x.d 32 < l.bmapn)) →
      ∀ x : Nat → State × WList, ∀ stored : Nat → Bool, x 0 = (atHome c keys, l) →
        (∀ j lane, (lanesOf c.e)[j]? = some lane →
          insertKey (x j).1 g.part (x j).2 (regValue (getLane g lane) c.d 32) = .ok ((x (j + 1)).1, (x (j + 1)).2, stored lane)) →
        let last := x (lanesOf c.e).length
        ∀ t, writeCounts last.1 g.part last.2 = .ok t →
        let n := ((lanesOf c.e).filter stored).length
        exec (.wlins u a b m) s = .next (switchedTo (timed t g.part l n) k (advance
          (counted c (lanesBy c fun y => { y.ln with preds := setPred (setPred y.ln.preds 14 (stored y.l)) 15 (!stored y.l) }) n)
          r (.wlins u a b m)))) ∧
    (∀ s p key w, readBytes s p (l.bmap + key / 32 * 4) 4 = .ok w →
      (w.testBit (key % 32) = true ∨ l.cap ≤ l.tail - l.head → insertKey s p l key = .ok (s, l, false)) ∧
      (w.testBit (key % 32) = false → l.tail - l.head < l.cap → ∀ t v,
        writeBytes s p (l.bmap + key / 32 * 4) 4 (w + 2 ^ (key % 32)) = .ok t →
        appendItems t p l [key] = .ok v → insertKey s p l key = .ok (v.1, v.2, true)))

/-- R284: `WLBIND` answers in D: 2 for slots that are reserved or do not fit, for an unbind of a list that is not bound, for
a list that is bound already and for a kernel that accepts no launch, without any other effect; 1 for an unbind; 0 for a new
chair. -/
def Sys2Proof.Claims.WorkListsBind : Prop :=
  ∀ u a b m raw l,
    let header : Touched := { touchHeader (entryOf raw) 0 with writes := [bitsOf (entryOf raw).ksp 0 52] }
    let fits := fun (c : Ctx) => CheckedKinds c (resourceIndex c c.b) [6] raw ∧ homeFree c header ∧
      readList (atHome c header) c.g.part (entryOf raw) = .ok l
    GroupDone (.wlbind u a b m) true
      (fun c => fits c ∧ let x := bindSlots c.g c.a
        x.reserved = true ∨ (x.limit ≠ 0 ∧ x.period = 0) ∨ (x.limit = 0 ∧ l.bound = false) ∨
          (x.limit ≠ 0 ∧ (l.bound = true ∨ (launchableKernel (atHome c header) c.g.part x.kernel).isNone = true)))
      (fun c => (atHome c header, slotWith c.g c.d 2)) ∧
    (∀ t, GroupDone (.wlbind u a b m) true
      (fun c => fits c ∧ let x := bindSlots c.g c.a
        x.reserved = false ∧ x.limit = 0 ∧ l.bound = true ∧
          writeBytes (atHome c header) c.g.part l.hdr 128 (l.raw - 2 ^ 290) = .ok t)
      (fun c => (unbindChair t c.g.part l.hdr, slotWith c.g c.d 1))) ∧
    (∀ t, GroupDone (.wlbind u a b m) true
      (fun c => fits c ∧ let x := bindSlots c.g c.a
        x.reserved = false ∧ x.limit ≠ 0 ∧ x.period ≠ 0 ∧ l.bound = false ∧
          (launchableKernel (atHome c header) c.g.part x.kernel).isSome = true ∧
          writeBytes (atHome c header) c.g.part l.hdr 128 (l.raw % 2 ^ 256 + x.kernel * 2 ^ 256 + min x.cls c.g.cls.toNat * 2 ^ 288 + 2 ^ 290
            + x.limit * 2 ^ 296 + x.period * 2 ^ 304 + x.cid * 2 ^ 320) = .ok t)
      (fun c =>
        let x := bindSlots c.g c.a
        ({ putLaunch t t.nextUid (chairLaunch c.g.part raw l.hdr x (BitVec.ofNat 2 (min x.cls c.g.cls.toNat))) with
             nextUid := t.nextUid + 1 },
         slotWith c.g c.d 0)))

/-- R37, R269, R270: `BARA` arrives; `BARW` waits for the end of the round; `BARAW` arrives and, when the round has not ended,
waits for its end. -/
def Obligations.Barriers : Prop :=
  ∀ n a m,
    GroupDone (.bara n a m) true barrierOk (fun c => (withArrival c, c.g)) ∧
    GroupDone (.barw n a m) true barrierOk (fun c => (c.s, waiting c)) ∧
    GroupDone (.baraw n a m) true barrierOk (fun c =>
      (withArrival c, if (arrived (barrierAt c) (readUni c c.a 6)).round = (barrierAt c).round then waiting c else c.g))

namespace Sys2Proof.Claims

open Sys2Proof.Machine

/-! #### The matrix engine -/

/-- R193, R194: the smallest supported M at or above a request, or the largest. -/
def grantM (m : Nat) : Nat := if m ≤ 16 then 16 else if m ≤ 32 then 32 else 64
/-- R193, R194: the smallest supported N at or above a request, or the largest. -/
def grantN (n : Nat) : Nat := if n ≤ 16 then 16 else if n ≤ 32 then 32 else if n ≤ 64 then 64 else 128
/-- R193: the K of a format: 32 of 16-bit formats, 64 of 8-bit formats, 128 of 4-bit formats, 32 of block formats. -/
def grantK (t : BitVec 5) : Nat := if tyIsBlock t then 32 else 512 / tyBits t

/-- R192, R194, R210: the shape register that a request writes. -/
def granted (t : BitVec 5) (m n k : Nat) : ShapeReg :=
  { rm := min m 65535, rn := min n 65535, rk := k, gm := grantM m, gn := grantN n, gk := grantK t
    gks := if tyIsBlock t then 0 else grantK t * 3 / 2, fmt := t, v := true }

/-- R34, R210: a group after `SETSHAPE`: the register, the masks cut to the requests, and q1. -/
def shaped (c : Ctx) (z : BitVec 3) (k : Nat) : Group :=
  let m := readUni c c.a 6
  let n := readUni c c.b 6
  let x := granted c.ty m n k
  { c.g with
    shapes := smSet 0 c.g.shapes z.toNat (shapeBits x)
    rowm := smSet 0 c.g.rowm (z.toNat % 4) (BitVec.ofNat 64 (2 ^ min m x.gm - 1))
    colm := smSet 0 c.g.colm (z.toNat % 4) (BitVec.ofNat 128 (2 ^ min n x.gn - 1))
    qpreds := setPred c.g.qpreds 1 (decide (x.gm = m) && decide (x.gn = n) && decide (x.gk = k)) }

/-- R211: three slots take the grant, zeros when nothing is granted. -/
def grantRead (c : Ctx) (z : BitVec 3) (sparse : Bool) : Group :=
  let x := shapeReg c.g z.toNat
  let v := fun n => if x.v then n else 0
  slotWith (slotWith (slotWith c.g c.d (v x.gm)) (c.d + 1) (v x.gn)) (c.d + 2) (v (if sparse then x.gks else x.gk))

/-- R195, R197: the row mask and the column mask of a shape register. -/
def rowMask (c : Ctx) (z : BitVec 3) : DWord := smGet 0 c.g.rowm (z.toNat % 4)
/-- R195, R197. -/
def colMask (c : Ctx) (z : BitVec 3) : BitVec 128 := smGet 0 c.g.colm (z.toNat % 4)

/-- R331: where an instruction stands in a queue: behind those of earlier cycles and, in its own cycle, behind those of lower
sequencers and the earlier ones of its own. -/
def queuedBehind (o : EngOp) (ops : List EngOp) : List EngOp :=
  let later := fun (x : EngOp) => x.cycle = o.cycle ∧ o.group / 8 % 4 < x.group / 8 % 4
  ops.takeWhile (fun x => !decide (later x)) ++ o :: ops.dropWhile (fun x => !decide (later x))

/-- R197, R203: a matrix instruction enters the queue of its core's engine with what it has captured, and owns the bytes of
its operands at once unless the schedule, a copy or a queued access of the group puts that off (notes/assumptions/24). `frags` are
the registers that it reads as fragments. -/
def queued (c : Ctx) (kind : EngKind) (rowm : DWord) (colm : BitVec 128) (extents : List (Nat × Nat × Nat))
    (frags : List (List Nat × Nat)) : State × Group :=
  let o : EngOp :=
    { group := c.k, sel := c.sel, kern := c.r.kern, cycle := c.s.cycle, cls := c.g.cls, kind := kind, rowm := rowm, colm := colm
      run := 0, extents := extents, frags := frags, since := c.s.nextItem, owned := none, lost := []
      trec := mkRec c.g c.r (encode c.i) c.l 0 0 { lane := c.l } }
  let put := if extents ≠ [] ∧ (c.s.defer = true ∨ ownershipWaits c.s o = true ∨ accessQueued c.s c.k c.s.nextItem = true) then o else { o with owned := some (ownOperands c.s o) }
  ({ c.s with engines := smSet [] c.s.engines (coreOfKey c.k) (queuedBehind put (smGet [] c.s.engines (coreOfKey c.k))) }, c.g)

/-- R209: the shape register is set, and to the format `t` where the instruction has one. -/
def shapeFits (c : Ctx) (z : BitVec 3) : Prop := (shapeReg c.g z.toNat).v = true ∧ (shapeReg c.g z.toNat).fmt = c.ty

/-- R195: the elements that the masks of a shape register select, row by row. -/
def selectedElements (c : Ctx) (z : BitVec 3) : List (Nat × Nat) :=
  pickedElements (shapeReg c.g z.toNat).gm (shapeReg c.g z.toNat).gn (rowMask c z) (colMask c z)

/-- R197, R215, R216: an instruction that moves a tile: its tile exists, its shape is set, no queued instruction of the group
names the tile and, where it reads the tile, no selected row is poisoned (R205). -/
def tileFree (c : Ctx) (z : BitVec 3) (t : BitVec 4) (reads : Bool) : Prop :=
  t.toNat < c.g.nacc ∧ (shapeReg c.g z.toNat).v = true ∧ tilesBusy c.s c.k (2 ^ t.toNat) = false ∧
    (reads = true → readsPoison (tileOf c.g t.toNat) (selectedElements c z) = false)

/-- A group with the elements of a tile replaced. -/
def withElems (g : Group) (t : Nat) (m : SMap Word) : Group := putTile g t { tileOf g t with elems := m }

/-- R215: the flat index of an element of a tile in memory: slots s + 1 and s + 2 give the first and the pitch. -/
def indexIn (c : Ctx) (x : Nat × Nat) : Nat :=
  slotValue c.g (c.a - 0xD0 + 1) 32 + x.1 * slotValue c.g (c.a - 0xD0 + 2) 32 + x.2

/-- R215: the resource of a tile in memory passes its checks. -/
def tileResource (c : Ctx) (raw : BitVec 512) : Prop :=
  resourceEntry c.s c.g.part (slotValue c.g (c.a - 0xD0) 32) = .ok raw ∧ checkEntry raw [1] (some c.ty) = .ok (entryOf raw)

/-- R202, R215: the extent in scratch of the elements of a tile. -/
def tileExtent (c : Ctx) (z : BitVec 3) : OperandShape :=
  { rows := (shapeReg c.g z.toNat).gm, width := rowBytes c.ty (shapeReg c.g z.toNat).gn, side := 0 }

/-- R215: where the `scr` form of a move finds its elements. -/
def scratchPlace (c : Ctx) : TilePlace :=
  .scratch (clusterOfCore (coreOfKey c.k)) (scratchSlots c.g c.a).off (scratchSlots c.g c.a).rp

/-- R215: where the `mem` form finds them. -/
def memoryPlace (c : Ctx) (raw : BitVec 512) : TilePlace :=
  .mem raw (slotValue c.g (c.a - 0xD0) 32) (slotValue c.g (c.a - 0xD0 + 1) 32) (slotValue c.g (c.a - 0xD0 + 2) 32)

/-- R203, R215: a load from scratch names this extent for the engine to own. -/
def loadExtent (c : Ctx) (z : BitVec 3) : List (Nat × Nat × Nat) :=
  [(clusterOfCore (coreOfKey c.k), (scratchSlots c.g c.a).off,
    ((tileExtent c z).rows - 1) * (scratchSlots c.g c.a).rp + (tileExtent c z).width)]

/-- R215: every selected element lies in the resource and can be stored, one after another. -/
def storesFit (c : Ctx) (z : BitVec 3) (t : BitVec 4) (raw : BitVec 512) : Prop :=
  ∃ x : Nat → State, x 0 = c.s ∧ ∀ j el, (selectedElements c z)[j]? = some el →
    indexIn c el < elementCount (entryOf raw) ∧ freezeCount (x j) c.g.part (resourceIndex c c.a) = 0 ∧
    writeElement (x j) c.g.part (entryOf raw) (coordsOf (entryOf raw) (indexIn c el))
      (leaveTile c.ty (extOf c.i) (smGet 0 (tileOf c.g t.toNat).elems (128 * el.1 + el.2))) = .ok (x (j + 1))

/-- R198, R331: the engine of a core takes instruction `o` of group `g`, the `n`th of its queue, in a cycle after that of its issue,
and nothing makes it wait. -/
def EngineTakes (s : State) (e : EngineTurn) (n : Nat) (o : EngOp) (g : Group) : Prop :=
  engineChoice s (smGet [] s.engines e.core) = some (n, o) ∧ smFind s.groups o.group = some g ∧ o.cycle ≠ s.cycle ∧
    engineWaits s g o = false

/-- R198, R200: the rank of a queued instruction: those of a group that is pre-empted above all others, then the class. -/
def takenFirst (s : State) (o : EngOp) : Nat :=
  (if (smFind s.groups o.group).any fun g => g.preempt then 4 else 0) + o.cls.toNat

/-- R201: element `e` of packed bytes, a w-bit pattern. -/
def packedElement (t : BitVec 5) (bs : List Byte) (e : Nat) : Nat :=
  if tyBits t = 4 then (bs.getD (e / 2) 0).toNat / 16 ^ (e % 2) % 16
  else if tyBits t = 8 then (bs.getD e 0).toNat
  else (bs.getD (2 * e) 0).toNat + 256 * (bs.getD (2 * e + 1) 0).toNat

/-- R76: the exact sum of the eight products of run `r` for element (m, n), an exact zero being -0 only when every product is. -/
def runSum (t : BitVec 5) (n kk r : Nat) (a b : List Byte) (row col : Nat) : FVal :=
  let f := formatOf t
  let product := fun i => fMul (fval f (packedElement t a (row * kk + 8 * r + i))) (fval f (packedElement t b ((8 * r + i) * n + col)))
  ((List.range 7).map fun i => product (i + 1)).foldl (fAdd .rne) (product 0)

/-- R76, R77: element (m, n) after run `r`. -/
def afterRun (t : BitVec 5) (n kk r : Nat) (a b : List Byte) (row col : Nat) (old : Word) : Word :=
  if tyIsFloat t then
    BitVec.ofNat 32 (roundVal (formatOf 16) .rne false
      (fAdd .rne (fval (formatOf 16) old.toNat) (toF32 (runSum t n kk r a b row col))))
  else
    BitVec.ofInt 32 (old.toNat + ((List.range 8).map fun i =>
      intVal t (packedElement t a (row * kk + 8 * r + i)) * intVal t (packedElement t b ((8 * r + i) * n + col))).sum)

/-- R204: the marks below place `j` of a metadata word. -/
def marksBelow (w j : Nat) : Nat := ((List.range j).filter fun i => w.testBit i).length

/-- R204: a metadata word has a reserved bit set or marks more than 12 positions. -/
def malformedWord (w : Nat) : Bool := decide (w / 2 ^ 24 % 2 ^ 8 ≠ 0) || decide (12 < marksBelow w 32)

/-- R201, R204: the metadata word of group `q` of a row: the words of `gm` rows of kk/24 stand behind their values. -/
def metadataWord (t : BitVec 5) (gm kk : Nat) (a : List Byte) (row q : Nat) : Nat :=
  leNat ((a.drop (gm * rowBytes t (kk / 2) + 4 * (row * (kk / 24) + q))).take 4)

/-- R204, R205: the value of a sparse row at position 8r + i; none: the position is absent, or its metadata word malformed or lost. -/
def sparseValue (t : BitVec 5) (gm kk r : Nat) (lost : List Nat) (a : List Byte) (row i : Nat) : Option Nat :=
  let w := metadataWord t gm kk a row (r / 3)
  let j := 8 * (r % 3) + i
  if row ∈ lost ∨ malformedWord w = true ∨ w.testBit j = false then none
  else some (packedElement t a (row * (kk / 2) + (12 * (r / 3) + marksBelow w j)))

/-- R76, R204, R205: element (m, n) after run `r` of a sparse product: an absent position gives a product of +0, or of 0. -/
def afterSparseRun (t : BitVec 5) (gm n kk r : Nat) (lost : List Nat) (a b : List Byte) (row col : Nat) (old : Word) : Word :=
  let factor := fun i => packedElement t b ((8 * r + i) * n + col)
  if tyIsFloat t then
    let product := fun i => match sparseValue t gm kk r lost a row i with
      | some v => fMul (fval (formatOf t) v) (fval (formatOf t) (factor i))
      | none => .fin false 0 0
    BitVec.ofNat 32 (roundVal (formatOf 16) .rne false (fAdd .rne (fval (formatOf 16) old.toNat)
      (toF32 (((List.range 7).map fun i => product (i + 1)).foldl (fAdd .rne) (product 0)))))
  else
    BitVec.ofInt 32 (old.toNat + ((List.range 8).map fun i => match sparseValue t gm kk r lost a row i with
      | some v => intVal t v * intVal t (factor i)
      | none => 0).sum)

/-- R69, R201: the block of a row, or of a column, in the bytes of an operand: its exponents and its elements, each with its
selector and its signed magnitude. -/
def blockOf (t : BitVec 5) (bs : List Byte) (row : Nat) : Nat × Nat × List (Bool × Int) :=
  blockParts t ((bs.drop (row * blockBytes t)).take (blockBytes t))

/-- R78, R206: the partial (i, j) of two blocks, as the integer that a tile holds. -/
def partialOf (i j : Nat) (x y : List (Bool × Int)) : Int :=
  ((List.range 32).map fun k =>
    let a := x.getD k (false, 0)
    let b := y.getD k (false, 0)
    if a.1 = decide (i = 1) ∧ b.1 = decide (j = 1) then a.2 * b.2 else 0).sum

/-- R78: an accumulator after one partial is added, scaled by its exponents and rounded once; the partial is held times 2^10 for
`.bx8` and 2^2 for `.bx4`. -/
def afterPartial (t : BitVec 5) (acc p : Word) (ea eb : Nat) : Word :=
  BitVec.ofNat 32 (roundVal (formatOf 16) .rne false (fAdd .rne (fval (formatOf 16) acc.toNat)
    (.fin (decide (p.toInt < 0)) p.toInt.natAbs ((ea : Int) + eb - 254 - (if t = 21 then 10 else 2)))))

/-- R195: the masks of a queued instruction and its sizes select element (row, col). -/
def opSelects (o : EngOp) (gm gn row col : Nat) : Prop :=
  row < gm ∧ o.rowm.getLsbD row = true ∧ col < gn ∧ o.colm.getLsbD col = true

end Sys2Proof.Claims

/-- R34, R192 to R195, R210, R211: `SETSHAPE` writes the smallest supported sizes at or above the request, cuts the masks to
the request and says in q1 whether the grant is the request; `GETSHAPE` reads a grant. Neither depends on anything else. -/
def Obligations.ShapesAreGranted : Prop :=
  ∀ u k z a b sl m,
    GroupDone (.setshape k z a b m) true
      (fun c => a ≠ 0x80 ∧ b ≠ 0x80 ∧ readUni c c.a 6 ≠ 0 ∧ readUni c c.b 6 ≠ 0) (fun c => (c.s, shaped c z (8 * k.toNat))) ∧
    GroupDone (.getshape u z sl m) true (fun _ => True) (fun c => (c.s, grantRead c z (sl = 1)))

/-- R197, R201 to R203, R209, R212 to R214, R331: `MMA`, `MMAS`, `MMABX`, `SCACC` and `ACCZ` enter the queue of the engine, with
shape, masks and operands captured, when their tiles exist, the shape fits and no queued instruction of the group names a
tile of theirs or writes a register that they read. The point at which they own their operands is the model's choice (notes/assumptions/24). -/
def Obligations.MatrixInstructionsQueue : Prop :=
  ∀ z t p a b m oa ea ob eb,
    (∀ x ∈ [(Instr.mma z t a b m, false), (.mmas z t a b m, true)],
      let kOf := fun (c : Ctx) => if x.2 then (shapeReg c.g z.toNat).gks else (shapeReg c.g z.toNat).gk
      GroupDone x.1 true
        (fun c => t.toNat < c.g.nacc ∧ shapeFits c z ∧ tilesBusy c.s c.k (2 ^ t.toNat) = false ∧
          fragMoved c c.a (shapeA x.2 c.ty (shapeReg c.g z.toNat).gm (kOf c)) = false ∧
          fragMoved c c.b (shapeB c.ty (shapeReg c.g z.toNat).gn (kOf c)) = false ∧
          captureOperand c c.a (shapeA x.2 c.ty (shapeReg c.g z.toNat).gm (kOf c)) = some (oa, ea) ∧
          captureOperand c c.b (shapeB c.ty (shapeReg c.g z.toNat).gn (kOf c)) = some (ob, eb))
        (fun c => queued c (.mma x.2 c.ty t.toNat (shapeReg c.g z.toNat).gm (shapeReg c.g z.toNat).gn (kOf c) oa ob)
          (rowMask c z) (colMask c z) (ea ++ eb)
          (fragsOf c c.a (shapeA x.2 c.ty (shapeReg c.g z.toNat).gm (kOf c)) ++ fragsOf c c.b (shapeB c.ty (shapeReg c.g z.toNat).gn (kOf c))))) ∧
    GroupDone (.mmabx z t a b m) true
      (fun c => t.toNat + 3 < c.g.nacc ∧ shapeFits c z ∧ tilesBusy c.s c.k (15 * 2 ^ t.toNat) = false ∧
        fragMoved c c.a (shapeBlocks c.ty (shapeReg c.g z.toNat).gm) = false ∧
        fragMoved c c.b (shapeBlocks c.ty (shapeReg c.g z.toNat).gn) = false ∧
        captureOperand c c.a (shapeBlocks c.ty (shapeReg c.g z.toNat).gm) = some (oa, ea) ∧
        captureOperand c c.b (shapeBlocks c.ty (shapeReg c.g z.toNat).gn) = some (ob, eb))
      (fun c => queued c (.mmabx c.ty t.toNat (shapeReg c.g z.toNat).gm (shapeReg c.g z.toNat).gn oa ob)
        (rowMask c z) (colMask c z) (ea ++ eb)
        (fragsOf c c.a (shapeBlocks c.ty (shapeReg c.g z.toNat).gm) ++ fragsOf c c.b (shapeBlocks c.ty (shapeReg c.g z.toNat).gn))) ∧
    GroupDone (.scacc z t p m) true
      (fun c => t.toNat < c.g.nacc ∧ p.toNat + 3 < c.g.nacc ∧ (shapeReg c.g z.toNat).v = true ∧
        tilesBusy c.s c.k (2 ^ t.toNat ||| 15 * 2 ^ p.toNat) = false ∧ tyIsBlock (tileOf c.g p.toNat).xfmt = true)
      (fun c => queued c (.scacc t.toNat p.toNat (shapeReg c.g z.toNat).gm (shapeReg c.g z.toNat).gn) (rowMask c z) (colMask c z) [] []) ∧
    GroupDone (.accz t m) true (fun c => t.toNat < c.g.nacc ∧ tilesBusy c.s c.k (2 ^ t.toNat) = false)
      (fun c => queued c (.accz t.toNat) 0 0 [] [])

/-- R197, R205, R215, R216: `ACCLD`, `ACCST` and `ACCRD` enter the queue of the engine, with shape, masks, place and registers
captured, when their tile exists, no queued instruction of the group names it, no selected row that they read is poisoned and, for
`ACCRD`, no queued instruction reads one of its registers as a fragment.
That the `mem` forms enter the queue when every selected element can be accessed as things stand, and else fault at issue, is
the model's choice (notes/assumptions/24). -/
def Sys2Proof.Claims.TileMovesQueue : Prop :=
  ∀ u z t a m raw,
    GroupDone (.accld z t a 1 m) true
      (fun c => tileFree c z t false ∧ scratchSlotsOk (scratchSlots c.g c.a) (tileExtent c z) = true)
      (fun c => queued c (.accld c.ty t.toNat (shapeReg c.g z.toNat).gm (shapeReg c.g z.toNat).gn (scratchPlace c))
        (rowMask c z) (colMask c z) (loadExtent c z) []) ∧
    GroupDone (.accst z t a 1 m) true
      (fun c => tileFree c z t true ∧ scratchSlotsOk (scratchSlots c.g c.a) (tileExtent c z) = true)
      (fun c => queued c (.accst c.ty (extOf c.i) t.toNat (shapeReg c.g z.toNat).gm (shapeReg c.g z.toNat).gn (scratchPlace c))
        (rowMask c z) (colMask c z) [] []) ∧
    GroupDone (.accrd u t z m) true
      (fun c =>
        let regs := ((shapeReg c.g z.toNat).gm * (shapeReg c.g z.toNat).gn * Machine.sizeOf c.ty + 127) / 128
        tileFree c z t true ∧ c.d + regs ≤ 128 ∧
          ∀ l < 32, c.sel.getLsbD l = true → (getLane c.g l).win.toNat + c.d + regs ≤ c.g.nreg ∧
            fragmentReads c.s c.k l ((getLane c.g l).win.toNat + c.d) regs = false)
      (fun c => queued c (.accrd c.ty (extOf c.i) t.toNat (shapeReg c.g z.toNat).gm (shapeReg c.g z.toNat).gn
          ((List.range 32).map fun l => (getLane c.g l).win.toNat + c.d))
        (rowMask c z) (colMask c z) [] []) ∧
    GroupDone (.accld z t a 0 m) true
      (fun c => tileFree c z t false ∧ tileResource c raw ∧
        ∀ el ∈ selectedElements c z, indexIn c el < elementCount (entryOf raw) ∧
          ∃ v, readElement c.s c.g.part (entryOf raw) (coordsOf (entryOf raw) (indexIn c el)) = .ok v)
      (fun c => queued c (.accld c.ty t.toNat (shapeReg c.g z.toNat).gm (shapeReg c.g z.toNat).gn (memoryPlace c raw))
        (rowMask c z) (colMask c z) [] []) ∧
    GroupDone (.accst z t a 0 m) true
      (fun c => tileFree c z t true ∧ tileResource c raw ∧ Writable { c with b := c.a } raw ∧ (entryOf raw).gwe = false ∧
        storesFit c z t raw)
      (fun c => queued c (.accst c.ty (extOf c.i) t.toNat (shapeReg c.g z.toNat).gm (shapeReg c.g z.toNat).gn (memoryPlace c raw))
        (rowMask c z) (colMask c z) [] [])

/-- R195, R198, R203, R215, R216: a queued `ACCLD` or `ACCST` between a tile and cluster scratch, or `ACCRD`, takes effect in one
run of the engine: it moves exactly the elements that its masks select, converted, and nothing else of the group, of memory or
of scratch changes; an `ACCLD` takes the bytes that it owns, or those of this moment when it owns none yet
(notes/assumptions/24). -/
def Sys2Proof.Claims.TileMovesTakeEffect : Prop :=
  ∀ s e n o g, EngineTakes s e n o g → ∀ t tile gm gn,
    let els := pickedElements gm gn o.rowm o.colm
    let size := Machine.sizeOf t
    (∀ cl off pitch, o.kind = .accld t tile gm gn (.scratch cl off pitch) →
      ∃ v, exec (.engineRun e) s = .next v ∧ v.mem = s.mem ∧ v.cscratch = s.cscratch ∧
        (∀ bytes rest, o.owned = some (bytes, rest) →
          smFind v.groups o.group = some (withElems g tile (els.foldl (fun acc el => smSet 0 acc (128 * el.1 + el.2)
            (enterTile t (leNat ((bytes.drop (el.1 * rowBytes t gn + el.2 * size)).take size)))) (tileOf g tile).elems))) ∧
        (o.owned = none → (tyBits t = 16 ∨ tyBits t = 32) →
          smFind v.groups o.group = some (withElems g tile (els.foldl (fun acc el => smSet 0 acc (128 * el.1 + el.2)
            (enterTile t (memRead s.cscratch (cl * 2 ^ 21 + (off + el.1 * pitch + el.2 * size)) size)))
              (tileOf g tile).elems)))) ∧
    (∀ ext cl off pitch, o.kind = .accst t ext tile gm gn (.scratch cl off pitch) →
      ∃ v, exec (.engineRun e) s = .next v ∧ smFind v.groups o.group = some g ∧ v.mem = s.mem ∧
        v.cscratch = els.foldl (fun mem el => memWrite mem (cl * 2 ^ 21 + (off + el.1 * pitch + el.2 * size)) size
          (leaveTile t ext (smGet 0 (tileOf g tile).elems (128 * el.1 + el.2)))) s.cscratch) ∧
    (∀ ext bases, o.kind = .accrd t ext tile gm gn bases →
      ∃ v, exec (.engineRun e) s = .next v ∧ v.mem = s.mem ∧ v.cscratch = s.cscratch ∧
        smFind v.groups o.group = some (els.foldl (fun h el => putFragment h o.sel bases ((el.1 * gn + el.2) * size) size
          (leaveTile t ext (smGet 0 (tileOf g tile).elems (128 * el.1 + el.2)))) g))

/-- R215, R220, R324, R346: a queued `ACCLD` or `ACCST` between a tile and memory takes effect in one run of the engine and leaves the
queue, when every selected element lies in the resource and no access faults: each element is read, or stored, row by row
(notes/assumptions/57). A load writes of memory only the events of lines that storage rebuilds, a store also that of the walk for
the freeze count. -/
def Sys2Proof.Claims.TilesMoveInMemory : Prop :=
  ∀ s e n o g y, EngineTakes s e n o g → opMove g o = some y → ∀ tile,
    let els := opElements o
    let left := { s with engines := smSet [] s.engines e.core ((smGet [] s.engines e.core).eraseIdx n) }
    let start := accessMade left y.part y.core (if y.store then [] else moveAddrs y els) (moveBytes y els)
    (∀ el ∈ els, moveIndex y el < elementCount y.entry) → ∀ x : Nat → State, x 0 = start →
    (∀ t gm gn place, o.kind = .accld t tile gm gn place → ∀ v : Nat → Nat,
      (∀ j el, els[j]? = some el →
        readElement (x j) y.part y.entry (coordsOf y.entry (moveIndex y el)) = .ok (v j) ∧
        x (j + 1) = countPeer (x j) y.part (moveAddr y el)) →
      ∃ u, exec (.engineRun e) s = .next u ∧ u.mem = start.mem ∧ u.cscratch = s.cscratch ∧
        smGet [] u.engines e.core = (smGet [] s.engines e.core).eraseIdx n ∧
        smFind u.groups o.group = some (withElems g tile (els.zipIdx.foldl (fun acc el =>
          smSet 0 acc (128 * el.1.1 + el.1.2) (enterTile t (v el.2))) (tileOf g tile).elems))) ∧
    (∀ t ext gm gn place, o.kind = .accst t ext tile gm gn place →
      y.entry.gwe = false → y.entry.ro = false → y.entry.gre = false →
      (∀ j el, els[j]? = some el → freezeCount (x j) y.part y.res = 0 ∧
        writeElement (x j) y.part y.entry (coordsOf y.entry (moveIndex y el))
          (leaveTile t ext (smGet 0 (tileOf g tile).elems (128 * el.1 + el.2))) = .ok (x (j + 1))) →
      ∃ u, exec (.engineRun e) s = .next u ∧ u.cscratch = s.cscratch ∧
        smGet [] u.engines e.core = (smGet [] s.engines e.core).eraseIdx n ∧
        smFind u.groups o.group = some (putTile g tile (tileOf g tile)) ∧
        u.mem = (if els = [] then x 0 else freezeEvent (x els.length) y.part y.res y.core).mem)

/-- R198, R203: a run of the engine: it takes the oldest instruction of the highest rank, unless that one has to wait, for the
point at which it owns its operands or for what holds the bytes that it stores to; after its last run the instruction leaves the
queue. The tiles of other groups stay. Moves in memory are in `TilesMoveInMemory`. That it owns its operands at its first run at
the latest, and that `MMABX` writes after the last of four runs, is the model's reading (notes/assumptions/24). The queue holds the
instructions in the order of their issue (R331, `queued`). -/
def Obligations.EngineRuns : Prop :=
  (∀ s ops n o, engineChoice s ops = some (n, o) ↔
    ops[n]? = some o ∧ ∀ j x, ops[j]? = some x → takenFirst s x ≤ takenFirst s o ∧ (j < n → takenFirst s x < takenFirst s o)) ∧
  ∀ s (e : EngineTurn) n o g, EngineTakes s e n o g → opMove g o = none →
    ∃ t, exec (.engineRun e) s = .next t ∧ (∀ k, k ≠ o.group → smFind t.groups k = smFind s.groups k) ∧
      smGet [] t.engines e.core =
        (if o.run + 1 < engineRuns o.kind then
          (smGet [] s.engines e.core).set n { o with run := o.run + 1, owned := some (o.owned.getD (ownOperands s o)),
                                                     lost := lostRows o e.errors }
        else (smGet [] s.engines e.core).eraseIdx n) ∧
      ∃ h, smFind t.groups o.group = some h ∧
        ((∀ ty ext tile gm gn bases, o.kind ≠ .accrd ty ext tile gm gn bases) → h.lanes = g.lanes) ∧
        (∀ tile, o.kind = .accz tile → h = putTile g tile Tile.zero) ∧
        (∀ t tile gm gn a b, o.kind = .mmabx t tile gm gn a b → o.run ≠ 3 → h = g) ∧
        (∀ tile part gm gn, o.kind = .scacc tile part gm gn → ∀ row < 64,
          (tileOf h tile).poison.getLsbD row = ((tileOf g tile).poison.getLsbD row
            || [0, 1, 2, 3].any fun q => (tileOf g (part + q)).poison.getLsbD row)) ∧
        (∀ t tile gm gn kk a b, o.kind = .mma true t tile gm gn kk a b → gm ≤ 64 → o.run % 3 = 0 → ∀ row ∈ e.errors, row < gm →
          o.rowm.getLsbD row = true → (tileOf h tile).poison.getLsbD row = true)

/-- R76, R77, R195, R198, R201, R212: run r of a dense product: every selected element of the tile takes the rounded exact sum
of its eight products, or for integers the products modulo 2^32, and every other element is unchanged. -/
def Sys2Proof.Claims.DenseRuns : Prop :=
  ∀ s (e : EngineTurn) n o g t tile gm gn kk oa ob a b, engineChoice s (smGet [] s.engines e.core) = some (n, o) →
    smFind s.groups o.group = some g → o.cycle ≠ s.cycle → o.kind = .mma false t tile gm gn kk oa ob → o.owned = some (a, b) →
    (tyIsFloat t = true ∧ tyBits t ≤ 16 ∨ tyIsInt t = true ∧ tyBits t ≤ 8) → gm ≤ 64 → gn ≤ 128 → 8 * o.run + 8 ≤ kk →
    gn % 2 = 0 → kk % 2 = 0 → a.length = gm * rowBytes t kk → b.length = kk * rowBytes t gn →
    smWf 0 (tileOf g tile).elems = true →
    ∃ u h, exec (.engineRun e) s = .next u ∧ smFind u.groups o.group = some h ∧
      ∀ row col, row < 64 → col < 128 →
        let old := smGet 0 (tileOf g tile).elems (128 * row + col)
        smGet 0 (tileOf h tile).elems (128 * row + col)
          = if row < gm ∧ o.rowm.getLsbD row = true ∧ col < gn ∧ o.colm.getLsbD col = true then
              afterRun t gn kk o.run a b row col old else old

/-- R76, R77, R195, R198, R201, R204, R205, R212: run r of a sparse product: every selected element of the tile takes the rounded
exact sum of its eight products, or for integers the products modulo 2^32, where an absent position, or every position of a group of
24 whose metadata word is malformed or lost, gives +0; every other element is unchanged. -/
def Sys2Proof.Claims.SparseRuns : Prop :=
  ∀ s (e : EngineTurn) n o g t tile gm gn kk oa ob a b, engineChoice s (smGet [] s.engines e.core) = some (n, o) →
    smFind s.groups o.group = some g → o.cycle ≠ s.cycle → o.kind = .mma true t tile gm gn kk oa ob → o.owned = some (a, b) →
    (tyIsFloat t = true ∧ tyBits t ≤ 16 ∨ tyIsInt t = true ∧ tyBits t ≤ 8) → gm ≤ 64 → gn ≤ 128 → 8 * o.run + 8 ≤ kk →
    gn % 2 = 0 → kk % 48 = 0 → a.length = gm * rowBytes t (kk / 2) + gm * (kk / 24 * 4) → b.length = kk * rowBytes t gn →
    smWf 0 (tileOf g tile).elems = true →
    let lost := if o.run % 3 = 0 then e.errors else o.lost
    ∃ u h, exec (.engineRun e) s = .next u ∧ smFind u.groups o.group = some h ∧
      ∀ row col, row < 64 → col < 128 →
        let old := smGet 0 (tileOf g tile).elems (128 * row + col)
        (opSelects o gm gn row col →
          smGet 0 (tileOf h tile).elems (128 * row + col) = afterSparseRun t gm gn kk o.run lost a b row col old) ∧
        (¬ opSelects o gm gn row col → smGet 0 (tileOf h tile).elems (128 * row + col) = old)

/-- R78, R195, R206: the last run of `MMABX` writes the four partials of each selected element into the tiles P to P + 3, the
exponents of the blocks of the rows and of the columns, and the format, into the side record of P; elements that are not selected
keep their values. That it writes after the last run is the model's reading (notes/assumptions/24). -/
def Sys2Proof.Claims.BlockPartialsAreWritten : Prop :=
  ∀ s (e : EngineTurn) n o g t tile gm gn oa ob a b, engineChoice s (smGet [] s.engines e.core) = some (n, o) →
    smFind s.groups o.group = some g → o.cycle ≠ s.cycle → o.kind = .mmabx t tile gm gn oa ob → o.owned = some (a, b) → o.run = 3 →
    tyIsBlock t = true → gm ≤ 64 → gn ≤ 128 → a.length = gm * blockBytes t → b.length = gn * blockBytes t →
    (∀ q < 4, smWf 0 (tileOf g (tile + q)).elems = true) → smWf 0 (tileOf g tile).xa = true → smWf 0 (tileOf g tile).xb = true →
    ∃ u h, exec (.engineRun e) s = .next u ∧ smFind u.groups o.group = some h ∧
      (∀ q < 4, ∀ row col, row < 64 → col < 128 →
        let old := smGet 0 (tileOf g (tile + q)).elems (128 * row + col)
        (opSelects o gm gn row col → smGet 0 (tileOf h (tile + q)).elems (128 * row + col)
          = BitVec.ofInt 32 (partialOf (q / 2) (q % 2) (blockOf t a row).2.2 (blockOf t b col).2.2)) ∧
        (¬ opSelects o gm gn row col → smGet 0 (tileOf h (tile + q)).elems (128 * row + col) = old)) ∧
      (tileOf h tile).xfmt = t ∧
      (∀ row < gm, smGet 0 (tileOf h tile).xa row = BitVec.ofNat 8 (blockOf t a row).1 ∧
        smGet 0 (tileOf h tile).xa (64 + row) = BitVec.ofNat 8 (blockOf t a row).2.1) ∧
      (∀ col < gn, smGet 0 (tileOf h tile).xb col = BitVec.ofNat 8 (blockOf t b col).1 ∧
        smGet 0 (tileOf h tile).xb (128 + col) = BitVec.ofNat 8 (blockOf t b col).2.1)

/-- R78, R195, R207: `SCACC` folds the four partials of each selected element into its accumulator, in the order (0,0), (0,1), (1,0),
(1,1), each scaled by the exponents of its row and column and rounded once; every other element is unchanged. That a partial of 0 is
added as +0 is the model's choice (notes/assumptions/59). -/
def Sys2Proof.Claims.PartialsFold : Prop :=
  ∀ s (e : EngineTurn) n o g tile part gm gn, engineChoice s (smGet [] s.engines e.core) = some (n, o) →
    smFind s.groups o.group = some g → o.cycle ≠ s.cycle → o.kind = .scacc tile part gm gn → o.extents = [] →
    gm ≤ 64 → gn ≤ 128 → smWf 0 (tileOf g tile).elems = true →
    ∃ u h, exec (.engineRun e) s = .next u ∧ smFind u.groups o.group = some h ∧
      ∀ row col, row < 64 → col < 128 →
        let old := smGet 0 (tileOf g tile).elems (128 * row + col)
        let side := tileOf g part
        let p := fun q => smGet 0 (tileOf g (part + q)).elems (128 * row + col)
        let ea := fun i => blockExp (smGet 0 side.xa (64 * i + row)).toNat
        let eb := fun j => blockExp (smGet 0 side.xb (128 * j + col)).toNat
        let add := fun acc i j => afterPartial side.xfmt acc (p (2 * i + j)) (ea i) (eb j)
        (opSelects o gm gn row col →
          smGet 0 (tileOf h tile).elems (128 * row + col) = add (add (add (add old 0 0) 0 1) 1 0) 1 1) ∧
        (¬ opSelects o gm gn row col → smGet 0 (tileOf h tile).elems (128 * row + col) = old)

/-- Together: dense products, sparse products, block partials and their fold. -/
def Obligations.DenseProducts : Prop :=
  Sys2Proof.Claims.DenseRuns ∧ Sys2Proof.Claims.SparseRuns ∧ Sys2Proof.Claims.BlockPartialsAreWritten ∧ Sys2Proof.Claims.PartialsFold

namespace Sys2Proof.Claims

open Sys2Proof.Machine

/-! #### Groomers and layered handles -/

/-- R308: the image that 192 bytes make up. -/
def imageOfBytes (bs : List Byte) : BitVec 1536 := BitVec.ofNat 1536 (leNat bs)

/-- The bytes at an address stand in this device's memory and on no page whose frame set another page maps too (R287, R221). -/
def plainPlace (s : State) (p va : Nat) : Prop := inPeerWindow s p va = false ∧ aliasedAt s p va = false

/-- R257, R349, R378: nothing keeps the group's own reads of some lines waiting. -/
def readsFree (c : Ctx) (lines : List Nat) (bytes : Nat) : Prop := accessWaits c.s c.g.part (coreOfKey c.k) lines bytes = false

/-- R346, R378: what the instruction sees once those lines are read: their bytes have passed, and each line that storage must rebuild
has its event. -/
def withRead (c : Ctx) (lines : List Nat) (bytes : Nat) : Ctx :=
  { c with s := accessMade c.s c.g.part (coreOfKey c.k) lines bytes }

/-- R308: the lines of the image that `GLOAD` reads. -/
def imageLines (c : Ctx) (raw : BitVec 512) : List Nat := linesFrom ((entryOf raw).base + readUni c c.a 6) 192

/-- R308: what `GLOAD` sees when it has read its image. -/
def imageSeen (c : Ctx) (raw : BitVec 512) : Ctx := withRead c (imageLines c raw) 192

/-- R308, R309: `GLOAD` reads a valid image from its linear resource, at an aligned offset, through its read stream. -/
def imageRead (c : Ctx) (raw : BitVec 512) (bs : List Byte) : Prop :=
  let e := entryOf raw
  let off := readUni c c.a 6
  let s := (imageSeen c raw).s
  CheckedKinds c (resourceIndex c c.b) [1] raw ∧ off % 64 = 0 ∧ off + 192 ≤ linearBytes e ∧ readsFree c (imageLines c raw) 192 ∧
    entryBytes s c.g.part e off 192 = .ok bs ∧ imageValid (imageOfBytes bs) = true ∧ plainPlace s c.g.part (e.base + off)

/-- R308: a partition with an image in a slot. -/
def withImage (s : State) (p : Nat) (slot : Nat) (image : BitVec 1536) : State :=
  match smFind s.parts p with
  | some x => putPart s p { x with slots := smSet 0 x.slots slot image }
  | none => s

/-- R313: the bytes of the descriptor that `GJOB` reads, and their lines. -/
def jobBytes (c : Ctx) (raw : BitVec 512) : Nat := descriptorBytes c (entryOf raw) (readUni c c.a 6)
/-- R313. -/
def jobLines (c : Ctx) (raw : BitVec 512) : List Nat := linesFrom ((entryOf raw).base + readUni c c.a 6) (jobBytes c raw)

/-- R313: what `GJOB` sees when it has read its descriptor. -/
def jobSeen (c : Ctx) (raw : BitVec 512) : Ctx := withRead c (jobLines c raw) (jobBytes c raw)

/-- R309, R313, R314: `GJOB` reads a descriptor whose phases are `phases`: offset and length, count of phases, first row, count of
rows, every entry that a phase names with its checks. -/
def jobRead (c : Ctx) (raw : BitVec 512) (hb pb : List Byte) (phases : List Phase) : Prop :=
  let e := entryOf raw
  let off := readUni c c.a 6
  let s := (jobSeen c raw).s
  let h := leNat hb
  let n := h % 2 ^ 4 + 1
  let first := h / 2 ^ 32 % 2 ^ 32
  let count := h / 2 ^ 64 % 2 ^ 32
  CheckedKinds c (resourceIndex c c.b) [1] raw ∧ off % 32 = 0 ∧ off + 32 + 16 * n ≤ linearBytes e ∧
    readsFree c (jobLines c raw) (jobBytes c raw) ∧
    entryBytes s c.g.part e off 32 = .ok hb ∧ h / 2 ^ 4 % 2 ^ 28 = 0 ∧ h / 2 ^ 96 % 2 ^ 160 = 0 ∧ count ≠ 0 ∧
    first + count ≤ 2 ^ 32 ∧ entryBytes s c.g.part e (off + 32) (16 * n) = .ok pb ∧
    let fields := (List.range n).map fun q => phaseFields (leNat ((pb.drop (16 * q)).take 16))
    (∀ x ∈ fields, x.reserved = false) ∧ readPhases s c.g.part fields = .ok phases ∧
    (∀ x ∈ phases, phaseOk (entryOf ((phases.map (·.s0)).headD 0)) x = true) ∧ plainPlace s c.g.part (e.base + off)

/-- R317: the status of a job: its state, whether a channel is suspended, the rows done. -/
def statusOf (c : Ctx) (n : Nat) : Nat :=
  match (smFind c.g.jobs n).bind (smFind c.s.items) with
  | some x => match x.kind with
    | .job j =>
      (match x.istate with | .pending => 1 | .running => 2 | .complete => 3 | .stopped _ => 4) * 2 ^ 29
        + (if j.chans.any fun e => e.2.suspended then 2 ^ 28 else 0) + min j.rowsDone (2 ^ 28 - 1)
    | _ => 0
  | none => 0

/-- R323: what `LATTACH` finds: the source, the layer, and the base and layers of a handle. -/
def sourceOf (c : Ctx) (sraw : BitVec 512) : Option LayerList :=
  if (entryOf sraw).kind = 3 then handleRecord c.s c.g.part (entryOf sraw) else none
/-- R323: the base of the source. -/
def baseOf (c : Ctx) (sraw : BitVec 512) : Nat × Entry :=
  match sourceOf c sraw with
  | some l => (l.base, (entryAt c.s c.g.part l.base).getD Entry.none)
  | none => (resourceIndex c c.b, entryOf sraw)
/-- R323: the layers of the source. -/
def layersOf (c : Ctx) (sraw : BitVec 512) : List Nat := match sourceOf c sraw with | some l => l.layers | none => []
/-- R323: the entry of the layer, and the destination. -/
def layerIndex (c : Ctx) : Nat := slotValue c.g (c.a - 0xD0) 32
/-- R323. -/
def destIndex (c : Ctx) : Nat := slotValue c.g (c.a - 0xD0 + 1) 32

/-- R220, R323, R345: what `LATTACH` sees when it has looked up the record of its source and the entries of the destination and of
the layer's parts. -/
def sourceSeen (c : Ctx) (sraw lraw : BitVec 512) : Ctx :=
  { c with s := attachEvents c.s c.g.part (coreOfKey c.k) (entryOf sraw) (entryOf lraw) (destIndex c) }

/-- R323: base, layers and layer of an attach: those of the source's handle, the new layer last. -/
def newBase (c : Ctx) (sraw lraw : BitVec 512) : Nat × Entry := baseOf (sourceSeen c sraw lraw) sraw
/-- R323. -/
def newLayers (c : Ctx) (sraw lraw : BitVec 512) : List Nat := layersOf (sourceSeen c sraw lraw) sraw ++ [layerIndex c]

/-- R323: the entries of `LATTACH` pass their checks and the list has room for one more layer. -/
def attachRead (c : Ctx) (sraw lraw : BitVec 512) : Prop :=
  CheckedKinds c (resourceIndex c c.b) anyKind sraw ∧ CheckedKinds c (layerIndex c) anyKind lraw ∧
    (layersOf (sourceSeen c sraw lraw) sraw).length ≠ 8

/-- R322, R323: base, layer and destination are of the kinds that an attach takes. -/
def attachKinds (c : Ctx) (sraw lraw : BitVec 512) : Prop :=
  ((newBase c sraw lraw).2.kind = 1 ∨ (newBase c sraw lraw).2.kind = 2) ∧ tyIsFloat (newBase c sraw lraw).2.fmt = true ∧
    ((entryOf lraw).kind = 4 ∨ (entryOf lraw).kind = 5) ∧ attachDest (sourceSeen c sraw lraw).s c.g.part (destIndex c) = true

/-- R322: the lines of the layer's index list, and their bytes. -/
def listRead (c : Ctx) (sraw lraw : BitVec 512) : List Nat × Nat := layerLines (sourceSeen c sraw lraw).s c.g.part (entryOf lraw)

/-- R241, R323: the places that the attach writes where the layer fits: the destination's entry, the record, the freeze counts. -/
def attachPlaces (c : Ctx) (sraw lraw : BitVec 512) : List Nat :=
  let s := (sourceSeen c sraw lraw).s
  match layerFits s c.g.part (newBase c sraw lraw).2 (entryOf lraw) with
  | .ok true => attachWrites s c.g.part (newBase c sraw lraw).1 (newLayers c sraw lraw) (destIndex c)
  | _ => []

/-- R241, R257, R324: no `ACCST` to an entry that the attach freezes is queued (notes/assumptions/25), and nothing keeps the reads of
the layer's index list, or its own writes, waiting. -/
def attachFree (c : Ctx) (sraw lraw : BitVec 512) : Prop :=
  let s := (sourceSeen c sraw lraw).s
  storesQueued s c.g.part (frozenBy s c.g.part (newBase c sraw lraw).1 (newLayers c sraw lraw)) = false ∧
    readsFree (sourceSeen c sraw lraw) ((listRead c sraw lraw).1 ++ attachPlaces c sraw lraw) (listRead c sraw lraw).2

/-- R322: what `LATTACH` sees when it has read that list. -/
def layerSeen (c : Ctx) (sraw lraw : BitVec 512) : Ctx :=
  withRead (sourceSeen c sraw lraw) (listRead c sraw lraw).1 (listRead c sraw lraw).2

/-- R323: the units of 2 MiB of the view of a base. -/
def viewUnits (e : Entry) : Nat := (e.base % 2 ^ 21 + spanBytes e + 2 ^ 21 - 1) / 2 ^ 21

/-- R323: the start of a view whose range begins at unit `start`. -/
def viewAt (base : Entry) (x : Partition) (start : Nat) : Nat := x.regs.vwbase.toNat + start * 2 ^ 21 + base.base % 2 ^ 21

/-- R321, R323, R324, R327: the state once an attach has begun, of a base with its layers: the view range and the factors are
taken, the counts of the entries concerned go up, the record is written. -/
def recorded (c : Ctx) (base : Nat × Entry) (layers : List Nat) (x : Partition) (at_ start : Nat) : State :=
  let frozen := frozenBy c.s c.g.part base.1 layers
  let x1 := storeFactors c.s c.g.part
    { x with views := smPut x.views start (viewUnits base.2, at_), frozen := smPut x.frozen at_ frozen }
    (factorsOf c.s c.g.part layers)
  let s1 := frozen.foldl (fun t i => bumpFreeze t c.g.part (coreOfKey c.k) i true) (putPart c.s c.g.part x1)
  pokeVa s1 c.g.part at_ (leBytes 64 (recordBits (viewAt base.2 x start) (destIndex c) base.1 layers))

/-- R323: the state after an attach: the handle's entry is written last. -/
def attached (c : Ctx) (base : Nat × Entry) (layers : List Nat) (x : Partition) (at_ start : Nat) : State :=
  writeEntry (recorded c base layers x at_ start) c.g.part (destIndex c) (handleEntry base.2 (viewAt base.2 x start) at_)

/-- The group of an instruction waits, behind it, for the item put under the next number; nothing else has happened but what
`t` shows (R308, R324, R328). -/
def WaitsForItem (i : Instr) (s : State) (k : Nat) (kind : ItemKind → Prop) (holds : State → Prop) : Prop :=
  ∃ t g x, exec i s = .next t ∧ smFind t.groups k = some g ∧ g.wait = .item s.nextItem ∧
    smFind t.items s.nextItem = some x ∧ x.owner = g.uid ∧ x.istate = .running ∧ kind x.kind ∧ holds t

end Sys2Proof.Claims

/-- R307, R308, R346: `GLOAD` reads its image once nothing holds its lines and puts it into its slot in every channel of the partition, at once when no job at
the channels names the slot and the schedule does not put it off; else the group waits, and `GLOAD_COMMIT` writes it when
those jobs have ended or stopped. -/
def Sys2Proof.Claims.GraphImagesLoad : Prop :=
  ∀ sl a b m raw bs,
    GroupDone (.gload sl a b m) true
      (fun c => imageRead c raw bs ∧ slotJobs c.s c.g.part sl.toNat = [] ∧ c.s.defer = false)
      (fun c => (withImage (imageSeen c raw).s c.g.part sl.toNat (imageOfBytes bs), c.g)) ∧
    (∀ s k g r, Issues s k g r → legal (.gload sl a b m) = true → groupE g (.gload sl a b m) true ≠ 0 →
      let c := gctx s k g r (.gload sl a b m) true
      imageRead c raw bs → slotJobs s g.part sl.toNat ≠ [] ∨ s.defer = true →
      WaitsForItem (.gload sl a b m) s k
        (fun x => x = .gload sl.toNat (imageOfBytes bs) s.stamp (slotJobs s g.part sl.toNat))
        fun t => t.parts = (imageSeen c raw).s.parts ∧ t.mem = (imageSeen c raw).s.mem) ∧
    (∀ s id x slot image issued jobs, smFind s.items id = some x → x.kind = .gload slot image issued jobs →
      (∀ n ∈ jobs, ∀ y, smFind s.items n = some y → y.istate ≠ .running) →
      exec (.gloadCommit id) s = .next (withImage { s with items := smErase s.items id } x.part slot image))

/-- R313, R314, R317, R329: `GJOB` and `GFOLD` complete when their checks hold and the group has room: the job is pending for
the next batch, and `GJOB` writes its number; `GSTAT` writes the status of a job by its number. -/
def Sys2Proof.Claims.JobsIssue : Prop :=
  ∀ u a b m raw hb pb phases l hraw draw,
    GroupDone (.gjob u a b m) true
      (fun c => jobRead c raw hb pb phases ∧ flightCount c.s c.g isJob < 16 ∧ c.g.njobs + 1 < 2 ^ 32)
      (fun c =>
        let h := leNat hb
        let y := withItem (jobSeen c raw) (.job (newJob phases (h / 2 ^ 32 % 2 ^ 32) (h / 2 ^ 64 % 2 ^ 32) none)) .pending
        (y.1, slotWith { y.2 with njobs := c.g.njobs + 1, jobs := smPut c.g.jobs (c.g.njobs + 1) c.s.nextItem } c.d (c.g.njobs + 1))) ∧
    GroupDone (.gstat u b m) true (fun _ => True) (fun c => (c.s, slotWith c.g c.d (statusOf c (resourceIndex c c.b)))) ∧
    GroupDone (.gfold u b m) true
      (fun c =>
        let dIx := (getUreg c.g (c.g.uwin.toNat + c.d)).toNat
        let h := { c with s := handleEvent c.s c.g.part (coreOfKey c.k) (entryOf hraw) }
        CheckedKinds c (resourceIndex c c.b) [3] hraw ∧ handleRecord h.s c.g.part (entryOf hraw) = some l ∧
          CheckedKinds h dIx anyKind draw ∧ foldDest (entryOf draw) ((entryAt h.s c.g.part l.base).getD Entry.none) = true ∧
          freezeCount h.s c.g.part dIx = 0)
      (fun c =>
        let dIx := (getUreg c.g (c.g.uwin.toNat + c.d)).toNat
        let seen := { c with s := freezeEvent (handleEvent c.s c.g.part (coreOfKey c.k) (entryOf hraw)) c.g.part dIx (coreOfKey c.k) }
        let phase : Phase := { slot := 0, s0 := hraw, s0ix := BitVec.ofNat 32 (resourceIndex c c.b), s1 := none, s1ix := 0,
                               out := some draw, outIx := BitVec.ofNat 32 dIx }
        withItem seen (.job (newJob [phase] 0 ((elementCount (entryOf hraw) + 31) / 32) (some hraw))) .pending)

/-- R321 to R324: `LATTACH` answers in D: 2 when an entry is not of the kind it takes, 3 when the layer does not fit the base,
1 when no record or no room in the view space is free, each without any other effect; 0 when it attaches. While writes that
passed the check of an entry before it froze are open, the group waits: the record is written and the counts are up, the entry
and the answer follow. The index list of a sparse layer is read, and the attach writes, once nothing holds their lines. The lowest free record, the first
room of the view space, and that an attach waits for queued `ACCST`s to entries that it freezes are the model's choice
(notes/assumptions/25). -/
def Sys2Proof.Claims.LayersAttach : Prop :=
  ∀ u a b m sraw lraw,
    GroupDone (.lattach u a b m) true (fun c => attachRead c sraw lraw ∧ ¬ attachKinds c sraw lraw)
      (fun c => ((sourceSeen c sraw lraw).s, slotWith c.g c.d 2)) ∧
    GroupDone (.lattach u a b m) true
      (fun c => attachRead c sraw lraw ∧ attachKinds c sraw lraw ∧ attachFree c sraw lraw ∧
        layerFits (layerSeen c sraw lraw).s c.g.part (newBase c sraw lraw).2 (entryOf lraw) = .ok false)
      (fun c => ((layerSeen c sraw lraw).s, slotWith c.g c.d 3)) ∧
    (∀ x, GroupDone (.lattach u a b m) true
      (fun c => let s := (layerSeen c sraw lraw).s
        attachRead c sraw lraw ∧ attachKinds c sraw lraw ∧ attachFree c sraw lraw ∧
        layerFits s c.g.part (newBase c sraw lraw).2 (entryOf lraw) = .ok true ∧ smFind s.parts c.g.part = some x ∧
        (freeRecord s c.g.part x = none ∨ viewRoom x.views (viewUnits (newBase c sraw lraw).2) 0 = none))
      (fun c => ((layerSeen c sraw lraw).s, slotWith c.g c.d 1))) ∧
    (∀ x at_ start, GroupDone (.lattach u a b m) true
      (fun c => let s := (layerSeen c sraw lraw).s
        attachRead c sraw lraw ∧ attachKinds c sraw lraw ∧ attachFree c sraw lraw ∧
        layerFits s c.g.part (newBase c sraw lraw).2 (entryOf lraw) = .ok true ∧ smFind s.parts c.g.part = some x ∧
        freeRecord s c.g.part x = some at_ ∧ viewRoom x.views (viewUnits (newBase c sraw lraw).2) 0 = some start ∧
        writersOf s c.g.part (frozenBy s c.g.part (newBase c sraw lraw).1 (newLayers c sraw lraw)) = [] ∧ s.defer = false)
      (fun c => (attached (layerSeen c sraw lraw) (newBase c sraw lraw) (newLayers c sraw lraw) x at_ start, slotWith c.g c.d 0))) ∧
    (∀ s k g r x at_ start, Issues s k g r → legal (.lattach u a b m) = true → groupE g (.lattach u a b m) true ≠ 0 →
      let c := gctx s k g r (.lattach u a b m) true
      let w := (layerSeen c sraw lraw).s
      let writers := writersOf w g.part (frozenBy w g.part (newBase c sraw lraw).1 (newLayers c sraw lraw))
      attachRead c sraw lraw → attachKinds c sraw lraw → attachFree c sraw lraw →
      layerFits w g.part (newBase c sraw lraw).2 (entryOf lraw) = .ok true →
      smFind w.parts g.part = some x → freeRecord w g.part x = some at_ →
      viewRoom x.views (viewUnits (newBase c sraw lraw).2) 0 = some start → writers ≠ [] ∨ w.defer = true →
      WaitsForItem (.lattach u a b m) s k
        (fun y => y = .lattach (destIndex c) (handleEntry (newBase c sraw lraw).2 (viewAt (newBase c sraw lraw).2 x start) at_)
          (g.uwin.toNat + c.d) writers)
        fun t => t.mem = (recorded (layerSeen c sraw lraw) (newBase c sraw lraw) (newLayers c sraw lraw) x at_ start).mem) ∧
    (∀ s id x dst h dest reqs, smFind s.items id = some x → x.kind = .lattach dst h dest reqs →
      (∀ n ∈ reqs, smFind s.reqs n = none) → addressHeld s x.part (entryVa s x.part dst) = false →
      exec (.lattachFreeze id) s = .next (itemStatus (writeEntry { s with items := smErase s.items id } x.part dst h) x dest 0))

/-- R241, R327, R328: `LFREE` clears the handle's entry and releases the handle, at once when nothing that read its entry is open and
nothing holds a line that the release writes; else the group waits, and `LFREE_RELEASE` releases it when the accesses are performed,
the items complete and the lines free. What counts as
having read the entry is notes/assumptions/25. -/
def Sys2Proof.Claims.HandlesAreFreed : Prop :=
  ∀ b m raw,
    let handle := fun (c : Ctx) => resourceEntry c.s c.g.part (resourceIndex c c.b) = .ok raw ∧ (entryOf raw).kind = 3 ∧
      entryValid (entryOf raw) = true
    GroupDone (.lfree b m) true
      (fun c => handle c ∧ readersOf c.s c.g.part raw = [] ∧ itemsOf c.s c.g.part raw = [] ∧ c.s.defer = false ∧
        releaseWaits (writeEntry c.s c.g.part (resourceIndex c c.b) 0) c.g.part (entryOf raw) = false)
      (fun c => (releaseHandle (writeEntry c.s c.g.part (resourceIndex c c.b) 0) c.g.part (coreOfKey c.k) (entryOf raw), c.g)) ∧
    (∀ s k g r, Issues s k g r → legal (.lfree b m) = true → groupE g (.lfree b m) true ≠ 0 →
      let c := gctx s k g r (.lfree b m) true
      handle c → readersOf s g.part raw ≠ [] ∨ itemsOf s g.part raw ≠ [] ∨ s.defer = true ∨
        releaseWaits (writeEntry s g.part (resourceIndex c c.b) 0) g.part (entryOf raw) = true →
      WaitsForItem (.lfree b m) s k (fun x => x = .lfree raw (readersOf s g.part raw) (itemsOf s g.part raw))
        fun t => t.mem = (writeEntry s g.part (resourceIndex c c.b) 0).mem) ∧
    (∀ s id x reqs jobs, smFind s.items id = some x → x.kind = .lfree raw reqs jobs →
      (∀ n ∈ reqs, smFind s.reqs n = none) → (∀ n ∈ jobs, ∀ y, smFind s.items n = some y → y.istate = .complete) →
      releaseWaits s x.part (entryOf raw) = false →
      exec (.lfreeRelease id) s = .next (releaseHandle { s with items := smErase s.items id } x.part x.core (entryOf raw)))

namespace Sys2Proof.Claims

open Sys2Proof.Machine

/-- R215, R314, R316, R257, R318: a job's next row step at a channel can be taken: it is the job's turn, no access of its group
issued before it waits in an engine, the channel serves requests, nothing holds a line of the row at another one. The partition
has no rate limit (R378). A job that a fault has stopped at another channel still has its group (R344). -/
def stepReady (s : State) (id channel : Nat) (x : Item) (j : JobDesc) (ch : ChanJob) (row : Nat) (ph : Phase) : Prop :=
  smFind s.items id = some x ∧ x.istate = .running ∧ x.kind = .job j ∧ smFind j.chans channel = some ch ∧
    ch.rows.head? = some row ∧ j.phases[ch.phase]? = some ph ∧ ch.stopped = false ∧ ch.suspended = false ∧
    channelTurn s x.part channel id j.queued = true ∧ rowReady s id x channel row ph = true ∧ Unlimited s x.part ∧
    (j.fault = none ∨ groupLives s x.owner = true) ∧ (ch.images = [] → gloadBlocks s x.part j = false)

/-- The state of a job at a channel after a step. -/
def JobAfter (t : State) (id channel : Nat) (holds : JobDesc → ChanJob → Prop) : Prop :=
  ∃ y j ch, smFind t.items id = some y ∧ y.kind = .job j ∧ smFind j.chans channel = some ch ∧ holds j ch

/-- R313, R316: after a step the channel goes on with the next phase of the row, or with the next row. -/
def movedOn (j : JobDesc) (ch after : ChanJob) : Prop :=
  (ch.phase + 1 < j.phases.length ∧ after.phase = ch.phase + 1 ∧ after.rows = ch.rows) ∨
  (j.phases.length ≤ ch.phase + 1 ∧ after.phase = 0 ∧ after.rows = ch.rows.tail)

end Sys2Proof.Claims

/-- R301, R308, R313 to R316, R319, R320: a row step of a job runs the phase's graph over the row and goes on with the next
phase or row; it stops the channel before a step that faults, and counts a row that `BND` 1 skips, once whatever the phases
(notes/assumptions/25); a job suspends between two steps while an ordinary request waits for a bank that it holds, or its channel
is held (R330, R349), and resumes when neither is so. Memory is as the step's writes leave it, with the records of the requests
for its lines (R222, R346). -/
def Sys2Proof.Claims.JobsStep : Prop :=
  (∀ s id channel x j ch row ph, stepReady s id channel x j ch row ph → j.fold = none →
    let images := if ch.images = [] then phaseImages s x.part j else ch.images
    (∀ f, rowFault s x.part row (phaseUses ph) = some f → groupLives s x.owner = true →
      ∃ t, exec (.jobRowStep id channel) s = .next t ∧ JobAfter t id channel fun _ after =>
        after.stopped = true ∧ after.rows = ch.rows ∧ after.phase = ch.phase ∧ after.acc = ch.acc ∧ after.prev = ch.prev) ∧
    (∀ res, rowFault s x.part row (phaseUses ph) = none → rowSkip row (phaseUses ph) = some res →
      ∃ t, exec (.jobRowStep id channel) s = .next t ∧ JobAfter t id channel fun j' after =>
        j'.skipped = (if ch.counted then j.skipped else j.skipped + 1) ∧ movedOn j ch after ∧ after.acc = ch.acc ∧ after.prev = ch.prev) ∧
    (∀ u st, rowFault s x.part row (phaseUses ph) = none → rowSkip row (phaseUses ph) = none →
      jobStep (stepReads s x row ph) x.part (images.getD ch.phase 0) ph row { acc := ch.acc, prev := ch.prev } = .ok (u, st) →
      ∃ t, exec (.jobRowStep id channel) s = .next t ∧ (j.skipped = 0 → t.mem = (stepWrites u x row ph).mem) ∧ JobAfter t id channel fun j' after =>
        j'.skipped = j.skipped ∧ movedOn j ch after ∧ after.acc = st.acc ∧ after.prev = st.prev ∧ after.images = images)) ∧
  (∀ s id channel x j ch, smFind s.items id = some x → x.istate = .running → x.kind = .job j →
    smFind j.chans channel = some ch →
    (ch.rows ≠ [] → ch.stopped = false → ch.suspended = false → ch.images ≠ [] →
      channelHeld s channel = true ∨ ordinaryWaits s x.part channel (wouldHold s x j channel ch) = true →
      exec (.jobSuspend id channel) s = .next (putItem s id
        { x with kind := .job { j with chans := smPut j.chans channel { ch with suspended := true } } })) ∧
    (ch.suspended = true → channelHeld s channel = false → ordinaryWaits s x.part channel (wouldHold s x j channel ch) = false →
      exec (.jobResume id channel) s = .next (putItem s id
        { x with kind := .job { j with chans := smPut j.chans channel { ch with suspended := false } } })))

/-- R316, R329: a row step of a fold writes the merged elements of the handle into the destination, with the records of the
requests for its lines; a row in a peer window stops it with kind not accepted. -/
def Sys2Proof.Claims.FoldsStep : Prop :=
  ∀ s id channel x j ch row ph h, stepReady s id channel x j ch row ph → j.fold = some h → j.skipped = 0 →
    (∀ u, foldFault s x.part row (phaseUses ph) = none → foldRowStep (stepReads s x row ph) x.part ph row = .ok u →
      ∃ t, exec (.jobRowStep id channel) s = .next t ∧ t.mem = (stepWrites u x row ph).mem ∧
        JobAfter t id channel fun _ after => movedOn j ch after) ∧
    (∀ f, foldFault s x.part row (phaseUses ph) = some f → groupLives s x.owner = true →
      ∃ t, exec (.jobRowStep id channel) s = .next t ∧ f.1 = 0x86 ∧ JobAfter t id channel fun _ after =>
        after.stopped = true ∧ after.rows = ch.rows)

namespace Sys2Proof.Claims

open Sys2Proof.Machine

/-! #### System instructions -/

/-- R340: the type of a system register's operand. -/
def sysType (n : BitVec 8) : BitVec 5 := if sysReg64 n then 8 else 6

/-- R340: what a system register reads as: a group register, a register of the partition, or, in a handler pass, a part of the
record of the lane (R338, R339). -/
def sysValue (c : Ctx) (n : Nat) : Option Nat :=
  if n = 0 then some c.g.trapvec.toNat
  else if 0x10 ≤ n ∧ n ≤ 0x13 then some (smGet 0 c.g.rowm (n - 0x10)).toNat
  else if 0x14 ≤ n ∧ n ≤ 0x1B then
    let v := (smGet 0 c.g.colm ((n - 0x14) / 2)).toNat
    some (if n % 2 = 0 then v % 2 ^ 64 else v / 2 ^ 64)
  else if 0x20 ≤ n then laneSysReg (coreOfKey c.k) c.g c.l n
  else match smFind c.s.parts c.g.part with
    | none => some 0
    | some x => some (match n with
      | 0x01 => x.regs.fltvec.toNat | 0x02 => x.regs.emuj / 1000 % 2 ^ 64 | 0x03 => x.regs.elost.toNat
      | 0x04 => x.regs.mlost.toNat | 0x05 => x.regs.rtbase.toNat | 0x06 => x.regs.rtcnt.toNat | 0x07 => x.regs.hotbase.toNat
      | 0x08 => x.regs.ptbase.toNat | 0x09 => x.regs.fpool.toNat | 0x0A => x.regs.hbase.toNat | 0x0B => x.regs.vwbase.toNat
      | 0x0C => x.regs.fzbase.toNat | 0x0D => x.regs.svbase.toNat | 0x0E => x.regs.erbase.toNat | 0x0F => x.regs.mrbase.toNat
      | _ => x.regs.fqbase.toNat)

/-- R341: the group after a write of a system register: its trap vector, a row mask, half of a column mask; every other write
is ignored. -/
def sysWritten (g : Group) (n v : Nat) : Group :=
  if n = 0 then { g with trapvec := BitVec.ofNat 32 v }
  else if 0x10 ≤ n ∧ n ≤ 0x13 then { g with rowm := smSet 0 g.rowm (n - 0x10) (BitVec.ofNat 64 v) }
  else if 0x14 ≤ n ∧ n ≤ 0x1B then
    let old := smGet 0 g.colm ((n - 0x14) / 2)
    { g with colm := smSet 0 g.colm ((n - 0x14) / 2) (if n % 2 = 0 then old.extractLsb' 64 64 ++ BitVec.ofNat 64 v
        else BitVec.ofNat 64 v ++ old.extractLsb' 0 64) }
  else g

/-- R336, R357, R358: an instruction of a handler pass completes when `ok` holds of every lane of E: it changes what the pass
holds for those lanes by `f`, and nothing else of them but that a stale value enters `b0`. -/
def PassChange (i : Instr) (at_ : State → Nat → Group → Run → Word → State) (ok : Ctx → PassLane → Bool) (f : Ctx → PassLane → PassLane) :
    Prop :=
  ∀ s k g r p, Issues s k g r → g.pass = some p → legal i = true →
    let s1 := at_ s k g r (setE g i)
    (∀ x ∈ p.lanes, (setE g i).getLsbD x.1 = true → ok (ctx s1 k g r i x.1) x.2 = true) →
    exec i s = .next (putGroup s1 k (advance
      { mapLanes g (fun l ln => if (setE g i).getLsbD l then latched ln none else ln) with
          pass := some { p with lanes := p.lanes.map fun x =>
            (x.1, if (setE g i).getLsbD x.1 then f (ctx s1 k g r i x.1) x.2 else x.2) } } r i))

/-- R357: the faulted instruction is a terminator: opcodes 0x01 to 0x05 of its last word. -/
def endsBlock (t : TrapRec) : Bool :=
  match t.words.getLast? with
  | some w => decide (1 ≤ w.toNat / 2 ^ 24) && decide (w.toNat / 2 ^ 24 ≤ 5)
  | none => false

/-- R357: past the faulted instruction: its words further, at its first repeat. -/
def past (t : TrapRec) : TrapRec := { t with off := t.off + BitVec.ofNat 16 t.words.length, rpt := 0 }

/-- The blocks of the faulted kernel. -/
def faultedBlocks (c : Ctx) (t : TrapRec) : Nat :=
  match findKernel c.s c.g.part t.kernel.toNat with | some kn => kn.canon.length | none => 0

/-- R276, R359, R378: what a `MAPF` touches of the frame pool: the header and the frame sets that its lanes pop, and what of it
passes the partition's rate; nothing when it unmaps. -/
def mapTouches (c : Ctx) (flags : Nat) : Touched :=
  if flags.testBit 2 then { reads := [], writes := [], bytes := 0 }
  else poolTouched c.s c.g.part (poolHead (mapLanesOf c flags).1 c.g.part - poolHead c.s c.g.part)

/-- R346, R349: nothing holds what a `MAPF` touches: its lines of the pool, and no stack of the partition when a page may be zeroed. -/
def mapFree (c : Ctx) (flags : Nat) : Prop :=
  homeFree c (mapTouches c flags) ∧
    (flags.testBit 2 = false → ∀ y, smFind c.s.parts c.g.part = some y → partHeld c.s y = false)

/-- R359: `MAPF` in the lanes of E in ascending order, after its reads of the pool: the states between them and the frame sets. -/
def mapsPages (c : Ctx) (flags : Nat) (x : Nat → State) (got : Nat → Option Nat) : Prop :=
  x 0 = atHome c (mapTouches c flags) ∧ ∀ j l, (lanesOf c.e)[j]? = some l →
    mapPage (x j) c.g.part (coreOfKey c.k) (regValue (getLane c.g l) c.a 64) (flags.testBit 0) (flags.testBit 1) (flags.testBit 2) = (x (j + 1), got l)

/-- R361: the lines of a context image. -/
def contextLines (c : Ctx) (raw : BitVec 512) : List Nat := linesFrom ((entryOf raw).base + resourceIndex c c.a) (imageSize c.g)

/-- R361: the place of a context image: its resource and address. -/
def imageAt (c : Ctx) (raw : BitVec 512) : Prop :=
  let off := resourceIndex c c.a
  CheckedKinds c (resourceIndex c c.b) [1] raw ∧ off % 256 = 0 ∧ off + imageSize c.g ≤ linearBytes (entryOf raw)

end Sys2Proof.Claims

/-- R338 to R341, R356: `SYSRD` completes and gives each lane of E the system register; `SYSWR` completes and writes the value
of the lowest lane of E to a register of the group, or to none. -/
def Obligations.SystemRegisters : Prop :=
  ∀ d a b m,
    LaneResult (.sysrd d a m) (sysType a) (fun c => sysValue c a.toNat) ∧
    (∀ s k g r, Issues s k g r → legal (.syswr a b m) = true →
      let i := Instr.syswr a b m
      (∀ l < 32, (setE g i).getLsbD l = true →
        namesInside (ctx s k g r i l) = true ∧ (val (ctx s k g r i l) b.toNat (sysType a)).isSome = true) →
      (setE g i = 0 → exec i s = .next (afterLanes s k g r i (fun c => c.ln) fun c => c.ln)) ∧
      (∀ v, setE g i ≠ 0 → val (ctx s k g r i (lowestLane (setE g i))) b.toNat (sysType a) = some v →
        exec i s = .next (putGroup s k (advance (mapLanes (sysWritten g a.toNat v) fun l ln =>
          if (setE g i).getLsbD l then latched ln none else ln) r i))))

/-- R336, R357, R358: in a handler pass `RTRAP` edits the position in the record: form 0 past the faulted instruction, form 1
to its next repeat, form 2 to the start of a block; `RFLT` makes the lanes return, `PARK` makes them park with its code. -/
def Sys2Proof.Claims.HandlersDispose : Prop :=
  ∀ a code m,
    let same := fun (s : State) (_ : Nat) (_ : Group) (_ : Run) (_ : Word) => s
    let once := fun (_ : Ctx) (x : PassLane) => !endsBlock x.trec && !x.edited
    PassChange (.rtrap 0 a m) same once (fun _ x => { x with trec := past x.trec, edited := true }) ∧
    PassChange (.rtrap 1 a m) same once (fun _ x =>
      { x with trec := if x.trec.rpt.toNat < recordCount x.trec then { x.trec with rpt := x.trec.rpt + 1 } else past x.trec
               edited := true }) ∧
    PassChange (.rtrap 2 a m) same
      (fun c x => match val c c.a 6 with | some t => decide (t = 63) || decide (t < faultedBlocks c x.trec) | none => false)
      (fun c x => { x with trec := { x.trec with blk := BitVec.ofNat 6 ((val c c.a 6).getD 0), off := 0, rpt := 0 } }) ∧
    PassChange (.rflt m) same (fun _ _ => true) (fun _ x => { x with disp := .resume }) ∧
    PassChange (.park code m) (fun s k g r e => parkEvent s k g r e code) (fun _ _ => true)
      (fun _ x => { x with disp := .park code })

/-- R355, R357, R358: outside a handler pass `RTRAP` and `RFLT` are illegal instructions; `PARK` reports its lanes with an
event and parks them, past it, with its code. -/
def Sys2Proof.Claims.ParkAndPasses : Prop :=
  ∀ f a code m s k g r, issuing s = some (k, g, r) → g.pass = none →
    (∀ i ∈ [Instr.rtrap f a m, .rflt m],
      exec i s = .next (putGroup s k (advanceBy (mapLanes g fun l ln =>
        if (selectedMask g).getLsbD l then
          { ln with hold := .pending (mkRec g r (encode i) l 0x01 0 {}), off := BitVec.ofNat 16 (offOf r), rpt := BitVec.ofNat 8 r.rpt }
        else ln) r (encode i).length))) ∧
    (legal (.park code m) = true →
      exec (.park code m) s = .next (afterLanes (parkEvent s k g r (setE g (.park code m)) code) k g r (.park code m)
        (fun c => { latched c.ln none with hold := .waiting (some code), rpt := 0
                                           off := BitVec.ofNat 16 (offOf r + (encode (.park code m)).length) }) fun c => c.ln))

/-- R332, R355, R359: in a fault pass `MAPF`, when nothing holds a line of the frame pool that it touches nor a stack of the
partition and the partition's rate lets the lines pass (R346, R349, R378; what it counts is notes/assumptions/54), maps or unmaps a page for each lane of E in ascending order: D takes the frame set
or 0xFFFFFFFF, p14 whether it was done, p15 the opposite; outside a pass it parks the lanes of E with cause privilege, and so
does `TLBINV`. -/
def Sys2Proof.Claims.PagesAreMapped : Prop :=
  ∀ u a b f m,
    (∀ x got, GroupDone (.mapf u a b m) false
      (fun c => inFaultPass c.g = true ∧ resourceIndex c c.b / 2 ^ 3 % 2 ^ 29 = 0 ∧
        everyLane c (fun y => regInside y.g y.ln y.a 64 && regInside y.g y.ln y.d 32) ∧
        mapFree c (resourceIndex c c.b) ∧ mapsPages c (resourceIndex c c.b) x got)
      (fun c => (x (lanesOf c.e).length, lanesBy c fun y =>
        let ln := loaded y.ln y.d 6 ((got y.l).getD 0xFFFFFFFF)
        { ln with preds := setPred (setPred ln.preds 14 (got y.l).isSome) 15 (!(got y.l).isSome) }))) ∧
    (∀ s k g r, issuing s = some (k, g, r) → g.pass = none → ∀ i ∈ [Instr.mapf u a b m, .tlbinv f a m],
      legal i = true → setE g i ≠ 0 →
      exec i s = .next (switchedTo s k (advanceBy (lanesBy (gctx s k g r i false) fun y =>
        parkLane y.ln (mkRec g r (encode i) y.l 0x0A 0 {})) r (encode i).length)))

/-- R220, R342, R359: `MAPF` looks the page up, which writes an event when the walk meets a malformed entry; of the state after
that: `MAPF` of a page that is mapped already gives its frame set and changes nothing; the unmapping of a pinned page
or of one that is not mapped fails and changes nothing; after the unmapping of a page the walk of the page table finds
nothing at its addresses, and no byte outside the page's entry has changed. `MAPF` of a page that is not mapped, its tables
made, gives it the frame set that the pool gives, every byte of it zero, and writes the page's entry; with the pool dry it
fails. -/
def Sys2Proof.Claims.MappingAPage : Prop :=
  ∀ s0 p core addr w pin unmap, addr < 2 ^ 52 →
    let va := addr / 2 ^ 16 * 2 ^ 16
    let s := tableWalkEvent s0 p va core
    let mapped := mapPage s0 p core addr w pin false
    let unmapped := mapPage s0 p core addr w pin true
    ∀ x, smFind s.parts p = some x →
    (findLeaf s p x.regs.ptbase.toNat 1 va 3 = .bigPage → mapPage s0 p core addr w pin unmap = (s, none)) ∧
    (∀ t f pinned, findLeaf s p x.regs.ptbase.toNat 1 va 3 = .table t → leafEntry s p t va = some (f, pinned) →
      mapped = (s, some f) ∧
      (pinned = true → unmapped = (s, none)) ∧
      (pinned = false → unmapped.2 = some f ∧ walk unmapped.1 p addr = .unmapped ∧
        ∀ y, y < pteKey p t 4 va ∨ pteKey p t 4 va + 8 ≤ y → memGet unmapped.1.mem y = memGet s.mem y)) ∧
    (∀ t u, findLeaf s p x.regs.ptbase.toNat 1 va 3 = .table t → leafEntry s p t va = none →
      unmapped = (s, none) ∧
      (popFrame s p = (u, none) → mapped = (u, none)) ∧
      (∀ f, popFrame s p = (u, some f) →
        let v := freshPage u p va (2 ^ 16) f
        mapped = ({ v with mem := memWrite v.mem (pteKey p t 4 va) 8 (pteOf f w pin) }, some f) ∧
        (∀ y < 2 ^ 16, memGet v.mem (physKey p f y) = 0)))

/-- R222: the hotness of an entry that leaves a TLB is added, up to 255, to the one byte of the hotness table that its frame set
has; nothing else changes; where that byte is not mapped nothing is added, and a malformed entry on the way has its event
(R220). -/
def Sys2Proof.Claims.HotnessIsAdded : Prop :=
  ∀ s p x e, smFind s.parts p = some x →
    (translate s p (x.regs.hotbase.toNat + e.fset) = none →
      addHotness s p e = walkEvent s p (x.regs.hotbase.toNat + e.fset) 0) ∧
    (∀ y w, translate s p (x.regs.hotbase.toNat + e.fset) = some (y, w) →
      addHotness s p e = { s with mem := memSet s.mem y (BitVec.ofNat 8 (min ((memGet s.mem y).toNat + e.hot.toNat) 255)) })

/-- R219, R222, R254, R360: in a fault pass `TLBINV` completes when no earlier access to the pages is held or still to be made by an
engine; with no access of the partition open and no frame set that pages share it takes the translations of a
page, or all, out of every TLB of the partition and adds the hotness of those that leave the channels' TLBs, and nothing else
changes. -/
def Sys2Proof.Claims.TranslationsAreDropped : Prop :=
  ∀ f a m s k g r, Issues s k g r → legal (.tlbinv f a m) = true → groupE g (.tlbinv f a m) false ≠ 0 →
    inFaultPass g = true →
    let i := Instr.tlbinv f a m
    let page := if f = 0 then some (slotValue g ((gctx s k g r i false).a - 0xD0) 64) else none
    let big := match page with
      | some va => (match channelWalk s g.part va with | .page _ _ _ b => b | _ => false)
      | none => false
    pagesBusy s g.part page big = false →
    (∃ t, exec i s = .next (switchedTo t k (advance g r i))) ∧
    ∀ x, smFind s.parts g.part = some x → x.aliased = [] → (∀ q ∈ s.reqs, q.2.part ≠ g.part) →
      exec i s = .next (switchedTo
        ((x.tlb.filter fun e => keyInPages page e.1).foldl (fun t e => addHotness t g.part e.2)
          { s with parts := smPut s.parts g.part { x with
              tlb := x.tlb.filter fun e => !keyInPages page e.1
              stlb := x.stlb.filter fun e => !keyInPages page e.1 } }) k (advance g r i))

/-- R208, R351, R361: `CTXSV` and `CTXLD` complete when their checks hold: the save, or the load of an image that fits the group
and whose grants hold, takes effect at the end of the gate; nothing changes before, but that the load reads its image, once
nothing holds its lines, and each line that storage must rebuild has its event (R346). -/
def Sys2Proof.Claims.ContextRequests : Prop :=
  ∀ u a b m raw,
    GroupDone (.ctxsv u a b m) false
      (fun c => engineBusy c.s c.k = false ∧ imageAt c raw ∧ (entryOf raw).ro = false ∧ (entryOf raw).gre = false ∧
        c.g.pend = [] ∧ c.g.ctxReq = none)
      (fun c => (c.s, { c.g with ctxReq := some (.save (c.g.uwin.toNat + c.d) ((entryOf raw).base + resourceIndex c c.a) raw) })) ∧
    (∀ bs, GroupDone (.ctxld a b m) false
      (fun c => imageAt c raw ∧ c.g.ctxReq = none ∧ readsFree c (contextLines c raw) (imageSize c.g) ∧
        let s := (withRead c (contextLines c raw) (imageSize c.g)).s
        entryBytes s c.g.part (entryOf raw) (resourceIndex c c.a) (imageSize c.g) = .ok bs ∧
        plainPlace s c.g.part ((entryOf raw).base + resourceIndex c c.a) ∧ imageFits c.g bs = true ∧
        imageGrants bs = true)
      (fun c => ((withRead c (contextLines c raw) (imageSize c.g)).s, { c.g with ctxReq := some (.load bs) })))

namespace Sys2Proof.Claims

open Sys2Proof.Machine

/-- R190, R191, R351 to R353: a context image and a group hold the same: positions' blocks, parking, predicates, windows and registers
of the lanes, uniform registers and predicates, wait counts, the last batch closed, permutation, row and column masks, and the
tiles with their side records. `p0` and `q0` are true whatever the image holds. -/
def ImageHolds (bs : List Byte) (g : Group) : Prop :=
  let h := imageNat bs 0 256
  (bitsOf h 952 8 ||| 1 = (g.qpreds ||| 1).toNat ∧ bitsOf h 967 9 = g.uwin.toNat ∧ bitsOf h 992 32 = g.bclose % 2 ^ 32 ∧
    ∀ b < 63, bitsOf h (1048 + 8 * b) 8 = smGet 0 g.waits b % 256) ∧
  (∀ l < 32, let x := imageNat bs (0x0100 + 64 * l) 64
    let ln := getLane g l
    bitsOf x 58 6 = ln.lb.toNat ∧ bitsOf x 88 8 = ln.win.toNat ∧ bitsOf x 96 16 ||| 1 = (ln.preds ||| 1).toNat ∧
      (bitsOf x 117 1 = 1 ↔ ∃ code, ln.hold = .waiting (some code)) ∧
      ∀ n < g.nreg, imageNat bs (0x1100 + 128 * n + 4 * l) 4 = (getReg ln n).toNat) ∧
  (∀ u < 384, imageNat bs (0x0900 + 4 * u) 4 = (getUreg g u).toNat) ∧
  (∀ t < 4, imageNat bs (0x0F00 + 48 * t) 48 = (smGet identityTable g.pms t).toNat) ∧
  (∀ m < 4, imageNat bs (0x1040 + 8 * m) 8 = (smGet 0 g.rowm m).toNat ∧ imageNat bs (0x1060 + 16 * m) 16 = (smGet 0 g.colm m).toNat) ∧
  ∀ t < g.nacc, let at_ := 0x1100 + 128 * g.nreg + 33280 * t
    let x := tileOf g t
    (∀ e < 8192, imageNat bs (at_ + 4 * e) 4 = (smGet 0 x.elems e).toNat) ∧
      imageNat bs (at_ + 32768 + 392) 8 = x.poison.toNat ∧ imageNat bs (at_ + 32768 + 384) 1 % 32 = x.xfmt.toNat ∧
      (∀ i < 128, imageNat bs (at_ + 32768 + i) 1 = (smGet 0 x.xa i).toNat) ∧
      ∀ i < 256, imageNat bs (at_ + 32768 + 128 + i) 1 = (smGet 0 x.xb i).toNat

/-- R361: the group stands between gates, outside every handler pass and with nothing else to do before a save or load: no lane to
replay, no record pending, nothing of it queued in an engine, not asked to leave. -/
def AtLastSteps (s : State) (k : Nat) (g : Group) : Prop :=
  g.pass = none ∧ mapLanes { g with ctl := .between } (fun _ ln => settleReplay ln) = g ∧ replayBlock g = none ∧
    (∀ l < 32, ∀ r, (getLane g l).hold ≠ .pending r) ∧ g.preempt = false ∧ engineBusy s k = false

/-- R109, R361: after step 3 the group goes on as `h` in the state `t`: it votes over the blocks that its lanes occupy, retires when
all lanes have left, or stays while those that have not left are parked. -/
def GoesOnAs (s : State) (k : Nat) (g : Group) (t : State) (h : Group) : Prop :=
  let set := occupiedOf h 0xFFFFFFFF
  (set ≠ 0 → boundary s k g = vote t k h h.kern set) ∧
    (set = 0 → (∀ l < 32, (getLane h l).hold = .free) → boundary s k g = retireGroup t k h) ∧
    (set = 0 → (∃ l < 32, (getLane h l).hold ≠ .free) → boundary s k g = putGroup t k h)

end Sys2Proof.Claims

/-- R208, R351 to R353, R361: what a requested `CTXSV` or `CTXLD` does at the end of the gate. `CTXSV` writes the image of the
group, byte by byte, and D takes 0, or 1 when a byte could not be written, which leaves that byte and has its event; the image's header names the format, the kernel and the
group's numbers of registers and tiles, every position is at offset 0 and every latch stale. `CTXLD` replaces the group's state by what the image
holds, all else of the group staying; its batches up to `BCLOSE` are complete. The vote then runs on the group as it is. A save through a
graph writes what the graph gives (R311), which this statement leaves out. -/
def Sys2Proof.Claims.ContextsTakeEffect : Prop :=
  (∀ g ctr, let bs := imageBytes g ctr
    let h := imageNat bs 0 256
    bs.length = 0x1100 + 128 * g.nreg + 33280 * g.nacc ∧ ImageHolds bs g ∧
      bitsOf h 880 16 = 1 ∧ bitsOf h 928 8 = 0 ∧ bitsOf h 896 32 = g.kern % 2 ^ 32 ∧ bitsOf h 936 8 = g.nreg / 32 % 2 ^ 8 ∧
      bitsOf h 944 8 = g.nacc % 2 ^ 8 ∧ (∀ z < 8, imageNat bs (0x0FC0 + 16 * z) 16 = (smGet 0 g.shapes z).toNat) ∧
      ∀ l < 32, let x := imageNat bs (0x0100 + 64 * l) 64
        bitsOf x 64 16 = 0 ∧ bitsOf x 80 8 = 0 ∧ bitsOf x 124 4 = 15) ∧
  (∀ s k g d va raw, AtLastSteps s k g → g.ctxReq = some (.save d va raw) → (entryOf raw).gwe = false →
    (∀ b ∈ g.batches, b.complete = true) →
    accessWaits s g.part (coreOfKey k) (linesFrom va (imageSize g)) (imageSize g) = false →
    ∀ u : Nat → State,
      u 0 = (linesFrom va (imageSize g)).foldl (storeEvent g.part (coreOfKey k))
        (takeBytes { s with freeCtr := s.freeCtr + 128 } g.part (dieOfCore (coreOfKey k)) (imageSize g)) →
      (∀ i < imageSize g, let step := writeBytes (u i) g.part (va + i) 1 ((imageBytes g s.freeCtr).getD i 0).toNat
        step = .ok (u (i + 1)) ∨ ((∃ c, step = .error c) ∧ u (i + 1) = u i)) →
      ∃ t answer, t.mem = (u (imageSize g)).mem ∧
        (answer = 0 ↔ ∀ i < imageSize g, writeBytes (u i) g.part (va + i) 1 ((imageBytes g s.freeCtr).getD i 0).toNat = .ok (u (i + 1))) ∧
        (answer = 0 ∨ answer = 1) ∧ GoesOnAs s k g t { setUreg g d answer with ctxReq := none }) ∧
  (∀ s k g bs, AtLastSteps s k g → g.ctxReq = some (.load bs) → bs.length = imageSize g →
    ∃ h, ImageHolds bs h ∧ GoesOnAs s k g { s with freeCtr := s.freeCtr + 32 } h ∧
      { h with lanes := g.lanes, uregs := g.uregs, qpreds := g.qpreds, uwin := g.uwin, waits := g.waits, bclose := g.bclose
               batches := g.batches, pms := g.pms, shapes := g.shapes, rowm := g.rowm, colm := g.colm, tiles := g.tiles
               ctxReq := g.ctxReq } = g ∧
      h.ctxReq = none ∧ h.bclose = bitsOf (imageNat bs 0 256) 992 32 ∧ h.batches = g.batches.filter (fun b => h.bclose < b.num) ∧
      (∀ z < 8, smGet 0 h.shapes z = BitVec.ofNat 128 (imageNat bs (0x0FC0 + 16 * z) 16 / 2 ^ 42 * 2 ^ 42)) ∧
      ∀ l < 32, let x := imageNat bs (0x0100 + 64 * l) 64
        let ln := getLane h l
        let latch := fun i => if bitsOf x (124 + i) 1 = 1 then none else some (BitVec.ofNat 64 (bitsOf x (256 + 64 * i) 64))
        ln.nb = none ∧ ln.off = 0 ∧ ln.rpt = 0 ∧ (bitsOf x 117 1 = 0 → ln.hold = .free) ∧
          ln.lat0 = latch 0 ∧ ln.lat1 = latch 1 ∧ ln.lat2 = latch 2 ∧ ln.lat3 = latch 3)

/-- Together: what `CTXSV` and `CTXLD` ask for, and what is then done at the end of the gate. -/
def Obligations.ContextsAreSavedAndLoaded : Prop :=
  Sys2Proof.Claims.ContextRequests ∧ Sys2Proof.Claims.ContextsTakeEffect

namespace Sys2Proof.Claims

open Sys2Proof.Machine

/-! #### Launches -/

/-- R97: the line of the record that a `LAUNCH` reads. -/
def recordLine (c : Ctx) (raw : BitVec 512) : List Nat := [(entryOf raw).base + readUni c c.b 6]

/-- R97, R346: what a `LAUNCH` sees when it has read its record. -/
def recordSeen (c : Ctx) (raw : BitVec 512) : Ctx := withRead c (recordLine c raw) 128

/-- R97: the record that a `LAUNCH` reads, from a linear resource whose entry passes the checks. -/
def recordRead (c : Ctx) (raw : BitVec 512) (bs : List Byte) : Prop :=
  let off := readUni c c.b 6
  let s := (recordSeen c raw).s
  resourceEntry c.s c.g.part (resourceIndex c c.a) = .ok raw ∧ (entryOf raw).kind = 1 ∧ entryValid (entryOf raw) = true ∧
    off % 128 = 0 ∧ off + 128 ≤ linearBytes (entryOf raw) ∧
    readsFree c (recordLine c raw) 128 ∧
    entryBytes s c.g.part (entryOf raw) off 128 = .ok bs ∧ plainPlace s c.g.part ((entryOf raw).base + off)

/-- R81: the record that 128 bytes make up. -/
def recordOf (bs : List Byte) : BitVec 1024 := BitVec.ofNat 1024 (leNat bs)

/-- R83, R97, R99: a launch enters the device pool. -/
def pooled (s : State) (p : Nat) (x : Partition) (r : BitVec 1024) : State :=
  { s with
    parts := smPut s.parts p { x with pool := x.pool ++ [s.nextUid] }
    launches := smPut s.launches s.nextUid
      { part := p, queue := 64, lrec := r, cls := BitVec.ofNat 2 (recField r 108 2), lstate := .queued, met := 0, placed := 0
        retired := 0, firstCycle := none, lastCycle := none, uj := 0, chair := none }
    nextUid := s.nextUid + 1 }

/-- R84: the wait entries met after the signal words are read: those met before and those whose word, which neither a held line nor
a job's bank keeps waiting, has its threshold. -/
def metAfter (s : State) (ln : Launch) (met : BitVec 4) : Prop :=
  ∀ i < 4, met.getLsbD i = (ln.met.getLsbD i ||
    (decide (i < recWaits ln.lrec) && !requestWaits s ln.part (recWait ln.lrec i).1 && waitMet s ln.part ln.lrec i))

/-- R345, R346, R348, R378: the state after the signal words are read, one after another: their bytes have passed, each that cannot be
read, and each whose line storage must rebuild, has its event. That the launch unit injects at die 0 is the model's choice
(notes/assumptions/54). -/
def wordsRead (s : State) (ln : Launch) : State :=
  (signalsToRead s ln).foldl (fun t i => wordEvents t ln.part (recWait ln.lrec i).1)
    (takeBytes s ln.part 0 (4 * (signalsToRead s ln).length))

/-- R95: the crews whose groups are asked already. -/
def askedCrews (s : State) : List Nat := (s.crews.filter fun e => s.groups.any fun h => h.2.crew == e.1 && h.2.preempt).map (·.1)

/-- R95: the groups of the crews are asked to leave. -/
def asks (s : State) (crews : List Nat) : State :=
  { s with groups := s.groups.map fun e => (e.1, if crews.contains e.2.crew then { e.2 with preempt := true } else e.2) }

/-- R117, R119: a group whose lanes on an entry are released: they replay, with stale latches. -/
def boundLanes (g : Group) (res : Nat) : Group :=
  mapLanes g fun _ ln => match ln.hold with
    | .pending r =>
      if r.cause = 0x87 ∧ r.res.toNat = res then { ln with hold := .replay, lat0 := none, lat1 := none, lat2 := none, lat3 := none }
      else ln
    | _ => ln

end Sys2Proof.Claims

/-- R81, R82, R97, R99, R346: `LAUNCH` reads its record once nothing holds the line, with the event of a line that storage must
rebuild; it answers 2 for a record that it cannot accept, 1 when the device pool is full, each without any other effect, and 0 when a valid record enters the pool, its class cut to the group's. -/
def Obligations.LaunchesFromGroups : Prop :=
  ∀ u a b m raw bs x,
    GroupDone (.launch u a b m) false
      (fun c => resourceEntry c.s c.g.part (resourceIndex c c.a) = .ok raw ∧ (entryOf raw).kind ≠ 0 ∧
        entryValid (entryOf raw) = true ∧
        (readUni c c.b 6 % 128 ≠ 0 ∨ (entryOf raw).kind ≠ 1 ∨ linearBytes (entryOf raw) < readUni c c.b 6 + 128))
      (fun c => (c.s, slotWith c.g c.d 2)) ∧
    GroupDone (.launch u a b m) false
      (fun c => recordRead c raw bs ∧ recordValid (recordSeen c raw).s c.g.part (recordOf bs) = false)
      (fun c => ((recordSeen c raw).s, slotWith c.g c.d 2)) ∧
    GroupDone (.launch u a b m) false
      (fun c => recordRead c raw bs ∧ recordValid (recordSeen c raw).s c.g.part (recordOf bs) = true ∧
        smFind (recordSeen c raw).s.parts c.g.part = some x ∧ 4096 ≤ x.pool.length)
      (fun c => ((recordSeen c raw).s, slotWith c.g c.d 1)) ∧
    GroupDone (.launch u a b m) false
      (fun c => recordRead c raw bs ∧ recordValid (recordSeen c raw).s c.g.part (recordOf bs) = true ∧
        smFind (recordSeen c raw).s.parts c.g.part = some x ∧ x.pool.length < 4096)
      (fun c => (pooled (recordSeen c raw).s c.g.part x
          (recWithClass (recordOf bs) (min (recField (recordOf bs) 108 2) c.g.cls.toNat)),
        slotWith c.g c.d 0))

/-- R83, R84, R86, R99: a launch that may leaves Queued for Waiting, or for Placing when it waits for nothing; reading the
signal words that nothing keeps waiting, when the partition's rate lets them pass (R378), marks the waits that are met, for good,
and a launch whose waits are all met goes to Placing. -/
def Sys2Proof.Claims.LaunchesAdvance : Prop :=
  (∀ s u ln x, smFind s.launches u = some ln → smFind s.parts ln.part = some x → mayLeaveQueue s x u ln = true →
    exec (.launchDequeue u) s = .next (putLaunch s u { ln with lstate := if recWaits ln.lrec = 0 then .placing else .waiting })) ∧
  (∀ s u ln, smFind s.launches u = some ln → ln.lstate = .waiting → recWaits ln.lrec ≤ 4 → signalsToRead s ln ≠ [] →
    rateAllows s ln.part 0 (4 * (signalsToRead s ln).length) = true →
    ∀ i ∈ [Instr.signalWordRead u, .waitPollTimer u], ∃ met, metAfter s ln met ∧
      exec i s = .next (putLaunch (wordsRead s ln) u { ln with
        met := met
        lstate := if (List.range (recWaits ln.lrec)).all (fun j => met.getLsbD j) then .placing else .waiting }))

/-- R87 to R91: the next cluster set of a launch that has the turn is placed whole on distinct cores of a cluster of its
partition where it fits: each crew stands on its core with its number in the launch. -/
def Sys2Proof.Claims.ClusterSetsArePlaced : Prop :=
  ∀ s u cluster cores x p kn need w, smFind s.launches u = some x → smFind s.parts x.part = some p →
    launchKernel s x = some kn → launchNeed s x = some need → holdsCluster p cluster = true →
    coresDistinct cluster cores = true → nextSet s p u x (cluster / 32) = some w → w.crews = [] →
    higherWaits s x.part p (cluster / 32) x.cls.toNat = false → dieFits s noneGone p (cluster / 32) w.count need = true →
    hasTurn s p u x (cluster / 32) = true → cores.length = w.count → (∀ c ∈ cores, coreFits s noneGone c need = true) →
    ∃ t y, exec (.clusterSetPlace u cluster cores) s = .next t ∧ smFind t.launches u = some y ∧
      y.placed = x.placed + w.count ∧ y.firstCycle = some (x.firstCycle.getD s.cycle) ∧ t.mem = s.mem ∧
      ∀ j core, cores[j]? = some core → ∃ id c, smFind t.crews id = some c ∧ c.launch = u ∧ c.core = some core ∧
        c.index = x.placed + j ∧ c.set = w.set ∧ c.size = need.size ∧ c.live = need.size ∧ c.bars = [] ∧ c.scratch = []

/-- R90, R96: a pre-empted set of a launch that has the turn is placed again on cores of a cluster where it fits: each of its
crews stands on its core and holds no saved group any more. That a crew which comes back finds its scratch empty is the model's
reading (notes/assumptions/36). -/
def Sys2Proof.Claims.SavedSetsAreResumed : Prop :=
  ∀ (s : State) (u cluster : Nat) (cores : List Nat) x p kn need w, smFind s.launches u = some x → smFind s.parts x.part = some p →
    launchKernel s x = some kn → launchNeed s x = some need → holdsCluster p cluster = true →
    coresDistinct cluster cores = true → nextSet s p u x (cluster / 32) = some w → w.crews ≠ [] →
    higherWaits s x.part p (cluster / 32) x.cls.toNat = false → dieFits s noneGone p (cluster / 32) w.count need = true →
    hasTurn s p u x (cluster / 32) = true → cores.length = w.count → (∀ c ∈ cores, coreFits s noneGone c need = true) →
    (w.crews.map (·.1)).Nodup →
    ∃ t y, exec (.clusterSetPlace u cluster cores) s = .next t ∧ smFind t.launches u = some y ∧ y.placed = x.placed ∧
      t.mem = s.mem ∧ ∀ (j : Nat) core, cores[j]? = some core → ∃ (id : Nat) (c d : Crew), w.crews[j]? = some (id, c) ∧ smFind t.crews id = some d ∧
        d.core = some core ∧ d.launch = c.launch ∧ d.index = c.index ∧ d.bars = c.bars ∧ d.live = c.saved.length ∧
        d.saved = [] ∧ d.scratch = []

/-- R88, R94, R95, R272: where a set fits on no cluster of the die but would if the crews of lower classes went, and more crews
must be asked than those that are asked already, the groups of exactly the crews that are to go are asked to leave, and
nothing else happens; each of these crews was asked before, or is of the partition and of a lower class, or belongs to the
cluster set of such a crew. That only crews of the launch's own partition are asked is the model's choice
(notes/assumptions/38). -/
def Sys2Proof.Claims.LowerClassesMakeRoom : Prop :=
  ∀ s u cluster cores x p kn need w, smFind s.launches u = some x → smFind s.parts x.part = some p →
    launchKernel s x = some kn → launchNeed s x = some need → holdsCluster p cluster = true →
    coresDistinct cluster cores = true → nextSet s p u x (cluster / 32) = some w →
    higherWaits s x.part p (cluster / 32) x.cls.toNat = false → dieFits s noneGone p (cluster / 32) w.count need = false →
    dieFits s (lowerCrews s x.part x.cls.toNat) p (cluster / 32) w.count need = true →
    let crews := victims s x.part p (cluster / 32) x.cls.toNat w.count need (askedCrews s) (s.crews.length + 1)
    crews.length ≠ (askedCrews s).length →
    exec (.clusterSetPlace u cluster cores) s = .next (asks s crews) ∧
      ∀ c ∈ crews, c ∈ askedCrews s ∨ ∃ e ∈ s.crews, e.2.part = x.part ∧ crewClass s e.2 < x.cls.toNat ∧
        ∃ d ∈ s.crews, d.1 = c ∧ d.2.launch = e.2.launch ∧ d.2.set = e.2.set

/-- R91: a group at start: every lane at the entry block with registers of zero, predicates false but p0, window 0 and stale
latches; the argument in u0 and u1; no wait, no barrier, no batch, no tile. -/
def Sys2Proof.Claims.GroupsStart : Prop :=
  ∀ uid p u crew num handle cls kn arg,
    let g := newGroup uid p u crew num handle cls kn arg
    (∀ l < 32, let ln := getLane g l
      ln.lb = BitVec.ofNat 6 kn.entry ∧ ln.nb = none ∧ ln.hold = .free ∧ (∀ n, getReg ln n = 0) ∧ ln.win = 0 ∧
        (∀ q, 1 ≤ q → q < 16 → lanePred ln q = false) ∧ lanePred ln 0 = true ∧
        ln.lat0 = none ∧ ln.lat1 = none ∧ ln.lat2 = none ∧ ln.lat3 = none) ∧
    getUreg g 0 = arg.extractLsb' 0 32 ∧ getUreg g 1 = arg.extractLsb' 32 32 ∧ (∀ n, 2 ≤ n → getUreg g n = 0) ∧
    g.uwin = 0 ∧ (∀ q, 1 ≤ q → q < 8 → uniPred g q = false) ∧ g.bclose = 0 ∧ g.trapvec = 0 ∧
    g.wait = .none ∧ g.waits = [] ∧ g.batches = [] ∧ g.pend = [] ∧ g.jobs = [] ∧ g.pass = none ∧ g.ctxReq = none ∧
    g.preempt = false ∧ (∀ t, smGet identityTable g.pms t = identityTable) ∧ (∀ z, smGet 0 g.shapes z = 0) ∧ (∀ t, tileOf g t = Tile.zero) ∧
    g.nreg = kn.nreg ∧ g.nacc = kn.nacc ∧ g.ctl = .between

/-- R118: a lane of a group that is saved inside a gate, at its position: at the block it has chosen; else, when the walk has
selected it and the lane stands inside its block, it replays from the offset of its block, at the repeat that the open strand
has reached; any other lane as it stands. -/
def Sys2Proof.Claims.stoppedAt (r : Run) (ln : Lane) (selected : Bool) : Lane :=
  let off := smGet 0 r.offs ln.lb.toNat
  let rpt := match r.strand with | some st => if st.blk = ln.lb then r.rpt else 0 | none => 0
  match ln.nb with
  | some b => { ln with lb := b, nb := none, off := 0, rpt := 0 }
  | none =>
    if selected = true ∧ (off ≠ 0 ∨ rpt ≠ 0) then { ln with hold := .replay, off := BitVec.ofNat 16 off, rpt := BitVec.ofNat 8 rpt }
    else ln

/-- R95, R96, R118, R323, R354: a pre-empted group whose accesses and matrix instructions are complete, and which no attach keeps
waiting, is saved inside a gate: it leaves
its slot and stands with its crew, registers and predicates unchanged, each lane at its block, offset and repeat; its image, with the states of
the crew's barriers after the image of the crew's last group, is written into the part of the save area that the crew takes for
it, the lowest that no crew of the partition holds. That the parts stand 2^20 bytes apart from `ctl.svbase` is the model's
choice (notes/assumptions/13). -/
def Obligations.GroupsAreSaved : Prop :=
  ∀ s k g r c x, smFind s.groups k = some g → g.ctl = .run r → g.preempt = true → g.pass = none → engineBusy s k = false →
    (∀ e ∈ s.reqs, e.2.group = k → e.2.orphan = true) → attaching s g = false → smFind s.crews g.crew = some c → smFind s.parts g.part = some x →
    ∃ t c' saved, exec (.preemptTimeout k) s = .next t ∧ smFind t.groups k = none ∧ smFind t.crews g.crew = some c' ∧
      c'.saved = c.saved ++ [saved] ∧ saved.ctl = .between ∧ saved.preempt = false ∧ saved.uregs = g.uregs ∧
      saved.qpreds = g.qpreds ∧ saved.tiles = g.tiles ∧ t.cscratch = s.cscratch ∧
      (∀ l < 32,
        let stop := stoppedAt r (getLane g l) (laneSelected g r (getLane g l).lb l && (getLane g l).lb ≠ 63)
        (getLane saved l).regs = (getLane g l).regs ∧ (getLane saved l).preds = (getLane g l).preds ∧
          (getLane saved l).lb = stop.lb ∧ (getLane saved l).off = stop.off ∧ (getLane saved l).rpt = stop.rpt) ∧
      ∃ area : Nat, c'.areas = c.areas ++ [area] ∧ (∀ e ∈ s.crews, e.2.part = g.part → area ∉ e.2.areas) ∧
        (∀ n < area, ∃ e ∈ s.crews, e.2.part = g.part ∧ n ∈ e.2.areas) ∧
        t.mem = (pokeVa s g.part (x.regs.svbase.toNat + 2 ^ 20 * area)
          (savedImage saved true s.freeCtr ++ if c.saved.length + 1 = c.live then barrierBytes c.bars else [])).mem

/-- R91, R92, R346, R378: a chair that is due starts a group with the oldest items of its list when a core has room, nothing holds the
lines of the list and the partition's rate lets them pass, with the event of a line that storage must rebuild, and its timer
stops. The group is a crew of one and stands in the lowest slot of the core's first sequencer that no crew holds: it is a group
at its start, of the chair's class and kernel, where lane i holds the i-th item in `v0`, or in `v0` and `v1` when the items have 8 bytes, and the lanes
past the last item have left. The timer of a bound chair expires once. -/
def Sys2Proof.Claims.ChairsStartGroups : Prop :=
  (∀ s u core x ch p kn l t items, smFind s.launches u = some x → x.chair = some ch → smFind s.parts x.part = some p →
    launchKernel s x = some kn → holdsCluster p (clusterOfCore core) = true → dieOfCore core = homeDie p ch.header →
    readList s x.part (entryOf ch.entry) = .ok l → chairDue ch (l.tail - l.head) = true →
    higherWaits s x.part p (homeDie p ch.header) x.cls.toNat = false → coreFits s noneGone core (needOf 1 kn) = true →
    let lines := touchPop s x.part 32 (entryOf ch.entry)
    (∀ va ∈ lines.reads ++ lines.writes, addressHeld s x.part va = false) →
    rateAllows s x.part (dieOfCore core) lines.bytes = true →
    popList (linesRead (takeBytes s x.part (dieOfCore core) lines.bytes) x.part core lines.reads) x.part (entryOf ch.entry) 32
      = .ok (t, items) →
    let held := (s.crews.filter fun e => e.2.core == some core).flatMap fun e => e.2.slots
    ∀ slot < 8, 32 * core + slot ∉ held → (∀ n < slot, 32 * core + n ∈ held) →
    ∃ v y id c h uid arg, exec (.chairGroupStart u core) s = .next v ∧ smFind v.launches u = some y ∧
      y.chair = some { ch with expired := false, resident := ch.resident + 1, started := ch.started + 1 } ∧
      smFind v.crews id = some c ∧ c.launch = u ∧ c.core = some core ∧ c.size = 1 ∧ c.slots = [32 * core + slot] ∧ v.mem = t.mem ∧
      smFind v.groups (32 * core + slot) = some h ∧
      h = mapLanes (newGroup uid x.part u id 0 (recField x.lrec 64 32) x.cls kn arg) (fun l ln => match items[l]? with
        | some item => writeAbs ln 0 (if itemSize (entryOf ch.entry) = 8 then 8 else 6) item
        | none => { ln with lb := 63 })) ∧
  (∀ s u x ch, smFind s.launches u = some x → x.chair = some ch → ch.bound = true → ch.expired = false →
    exec (.chairTimerExpiry u) s = .next (putLaunch s u { x with chair := some { ch with expired := true } }))

/-- R83, R85, R345, R346, R378: the completion add of a launch, once nothing keeps its signal word waiting and the partition's rate
lets it pass, adds its value to the word modulo 2^32, as one step, and the launch is Done; when the word cannot be read or
written it keeps its value, the event of a lost line or of a malformed entry is written as by any access, event 0x1A is reported
and the launch is Done. A launch without a signal is Done when the last group of its last crew retires, and writes its energy
record; one with a signal is then Completing. That the add's bytes pass at die 0 is the model's choice (notes/assumptions/54). -/
def Sys2Proof.Claims.LaunchesComplete : Prop :=
  (∀ s u x, smFind s.launches u = some x → x.lstate = .completing →
    let va := recSignal x.lrec
    let s1 := takeBytes s x.part 0 4
    let sum := fun v : Nat => (v + recField x.lrec 160 32) % 2 ^ 32
    (va = 0 ∨ (requestWaits s x.part va = false ∧ rateAllows s x.part 0 4 = true)) →
    (∃ t, exec (.completionAdd u) s = .next t ∧ smFind t.launches u = none ∧ t.groups = s.groups ∧ t.crews = s.crews) ∧
    (va ≠ 0 → ∀ v t, readBytes s1 x.part va 4 = .ok v →
      writeBytes (lineRequest x.part 0 none true s1 va) x.part va 4 (sum v) = .ok t →
      exec (.completionAdd u) s = .next (finishLaunch (countPeer t x.part va) u x)) ∧
    (va ≠ 0 → ∀ c, (readBytes s1 x.part va 4 = .error c ∨ ∃ v, readBytes s1 x.part va 4 = .ok v ∧
        writeBytes (lineRequest x.part 0 none true s1 va) x.part va 4 (sum v) = .error c) →
      exec (.completionAdd u) s = .next (finishLaunch (deviceEvent (faultEvent s1 x.part c va 0) x.part 0x1A { addr := va }) u x))) ∧
  (∀ s k g c x, smFind s.crews g.crew = some c → c.live ≤ 1 → smFind s.launches c.launch = some x → x.chair = none →
    x.retired + 1 = recField x.lrec 128 32 →
    (recSignal x.lrec = 0 → smFind (retireGroup s k g).launches c.launch = none ∧
      (retireGroup s k g).mem = (energyRecord s x.part { x with lastCycle := some s.cycle }).mem) ∧
    (recSignal x.lrec ≠ 0 → ∃ y, smFind (retireGroup s k g).launches c.launch = some y ∧ y.lstate = .completing ∧
      (retireGroup s k g).mem = s.mem))

namespace Sys2Proof.Claims

open Sys2Proof.Machine

/-- R103, R345, R346: the state after a kernel's gate table is read at a group's core, with the events of its pages and lines. -/
def tableRead (s : State) (k : Nat) (g : Group) (kn : Kernel) : State := rangeRead s g.part (coreOfKey k) kn.gateTable 65536

/-- R102, R345, R346: the state after the code of a gate is read. -/
def codeRead (s : State) (k : Nat) (g : Group) (kn : Kernel) (gate : GateSlot) : State :=
  rangeRead s g.part (coreOfKey k) (kn.codeBase + 4 * gate.off) (4 * gate.len)

/-- R348: no line of the gate's code is lost. What becomes of a group else is notes/assumptions/58. -/
def codeKept (s : State) (g : Group) (kn : Kernel) (gate : GateSlot) : Prop :=
  lostIn s g.part (kn.codeBase + 4 * gate.off) (4 * gate.len) = []

/-- R117, R328: a group whose lanes on an entry without a binding are reported: they stay parked. -/
def reportedLanes (g : Group) (res : Nat) : Group :=
  mapLanes g fun _ ln => match ln.hold with
    | .pending r => if r.cause = 0x87 ∧ r.res.toNat = res then { ln with hold := .waiting none } else ln
    | _ => ln

/-- R117, R345: the report of a group's lanes on an entry: their mask, the record of the lowest of them, the token. -/
def entryReport (e : Nat × Group) (res token : Nat) : EventInfo :=
  { body := (match (getLane e.2 (lowestLane (lanesOnEntry e.2 res))).hold with | .pending r => memRecord r (coreOfKey e.1) | _ => 0)
    mask := (lanesOnEntry e.2 res).toNat, addr := token, kernel := e.2.kern, core := coreOfKey e.1 }

end Sys2Proof.Claims

/-- R103, R105, R116, R117, R119, R328, R345: a group between gates with released lanes starts the replay of the lowest of their
blocks; the loader binds an entry of kind 0 with a token once and releases the lanes that wait for it, or those of an entry bound
already; it binds nothing to an entry of kind 0 with token 0, as a release of a handle leaves it: the lanes that wait for an
entry that the loader does not bind are reported with loader report 0x02 and stay parked; it installs the gate of a recorded set
in an empty slot, code first. -/
def Obligations.LoaderWhileGroupsRun : Prop :=
  (∀ s k g, smFind s.groups k = some g → g.ctl = .between → g.pass = none → replayLanes g ≠ 0 →
    exec (.laneReplay k) s = .next (boundary s k g)) ∧
  (∀ s k g b kn gate, smFind s.groups k = some g → g.ctl = .between → g.pass = none → (∀ l < 32, settleReplay (getLane g l) = getLane g l) →
    replayLanes g ≠ 0 → replayBlock (mapLanes g fun _ ln => ln) = some b → findKernel s g.part g.kern = some kn →
    singletonOf (loadedGates (tableSlots s g.part kn)) b = some gate → codeKept s g kn gate →
    exec (.laneReplay k) s = .next (putGroup (codeRead (tableRead s k g kn) k g kn gate) k { mapLanes g fun _ ln => ln with
      ctl := .run { kern := g.kern, mask := gate.mask, base := kn.codeBase + 4 * gate.off, len := gate.len, pos := 0
                    strand := none, offs := [], rpt := 0, replay := some 0 } })) ∧
  (∀ s p res new raw x, smFind s.parts p = some x → resourceEntry s p res = .ok raw →
    ((entryOf raw).kind = 0 ∧ bitsOf (entryOf raw).ksp 0 32 ≠ 0) ∨ (new = raw ∧ groupsOnEntry s p res ≠ []) →
    (entryOf new).kind ≠ 0 → requestWaits s p (entryVa s p res) = false →
    exec (.entryBind p res (some new)) s = .next ((groupsOnEntry s p res).foldl (fun t e => putGroup t e.1 (boundLanes e.2 res))
      (pokeVa s p (x.regs.rtbase.toNat + 64 * res) (leBytes 64 new.toNat)))) ∧
  (∀ s p res raw x, smFind s.parts p = some x → resourceEntry s p res = .ok raw → (entryOf raw).kind = 0 →
    (bitsOf (entryOf raw).ksp 0 32 = 0 → ∀ new, exec (.entryBind p res (some new)) s = .fault .badArgument) ∧
    (groupsOnEntry s p res ≠ [] → exec (.entryBind p res none) s = .next ((groupsOnEntry s p res).foldl (fun t e =>
      putGroup (loaderReport t p 0x02 (entryReport e res (bitsOf (entryOf raw).ksp 0 32))) e.1 (reportedLanes e.2 res)) s))) ∧
  (∀ s p handle (gate : GateImage) x kn, smFind s.parts p = some x → findKernel s p handle = some kn →
    gateBuilt kn.canon gate = true → missRecorded s p x handle gate.mask = true →
    (gate.slot, SlotState.empty) ∈ tableSlots s p kn →
    (∀ y ∈ loadedGates (tableSlots s p kn), y.mask ≠ gate.mask ∧ rangesMeet y.off y.len gate.off gate.code.length = false) →
    (bytesVa s p (kn.codeBase + 4 * gate.off) (4 * gate.code.length)).isSome = true →
    exec (.gateInstall p handle gate) s = .next (pokeVa
      (pokeVa s p (kn.codeBase + 4 * gate.off) (bytesOfWords gate.code)) p (kn.gateTable + 16 * gate.slot)
      (leBytes 16 (gate.mask.toNat * 2 ^ 64 + 2 ^ 63 + gate.code.length * 2 ^ 36 + gate.off))))

namespace Sys2Proof.Claims

open Sys2Proof.Machine

/-! #### Gates, handler passes, containment -/

/-- R335: the group as its lanes of M enter the handler: their records go into the pass with `TMASK` M, their block is the
handler's entry, window, predicates and latches are those of a start; other lanes stay. -/
def enters (g : Group) (fault : Bool) (m : Word) (h : Nat) (kn : Kernel) : Group :=
  { mapLanes g (fun l ln => if m.getLsbD l then
      { ln with lb := BitVec.ofNat 6 kn.entry, nb := none, hold := .free, preds := 1, win := BitVec.ofNat 8 (g.nreg - 64)
                lat0 := none, lat1 := none, lat2 := none, lat3 := none } else ln) with
    pass := some
      { fault := fault, mask := m, handler := h, waits := g.waits, uwin := g.uwin, qpreds := g.qpreds
        lanes := (lanesOf m).filterMap fun l => match (getLane g l).hold with
          | .pending r => some (l, { trec := { r with tmask := m }, orig := { r with tmask := m }, disp := .finish, edited := false, blk := r.blk, off := r.off
                                     rpt := r.rpt })
          | _ => none }
    waits := [], uwin := 336, ctl := .between }

/-- R336: a handler lane as its pass ends. -/
def leaves (ln : Lane) (x : PassLane) : Lane :=
  let back := { ln with preds := x.trec.pred ||| 1, win := x.trec.lwin, nb := none, lat0 := none, lat1 := none, lat2 := none, lat3 := none }
  match x.disp with
  | .finish => { back with lb := 63, hold := .free, off := 0, rpt := 0 }
  | .park code => { back with lb := x.blk, off := x.off, rpt := x.rpt, hold := .waiting (some code) }
  | .resume =>
    if (x.trec.off = 0 ∧ x.trec.rpt = 0) ∨ x.trec.blk = 63 then { back with lb := x.trec.blk, hold := .free, off := 0, rpt := 0 }
    else { back with lb := x.trec.blk, hold := .replay, off := x.trec.off, rpt := x.trec.rpt }

end Sys2Proof.Claims

/-- R331, R335: between gates the lanes with memory faults, then those with traps, enter the handler of their kind when the
vector names one: all those lanes in one pass, with their records, before any vote of the faulted kernel. -/
def Obligations.TrapsEnterHandlers : Prop :=
  ∀ s k g0 x kn, g0.pass = none → smFind s.parts g0.part = some x →
    let g := mapLanes { g0 with ctl := .between } fun _ ln => settleReplay ln
    replayBlock g = none → kn.nreg = 64 → kn.nureg = 48 →
    (faultLanes g ≠ 0 → x.regs.fltvec ≠ 0 → findKernel s g.part x.regs.fltvec.toNat = some kn →
      boundary s k g0 = vote s k (enters g true (faultLanes g) x.regs.fltvec.toNat kn) x.regs.fltvec.toNat
        (occupiedOf (enters g true (faultLanes g) x.regs.fltvec.toNat kn) (faultLanes g))) ∧
    (faultLanes g = 0 → trapLanes g ≠ 0 → g.trapvec ≠ 0 → findKernel s g.part g.trapvec.toNat = some kn →
      boundary s k g0 = vote s k (enters g false (trapLanes g) g.trapvec.toNat kn) g.trapvec.toNat
        (occupiedOf (enters g false (trapLanes g) g.trapvec.toNat kn) (trapLanes g)))

/-- R335, R336: a pass whose lanes have all left the handler ends: each lane of it finishes, returns to the position in its
record or parks, as it was disposed; wait counts, uniform window and uniform predicates are those saved; every latch of the
group is stale. Then the group goes on as between any two gates: lanes that returned into a block are replayed in the lowest
of their blocks; with none to replay and no record pending the group votes over the blocks that its lanes occupy, retires when
all have left, or stays while those that have not left are parked. The gate table and the gate's code are read with the events of
their lines (R345, R346). That a lane which returned to offset 0 at a later repeat is
replayed too is the model's reading (notes/assumptions/9). -/
def Obligations.HandlersEnd : Prop :=
  ∀ s k g p, g.pass = some p → occupiedOf g p.mask = 0 →
    let h : Group := { mapLanes g (fun l ln => settleReplay (match smFind p.lanes l with
        | some x => if p.mask.getLsbD l then leaves ln x else { ln with lat0 := none, lat1 := none, lat2 := none, lat3 := none }
        | none => { ln with lat0 := none, lat1 := none, lat2 := none, lat3 := none })) with
      waits := p.waits, uwin := p.uwin, qpreds := p.qpreds, pass := none, ctl := .between }
    (∀ b kn gate, replayBlock h = some b → findKernel s g.part g.kern = some kn →
      singletonOf (loadedGates (tableSlots s g.part kn)) b = some gate → codeKept s g kn gate →
      boundary s k g = putGroup (codeRead (tableRead s k g kn) k g kn gate) k { h with
        ctl := .run { kern := g.kern, mask := gate.mask, base := kn.codeBase + 4 * gate.off, len := gate.len, pos := 0
                      strand := none, offs := [], rpt := 0, replay := some 0 } }) ∧
    (replayBlock h = none → (∀ l < 32, ∀ rec, (getLane h l).hold ≠ .pending rec) → g.preempt = false → g.ctxReq = none →
      (occupiedOf h 0xFFFFFFFF ≠ 0 → boundary s k g = vote s k h g.kern (occupiedOf h 0xFFFFFFFF)) ∧
      (occupiedOf h 0xFFFFFFFF = 0 → (∀ l < 32, (getLane h l).hold = .free) → boundary s k g = retireGroup s k h) ∧
      (occupiedOf h 0xFFFFFFFF = 0 → (∃ l < 32, (getLane h l).hold ≠ .free) → boundary s k g = putGroup s k h))

namespace Sys2Proof.Claims

open Sys2Proof.Machine

/-- R103: the gate of exactly the set, the lowest slot of those. -/
def ExactGate (gs : List GateSlot) (set : BitVec 64) (gate : GateSlot) : Prop :=
  gate.mask = set ∧ ∀ x ∈ gs, x.mask = set → gate.index ≤ x.index

/-- R111: the block of the set that has waited longest, the lowest of those. -/
def LongestWaiting (waits : SMap Nat) (set : BitVec 64) (o : Nat) : Prop :=
  o < 63 ∧ set.getLsbD o = true ∧ ∀ b < 63, set.getLsbD b = true →
    smGet 0 waits b < smGet 0 waits o ∨ (smGet 0 waits b = smGet 0 waits o ∧ o ≤ b)

/-- R111: the gate of a sidestep: of the gates of subsets that hold the block, the one with the most blocks, the lowest slot of those. -/
def SidestepGate (gs : List GateSlot) (set : BitVec 64) (o : Nat) (gate : GateSlot) : Prop :=
  gate.mask &&& ~~~ set = 0 ∧ gate.mask.getLsbD o = true ∧ ∀ x ∈ gs, x.mask &&& ~~~ set = 0 → x.mask.getLsbD o = true →
    setSize x.mask < setSize gate.mask ∨ (setSize x.mask = setSize gate.mask ∧ gate.index ≤ x.index)

end Sys2Proof.Claims

/-- R103 to R109, R111, R345, R346: a vote over a set of blocks takes the gate of exactly that set; else, of the gates of its subsets that
hold the block that has waited longest, the one with the most blocks, and writes or counts a miss: a record of a kernel and set
that the core's filter saw less than 65,536 cycles ago is counted in the filter, any other enters the miss ring with the count
that the filter holds, and the filter holds it anew. The waits of blocks left out grow by one up to 255, those of the gate's
blocks become 0. The table and the gate's code, none of it lost, are read with the events of their lines. -/
def Obligations.VotesChooseGates : Prop :=
  ∀ s k g handle set kn, findKernel s g.part handle = some kn → ∀ gate,
    let gs := loadedGates (tableSlots s g.part kn)
    gate ∈ gs → codeKept s g kn gate →
    (ExactGate gs set gate ∨
      ((∀ x ∈ gs, x.mask ≠ set) ∧ ∃ o, LongestWaiting g.waits set o ∧ SidestepGate gs set o gate)) →
    (∃ h r, smFind (vote s k g handle set).groups k = some h ∧ h.ctl = .run r ∧ h.lanes = (staleAll g).lanes ∧
      r.kern = handle ∧ r.mask = gate.mask ∧ r.base = kn.codeBase + 4 * gate.off ∧ r.len = gate.len ∧ r.pos = 0 ∧ r.strand = none ∧
      ∀ b < 63, smGet 0 h.waits b =
        if gate.mask.getLsbD b then 0 else if set.getLsbD b then min (smGet 0 g.waits b + 1) 255 else 0) ∧
      (brokenSlots (tableSlots s g.part kn) = [] →
        let t := vote s k g handle set
        let core := coreOfKey k
        let u := { tableRead s k g kn with filters := t.filters }
        let seen := (smGet [] s.filters core).find? fun x => x.kern == handle && x.set == set
        (ExactGate gs set gate → t.mem = (codeRead u k g kn gate).mem ∧ t.filters = s.filters) ∧
        ((∀ x ∈ gs, x.mask ≠ set) →
          (∀ e, seen = some e → s.cycle - e.cyc < 65536 → t.mem = (codeRead u k g kn gate).mem ∧
            { e with supp := if e.supp = 65535 then 65535 else e.supp + 1 } ∈ smGet [] t.filters core) ∧
          (∀ supp : Nat, (seen = none ∧ supp = 0 ∨ ∃ e, seen = some e ∧ 65536 ≤ s.cycle - e.cyc ∧ supp = e.supp.toNat) →
            t.mem = (codeRead (pushWalked u g.part .miss (leBytes 32 (set.toNat * 2 ^ 192 + gate.mask.toNat * 2 ^ 128
              + s.cycle.toNat * 2 ^ 64 + handle % 2 ^ 32 * 2 ^ 32 + supp * 2 ^ 16 + core % 2 ^ 9)) core) k g kn gate).mem ∧
            { kern := handle, set := set, cyc := s.cycle, supp := 0 } ∈ smGet [] t.filters core)))

/-- R24, R257, R337, R344: containment of a group: no group and no crew of its launch is left, none of its loads and atomics is
open and none of its matrix instructions and tile moves queued; a launch that no chair drives is Done; of its requests the stores
not yet performed are left, to be performed, all but the elements of lanes that a fault has parked, and of its copies, lists, jobs
and other items, those of groups retired earlier with them, those that run, so that a stopped one holds no
line and one never sent holds no handle any more. Groups, crews, requests, copies, lists and jobs of other launches, the other launches, the other partitions and the
scratch of the clusters stay as they are, and memory changes by nothing but the launch's energy record and the event. That a
chair's launch writes no energy record then is the model's reading (notes/assumptions/18). -/
def Sys2Proof.Claims.Containment : Prop :=
  ∀ s k g event mask,
    let t := containGroup s k g event mask
    let note : EventInfo := { mask := mask.toNat, kernel := g.kern, core := coreOfKey k }
    (∀ e ∈ t.groups, e.2.launch ≠ g.launch) ∧ (∀ e ∈ t.crews, e.2.launch ≠ g.launch) ∧
    (∀ e ∈ s.groups, e.2.launch ≠ g.launch → e ∈ t.groups) ∧ (∀ e ∈ s.crews, e.2.launch ≠ g.launch → e ∈ t.crews) ∧
    (∀ e ∈ s.groups, e.2.launch = g.launch →
      (∀ q ∈ t.reqs, q.2.group = e.1 → q.2.orphan = true) ∧ ∀ q ∈ t.engines, ∀ o ∈ q.2, o.group ≠ e.1) ∧
    (∀ q ∈ s.reqs, (∀ e ∈ s.groups, e.2.launch = g.launch → e.1 ≠ q.2.group) ∨ q.2.orphan = true → q ∈ t.reqs) ∧
    (∀ q ∈ s.reqs, (∃ e ∈ s.groups, e.2.launch = g.launch ∧ e.1 = q.2.group) → q.2.orphan = false →
      let left := q.2.accs.filter fun a => !accParked (smFind s.groups q.2.group) q.2 a &&
        (match a.op with | .store _ => true | .scatter _ => true | _ => false)
      (∃ a ∈ left, a.done = false) → (q.1, { q.2 with accs := left, orphan := true }) ∈ t.reqs) ∧
    (∀ u, u ≠ g.launch → smFind t.launches u = smFind s.launches u) ∧
    (∀ p, p ≠ g.part → (∀ x, smFind s.launches g.launch = some x → p ≠ x.part) → smFind t.parts p = smFind s.parts p) ∧
    t.items = s.items.filter (fun e => e.2.launch ≠ g.launch || e.2.istate == .running) ∧
    t.cscratch = s.cscratch ∧
    (∀ x, smFind s.launches g.launch = some x → x.chair = none → smFind t.launches g.launch = none) ∧
    (∀ x, smFind s.launches g.launch = some x →
      let last := if s.crews.any (fun e => e.2.launch = g.launch) then some s.cycle else x.lastCycle
      t.mem = (deviceEvent (if x.chair = none then energyRecord s x.part { x with lastCycle := last } else s) g.part event note).mem)

/-- R335, R337, R344: a trap without a handler, or in a handler pass, contains the launch. -/
def Sys2Proof.Claims.TrapsWithoutHandlers : Prop :=
  (∀ s k g0 x, g0.pass = none → smFind s.parts g0.part = some x →
    let g := mapLanes { g0 with ctl := .between } fun _ ln => settleReplay ln
    replayBlock g = none → faultLanes g = 0 → trapLanes g ≠ 0 → g.trapvec = 0 →
    boundary s k g0 = containGroup (putGroup s k g) k g 0x10 (trapLanes g)) ∧
  (∀ code m s k g r p, issuing s = some (k, g, r) → g.pass = some p → passTrapped g = 0 → legal (.trap code m) = true →
    (∃ l < 32, (setE g (.trap code m)).getLsbD l = true ∧ p.mask.getLsbD l = true) →
    ∃ t, exec (.trap code m) s = .next t ∧ ∀ e ∈ t.groups, e.2.launch ≠ g.launch)

namespace Sys2Proof.Claims

open Sys2Proof.Machine

/-! #### The loader's messages and the device's events -/

/-- R367, R371: the state after the reply to a message: status and body stand in its slot with `OWN` 0, no word of its body
stands as it arrived earlier, and vector 0 of the function is raised. -/
def answered (s : State) (h : Msg) (ty : BitVec 8) (status body : Nat) : State :=
  let f := getFn s h.fn
  let head : DWord := BitVec.ofNat 64 (ty.toNat * 2 ^ 48 + status * 2 ^ 40 + h.tag.toNat)
  raiseVector (putFn s h.fn { f with slots := smPut f.slots h.slot { getSlot f h.slot with header := head, body := BitVec.ofNat 1984 body, earlier := [] } }) h.fn 0

/-- R365, R368: a message of type `ty` of the virtual function of partition `p` can be taken and sets no reserved bit. -/
def FromTenant (s : State) (h : Msg) (ty : BitVec 8) (p : Nat) (x : Partition) : Prop :=
  msgTaken s h ty = true ∧ h.fn ≠ 0 ∧ partOfFn s h.fn = some (p, x) ∧ h.rsvd = false

/-- R365, R368: a message of type `ty` of the physical function can be taken and sets no reserved bit. -/
def FromOperator (s : State) (h : Msg) (ty : BitVec 8) : Prop := msgTaken s h ty = true ∧ h.fn = 0 ∧ h.rsvd = false

/-- R367: the message is answered at once. -/
def Answers (i : Instr) (s t : State) (h : Msg) (ty : BitVec 8) (status body : Nat) : Prop :=
  exec i s = .next (answered t h ty status body)

end Sys2Proof.Claims

/-- R365, R367 to R369: a function that has no right to a message receives status 3 and a set reserved bit status 2, and
nothing else changes; a message of an unlisted type receives status 2. That a virtual function without a partition receives
status 3 is the model's reading (notes/assumptions/39). -/
def Obligations.MessagesNeedRights : Prop :=
  ∀ (s : State) (h : Msg),
    (∀ ok img plan modId va pages w pin big frames index entry q cls lrec va' v lid code any key, ∀ x ∈
      [((0x01 : BitVec 8), Instr.load h ok img plan), (0x02, .unload h modId), (0x03, .map h va pages w pin big frames),
        (0x04, .res h index entry), (0x05, .queueCreate h q cls), (0x05, .queueDestroy h q cls), (0x06, .launchMessage h q lrec),
        (0x07, .signal h va' v), (0x08, .release h lid code any), (0x09, .key h key)],
      msgTaken s h x.1 = true → (x.1 = 0x08 → releaseHeld s h lid code any = true) →
      (h.fn = 0 ∨ partOfFn s h.fn = none → Answers x.2 s s h x.1 3 0) ∧
      (∀ y, h.fn ≠ 0 → partOfFn s h.fn = some y → h.rsvd = true → Answers x.2 s s h x.1 2 0)) ∧
    (∀ ok body img plan part cs sl gr lines channels code limit base size dev pp watts v st, ∀ x ∈
      [((0x40 : BitVec 8), Instr.create h ok body img plan), (0x41, .resize h part cs sl gr lines), (0x42, .destroy h part),
        (0x43, .ratio h channels code), (0x44, .rate h part limit), (0x45, .peer h part base size dev pp), (0x46, .power h watts),
        (0x47, .svn h v), (0x48, .mreset h st)],
      msgTaken s h x.1 = true → (x.1 = 0x40 → bodyHeld s h body = true) →
      (h.fn ≠ 0 → Answers x.2 s s h x.1 3 0) ∧ (h.fn = 0 → h.rsvd = true → Answers x.2 s s h x.1 2 0)) ∧
    (∀ ty : BitVec 8, msgTaken s h ty = true → (ty = 0 ∨ (9 < ty.toNat ∧ ty.toNat < 0x40) ∨ 0x48 < ty.toNat) →
      Answers (.unlistedMessageType h ty) s s h ty 2 0)

/-- R26, R369, R382 to R384: `LOAD` answers 3 without a registered key or with a signature that fails, 2 for a version that is
refused, 4 when the resource table has no room for its symbols, and, when it loads, with the module id and the buffer in which the host finds the handles of its kernels: the module
stands in the partition with its version and the report of its dropped directives. That the reply's body holds the id below the
buffer's address is the model's choice (notes/assumptions/27), and what the loader chooses comes with the message
(notes/assumptions/15). `UNLOAD` answers 1 while a launch
of the module is there, else the module goes with its kernels, and so do the marks of their gate table's reported slots (R104), as when a superseded one
goes. `KEY` needs a session. -/
def Sys2Proof.Claims.ModulesLoad : Prop :=
  ∀ s h p x,
    (FromTenant s h 0x01 p x → ∀ ok img plan,
      (x.tenantKey = none ∨ ok = false → Answers (.load h ok img plan) s s h 0x01 3 0) ∧
      (x.tenantKey ≠ none → ok = true →
        (img.version + 4 < smGet 0 x.highest img.name ∨ (∃ m ∈ x.modules, m.2.name = img.name ∧ m.2.version = img.version) →
          Answers (.load h ok img plan) s s h 0x01 2 0) ∧
        (∀ t, smGet 0 x.highest img.name ≤ img.version + 4 → (∀ m ∈ x.modules, m.2.name = img.name → m.2.version ≠ img.version) →
          imageOk img = true → planTreats x.named img plan = true → symbolsFit x plan = true → partHeld s x = false →
          loadModule s p img plan = some t →
          Answers (.load h ok img plan) s (putFn t h.fn { getFn t h.fn with
            buffers := smPut (getFn t h.fn).buffers plan.buffer (plan.kernels.map fun k => k.handle) })
            h 0x01 0 (plan.modId + plan.buffer * 2 ^ 64) ∧
          ∃ y, smFind t.parts p = some y ∧
            smFind y.modules plan.modId = some
              { name := img.name, version := img.version, dropped := loadReport img, spans := planSpans img plan } ∧
            img.version ≤ smGet 0 y.highest img.name) ∧
        (smGet 0 x.highest img.name ≤ img.version + 4 → (∀ m ∈ x.modules, m.2.name = img.name → m.2.version ≠ img.version) →
          imageOk img = true → planTreats x.named img plan = true → symbolsFit x plan = false →
          Answers (.load h ok img plan) s s h 0x01 4 0))) ∧
    (FromTenant s h 0x02 p x → ∀ modId m, smFind x.modules modId = some m →
      let handles := (x.kernels.filter fun k => k.2.modId == modId).map fun k => p * 2 ^ 32 + k.1
      let gone := { putPart s p { x with
        kernels := x.kernels.filter fun k => k.2.modId ≠ modId, modules := smErase x.modules modId } with
          tableFaults := s.tableFaults.filter fun key => !handles.contains (key / 2 ^ 21) }
      (moduleBusy s p modId = true → Answers (.unload h modId) s s h 0x02 1 0) ∧
      (moduleBusy s p modId = false → Answers (.unload h modId) s gone h 0x02 0 0 ∧
        (m.version + 4 < smGet 0 x.highest m.name → smFind s.parts p = some x → exec (.moduleRetire p modId) s = .next gone))) ∧
    (FromTenant s h 0x09 p x → ∀ key,
      ((getFn s h.fn).session = true → Answers (.key h key) s (putPart s p { x with tenantKey := some key }) h 0x09 0 0) ∧
      ((getFn s h.fn).session = false → Answers (.key h key) s s h 0x09 3 0))

/-- R349, R370, R228: `RES` writes a valid entry, or one of kind 0 with a token, into the resource table, once nothing keeps the
entry's line waiting, and refuses others; `MAP`, which waits while a stack of the partition is held, refuses a range that is misaligned, answers 5 where a page of the other size stands in the way, each changing nothing,
leaves pages that are mapped as they are, and maps a free page of 64 KiB as `MAPF` does. Status 2 for an invalid entry and a
misaligned range is the model's reading (notes/assumptions/39). -/
def Sys2Proof.Claims.EntriesAndPagesAreSet : Prop :=
  ∀ s h p x,
    (FromTenant s h 0x04 p x → ∀ index entry,
      (x.regs.rtcnt.toNat ≤ index → Answers (.res h index entry) s s h 0x04 2 0) ∧
      (index < x.regs.rtcnt.toNat →
        ((entryValid (entryOf entry) = true ∧ (entryOf entry).kind ≠ 0) ∨ (∃ token : Word, entry = BitVec.ofNat 512 (token.toNat * 2 ^ 448)) →
          requestWaits s p (entryVa s p index) = false → Answers (.res h index entry) s (putPart (writeEntry s p index entry) p { x with
            named := if x.named.contains index then x.named else index :: x.named
            tokens := if (entryOf entry).kind = 0 then BitVec.ofNat 32 (entry.toNat / 2 ^ 448) :: x.tokens else x.tokens })
            h 0x04 0 0) ∧
        ((entryOf entry).kind ≠ 0 → entryValid (entryOf entry) = false → Answers (.res h index entry) s s h 0x04 2 0))) ∧
    (FromTenant s h 0x03 p x → ∀ va pages w pin big frames,
      let size := if big then 2 ^ 21 else 2 ^ 16
      (va % size ≠ 0 → Answers (.map h va pages w pin big frames) s s h 0x03 2 0) ∧
      (va % size = 0 → va + size * pages ≤ 2 ^ 52 → framesFree s p x frames frames.length = true →
        ((∃ j < pages, mapState s p x (va + size * j) big = .blocked) → Answers (.map h va pages w pin big frames) s s h 0x03 5 0) ∧
        ((∀ j < pages, mapState s p x (va + size * j) big = .mapped) → partHeld s x = false → Answers (.map h va pages w pin big frames) s s h 0x03 0 0) ∧
        (∀ t f, big = false → pages = 1 → mapState s p x va big = .clear → partHeld s x = false →
          mapPage s p 0 va w pin false = (t, some f) →
          Answers (.map h va pages w pin big frames) s t h 0x03 0 0)))

/-- R82, R83, R370: `QUEUE` creates a queue that does not exist and destroys one that is empty, and answers 5 or 1 else;
`LAUNCH` accepts a valid record at the end of its queue with the queue's class, answers 1 when the queue is full and 2, with
loader report 0x01, when the record is invalid. -/
def Sys2Proof.Claims.QueuesTakeLaunches : Prop :=
  ∀ s h p x, ∀ n < 64, ∀ cls : BitVec 8, cls.toNat ≤ 3 →
    (FromTenant s h 0x05 p x → smFind x.queues n = none →
      Answers (.queueCreate h n cls) s (putPart s p { x with queues := smPut x.queues n { cls := cls.setWidth 2, items := [] } }) h 0x05 0 0 ∧
      Answers (.queueDestroy h n cls) s s h 0x05 5 0) ∧
    (∀ q, smFind x.queues n = some q →
      (FromTenant s h 0x05 p x → Answers (.queueCreate h n cls) s s h 0x05 5 0 ∧
        (q.items = [] → Answers (.queueDestroy h n cls) s (putPart s p { x with queues := smErase x.queues n }) h 0x05 0 0) ∧
        (q.items ≠ [] → Answers (.queueDestroy h n cls) s s h 0x05 1 0)) ∧
      (FromTenant s h 0x06 p x → ∀ lrec, let r := recWithClass lrec q.cls.toNat
        (recordValid s p r = false →
          Answers (.launchMessage h n lrec) s (loaderReport s p 0x01 { kernel := recField r 64 32 }) h 0x06 2 0) ∧
        (recordValid s p r = true → 1024 ≤ q.items.length → Answers (.launchMessage h n lrec) s s h 0x06 1 0) ∧
        (recordValid s p r = true → q.items.length < 1024 → Answers (.launchMessage h n lrec) s
          { s with
            parts := smPut s.parts p { x with queues := smPut x.queues n { q with items := q.items ++ [s.nextUid] } }
            launches := smPut s.launches s.nextUid
              { part := p, queue := n, lrec := r, cls := BitVec.ofNat 2 (recField r 108 2), lstate := .queued, met := 0, placed := 0
                retired := 0, firstCycle := none, lastCycle := none, uj := 0, chair := none }
            nextUid := s.nextUid + 1 } h 0x06 0 0)))

/-- R370: the lanes of a group that await release with a code, or with any. -/
def awaiting (code : BitVec 16) (any : Bool) (g : Group) : Nat :=
  ((List.range 32).filter fun l => match (getLane g l).hold with
    | .waiting c => any || c == some code
    | _ => false).length

/-- R330, R346, R358, R370: `SIGNAL`, once nothing holds the line nor a job the bank, adds its value to the word modulo 2^32 and answers with the old
value, with the event of a line that storage must rebuild, or adds nothing, answers 2
and reports a page that is not mapped (0x03) or not writable (0x05), with the event of a malformed entry or of a lost line;
`RELEASE` makes the lanes of the launches that it names
replay which await release with its code, or with any, and no other lane changes; it answers with their number. That this number
counts the lanes of groups saved by pre-emption too, that the number a reply returns stands at the
start of its body, and the status for a lost line, are the model's (notes/assumptions/27, notes/assumptions/39). -/
def Sys2Proof.Claims.SignalsAndReleases : Prop :=
  ∀ s h p x,
    (FromTenant s h 0x07 p x → ∀ (va : BitVec 64) (value : BitVec 32), va.toNat % 4 = 0 → requestWaits s p va.toNat = false →
      (∀ v t, readBytes s p va.toNat 4 = .ok v →
        writeBytes (lineRequest p 0 none true s va.toNat) p va.toNat 4 ((v + value.toNat) % 2 ^ 32) = .ok t →
        Answers (.signal h va value) s (countPeer t p va.toNat) h 0x07 0 v) ∧
      (inPeerWindow s p va.toNat = false → channelWalk s p va.toNat = .unmapped →
        Answers (.signal h va value) s (loaderReport s p 0x03 { addr := va.toNat }) h 0x07 2 0) ∧
      (inPeerWindow s p va.toNat = false → channelWalk s p va.toNat = .malformed →
        Answers (.signal h va value) s (loaderReport (deviceEvent s p 0x19 { addr := va.toNat }) p 0x03 { addr := va.toNat })
          h 0x07 2 0) ∧
      (readBytes s p va.toNat 4 = .error 0x8B →
        Answers (.signal h va value) s (deviceEvent s p 0x22 { addr := va.toNat / 128 * 128 }) h 0x07 2 0) ∧
      (∀ v, readBytes s p va.toNat 4 = .ok v →
        writeBytes (lineRequest p 0 none true s va.toNat) p va.toNat 4 ((v + value.toNat) % 2 ^ 32) = .error 0x82 →
        Answers (.signal h va value) s (loaderReport s p 0x05 { addr := va.toNat }) h 0x07 2 0)) ∧
    (FromTenant s h 0x08 p x → ∀ lid code any, bodyHeld s h (BitVec.ofNat 1984 (releaseBody lid code any)) = true →
      let here := s.groups.filter fun e => e.2.part = p ∧ namedByLid s p lid e.2.launch = true
      let off := (s.crews.filter fun e => e.2.part = p ∧ namedByLid s p lid e.2.launch = true).flatMap fun e => e.2.saved
      ∃ t, Answers (.release h lid code any) s t h 0x08 0
          ((here.map fun e => awaiting code any e.2).sum + (off.map (awaiting code any)).sum) ∧
      ∀ k g, smFind s.groups k = some g → ∃ g', smFind t.groups k = some g' ∧
        g' = (if namedByLid s p lid g.launch = true then
            mapLanes g fun _ ln => match ln.hold with
              | .waiting c => if any = true ∨ c = some code then { ln with hold := .replay } else ln
              | _ => ln
          else g))

/-- R17, R375, R379, R380: `CREATE` refuses a partition or function in use, no cluster, a signature that fails; `DESTROY` leaves
nothing of the partition, which is there no more; `RESIZE` to parity groups that hold less than the partition has mapped changes
nothing, and else one that names no line and no new parity group applies its masks at once; each
line and page that a resize moves does so in one step, and a restriped page, which is read with the events of its lines (R345,
R346), is reported. `CREATE`, `DESTROY` and a restripe wait while a stack of the partition is held (R349). Status 4 for the groups that are too
small is the model's choice (notes/assumptions/52). -/
def Obligations.PartitionsComeAndGo : Prop :=
  ∀ s,
    (∀ h ok body img plan, FromOperator s h 0x40 → bodyHeld s h body = true →
      let p := bitsOf body.toNat 0 3
      let vf := bitsOf body.toNat 8 4
      (smFind s.parts p ≠ none ∨ partOfFn s vf ≠ none ∨ vf = 0 ∨ bitsOf body.toNat 64 128 = 0 →
        Answers (.create h ok body img plan) s s h 0x40 2 0) ∧
      (∀ t, createReserved body = false → smFind s.parts p = none → partOfFn s vf = none → 1 ≤ vf → vf ≤ 8 →
        bitsOf body.toNat 384 32 ≠ 0 →
        masksOk s p (body.extractLsb' 64 128) (body.extractLsb' 192 128) (body.extractLsb' 16 16) = true →
        (ok = false → Answers (.create h ok body img plan) s s h 0x40 3 0) ∧
        (ok = true → imageOk img = true → planTreats [] img plan.load = true → symbolsFit (newPartition body plan) plan.load = false →
          Answers (.create h ok body img plan) s s h 0x40 4 0) ∧
        (ok = true → imageOk img = true → planTreats [] img plan.load = true → symbolsFit (newPartition body plan) plan.load = true →
          partHeld s (newPartition body plan) = false → createPartition s p body img plan = some t →
          Answers (.create h ok body img plan) s t h 0x40 0 0))) ∧
    (∀ h p x, FromOperator s h 0x42 → smFind s.parts p = some x → partHeld s x = false → ∃ t, Answers (.destroy h p) s t h 0x42 0 0 ∧
      smFind t.parts p = none ∧ (∀ e ∈ t.groups, e.2.part ≠ p) ∧ (∀ e ∈ t.crews, e.2.part ≠ p) ∧ (∀ e ∈ t.launches, e.2.part ≠ p) ∧
      (∀ e ∈ t.reqs, e.2.part ≠ p) ∧ (∀ e ∈ t.items, e.2.part ≠ p) ∧ ∀ c ∈ t.mem, c.1 / 2 ^ 53 ≠ p) ∧
    (∀ h p x cs sl gr lines, FromOperator s h 0x41 → smFind s.parts p = some x → masksOk s p cs sl gr = true →
      strandsCrew s p cs = false →
      (groupBytes gr < bytesInUse s p x → Answers (.resize h p cs sl gr lines) s s h 0x41 4 0) ∧
      (bytesInUse s p x ≤ groupBytes gr → (∀ l ∈ lines, l % 128 = 0 ∧ sl.getLsbD (homeSlice x l) = false) →
      ∃ t y, exec (.resize h p cs sl gr lines) s = .next t ∧ smFind t.parts p = some y ∧ y.clusters = cs ∧ y.slices = sl ∧
        (gr = x.groups → lines = [] → y.moving = [] ∧ y.restripe = [] ∧ y.groups = gr ∧ t.dev.openMsg = none) ∧
        (lines ≠ [] → (∀ l ∈ lines, l ∈ y.moving) ∧ t.dev.openMsg = some (h.slot, 0x41, h.tag)))) ∧
    (∀ p x va, smFind s.parts p = some x →
      (va / 128 * 128 ∈ x.moving → ∃ t y, exec (.sliceLineMove p va) s = .next t ∧ smFind t.parts p = some y ∧
        va / 128 * 128 ∉ y.moving ∧ t.mem = s.mem) ∧
      (∀ big, x.restripe.find? (fun g => g.1 == va) = some (va, big) → partHeld s x = false → ∃ t y, exec (.pageRestripe p va) s = .next t ∧
        smFind t.parts p = some y ∧ (va, big) ∉ y.restripe ∧
        t.mem = (loaderReport (dropTlb (rangeRead s p 0 va (if big then 2 ^ 21 else 2 ^ 16)) p (some va)) p 0x04 {}).mem))

/-- R21, R350, R378, R385, R386: the settings of the operator: `RATE` sets the limit of a partition; `POWER` takes 300 to
1,800 W; `SVN` never lowers the fused counter and raises it at most to the running version; `MRESET` ends a refresh takeover;
`RATIO` makes its channels quiesce, unless a stack of theirs is under takeover, and a channel that has quiesced has its new
split. That a new limit starts with full buckets is the model's choice (notes/assumptions/54). -/
def Obligations.OperatorSettings : Prop :=
  ∀ s h,
    (FromOperator s h 0x44 → ∀ p limit,
      (∀ x, smFind s.parts p = some x →
        Answers (.rate h p limit) s (putPart s p { x with rate := limit, buckets := [] }) h 0x44 0 0) ∧
      (smFind s.parts p = none → Answers (.rate h p limit) s s h 0x44 2 0)) ∧
    (FromOperator s h 0x46 → ∀ watts,
      (300 ≤ watts → watts ≤ 1800 → Answers (.power h watts) s { s with dev := { s.dev with limit := watts } } h 0x46 0 0) ∧
      (watts < 300 ∨ 1800 < watts → Answers (.power h watts) s s h 0x46 2 0)) ∧
    (FromOperator s h 0x47 → ∀ value,
      (s.dev.svn ≤ value → value ≤ s.dev.fwVersion →
        Answers (.svn h value) s { s with dev := { s.dev with svn := value } } h 0x47 0 0) ∧
      (value < s.dev.svn ∨ s.dev.fwVersion < value → Answers (.svn h value) s s h 0x47 2 0)) ∧
    (FromOperator s h 0x48 → ∀ st < 8, Answers (.mreset h st) s (putStack s st { getStack s st with takeover := false }) h 0x48 0 0) ∧
    (FromOperator s h 0x43 → ∀ (channels : BitVec 128) code, code ≤ 3 →
      ((∃ c < 128, channels.getLsbD c = true ∧ (getStack s (c / 16)).takeover = true) →
        Answers (.ratio h channels code) s s h 0x43 5 0) ∧
      ((∀ c < 128, channels.getLsbD c = true → (getStack s (c / 16)).takeover = false) → channels ≠ 0 →
        ∃ t, exec (.ratio h channels code) s = .next t ∧ t.dev.openMsg = some (h.slot, 0x43, h.tag) ∧
          ∀ c < 128, getChannel t c =
            if channels.getLsbD c then { getChannel s c with quiesce := some (BitVec.ofNat 2 code) } else getChannel s c)) ∧
    (∀ c x r, smFind s.dev.chans c = some x → x.quiesce = some r → ∃ t, exec (.ratioQuiesceEnd c) s = .next t ∧
      getChannel t c = { x with ratio := r, quiesce := none })

/-- R256, R287, R345, R346, R348, R366, R381: a peer window takes effect when both operators have named it, and the device then
performs the peer's accesses at system scope, each on the line that holds it: a read goes to the channel, with the event of a
line that storage must rebuild, and gives the peer the bytes of memory, or has the event of a lost line or of a malformed entry
and gives it bytes that the spec does not state (notes/assumptions/47); a write and an add go there as any. The
aperture of a virtual function is its partition's virtual space from `APBASE` on; its reads have the same events, and an
access of a page that is not mapped, or a write of one that is not writable, is reported and writes nothing. A write of a
message slot's header stores it, and one that hands the slot over takes its place in the order of arrival; a write of a word
of its body stores that word. -/
def Obligations.PeersAndAperture : Prop :=
  ∀ s,
    (∀ h p x base size dev pp, FromOperator s h 0x45 → smFind s.parts p = some x →
      (0 < size → base + size ≤ 2 ^ 31 → pp ≤ 7 → (∀ w ∈ x.peers, w.base + w.size ≤ base ∨ base + size ≤ w.base) →
        Answers (.peer h p base size dev pp) s (putPart s p { x with
          peers := x.peers ++ [{ base := base, size := size, device := dev, peerPart := pp, live := false }] }) h 0x45 0 0) ∧
      (size = 0 ∨ 7 < pp → Answers (.peer h p base size dev pp) s s h 0x45 2 0)) ∧
    (∀ p x base, smFind s.parts p = some x → (∃ w ∈ x.peers, w.base = base ∧ w.live = false) →
      exec (.matchingPeerMessage p base) s = .next (putPart s p { x with
        peers := x.peers.map fun w => if w.base = base then { w with live := true } else w })) ∧
    (∀ p x va, smFind s.parts p = some x → (∃ w ∈ x.peers, w.live = true) → va < 2 ^ 52 → inPeerWindow s p va = false →
      let line := va / 128 * 128
      (∀ n, 1 ≤ n → va % 128 + n ≤ 128 → outsideWaits s p va n = false → ∃ bytes : List Byte, bytes.length = n ∧
        let given := fun (u : State) => ∃ y, smFind u.parts p = some y ∧ exec (.peerRequest p va (.read n)) s =
          .next { putPart u p { y with peerData := bytes } with freeCtr := u.freeCtr + 4096 }
        (∀ f w pin big, channelWalk s p va = .page f w pin big →
          (lineLost s x line = false → given (countPeer (lineRequest p 0 none true s line) p va) ∧
            (smFind x.aliased f = none → bytes = (List.range n).map fun i => memGet s.mem (pageKey p (va + i) f big))) ∧
          (lineLost s x line = true → given (countPeer (deviceEvent s p 0x22 { addr := line }) p va))) ∧
        (channelWalk s p va = .unmapped → given s) ∧
        (channelWalk s p va = .malformed → given (deviceEvent s p 0x19 { addr := va }))) ∧
      (∀ bytes t, bytes ≠ [] → va % 128 + bytes.length ≤ 128 → outsideWaits s p va bytes.length = false →
        putBlockBytes s p va bytes = .ok t →
        exec (.peerRequest p va (.write bytes)) s = .next (healRanges (lineRequest p 0 none false t line) p [(va, bytes.length)])) ∧
      (∀ v : BitVec 32, va % 4 = 0 → outsideWaits s p va 4 = false → ∀ old t, readBytes s p va 4 = .ok old →
        writeBytes (lineRequest p 0 none true s va) p va 4 ((old + v.toNat) % 2 ^ 32) = .ok t →
        exec (.peerRequest p va (.add v)) s = .next (countPeer t p va))) ∧
    (∀ fn off p x, 1 ≤ fn → fn ≤ 8 → partOfFn s fn = some (p, x) →
      let va := (getFn s fn).apbase.toNat + off
      inPeerWindow s p va = false →
      (∀ len, 1 ≤ len → off % 4096 + len ≤ 4096 → off + len ≤ 2 ^ 36 →
        (∀ f w pin big, (∀ i < len, channelWalk s p (va + i) = .page f w pin big ∧ lineLost s x (va + i) = false) →
          smFind x.aliased f = none → outsideWaits s p va len = false → (∀ i < len, inPeerWindow s p (va + i) = false) →
          smFind s.parts p = some x → ∃ t, exec (.apertureRead fn off len) s = .next t ∧ t.mem = (readEvents s p va len).mem ∧
            (getFn t fn).readData = (List.range len).map fun i => memGet s.mem (pageKey p (va + i) f big)) ∧
        (channelWalk s p va = .unmapped → ∃ t, exec (.apertureRead fn off len) s = .next t ∧
          (getFn t fn).readData = List.replicate len 0xFF ∧ t.mem = (loaderReport s p 0x03 { addr := va }).mem)) ∧
      (∀ bytes, bytes ≠ [] → off % 4096 + bytes.length ≤ 4096 → off + bytes.length ≤ 2 ^ 36 →
        (∀ f pin big t, channelWalk s p va = .page f true pin big → outsideWaits s p va bytes.length = false → putBlockBytes s p va bytes = .ok t →
          exec (.apertureWrite fn off bytes) s = .next
            (healRanges (lineRequests t p 0 none [] (linesFrom va bytes.length)) p [(va, bytes.length)])) ∧
        (∀ f pin big, channelWalk s p va = .page f false pin big →
          exec (.apertureWrite fn off bytes) s = .next (loaderReport s p 0x05 { addr := va })) ∧
        (channelWalk s p va = .unmapped →
          exec (.apertureWrite fn off bytes) s = .next (loaderReport s p 0x03 { addr := va })))) ∧
    (∀ fn value, 1 ≤ fn → fn ≤ 8 → exec (.bar0RegisterWrite fn 0x4000 value) s =
      .next (putFn s fn { getFn s fn with apbase := value &&& 0xFFFFFFF000000000#64 })) ∧
    (∀ fn n, fn ≤ 8 → n < 64 → ∀ value : BitVec 64,
      let old := getSlot (getFn s fn) n
      (∃ t, exec (.bar0RegisterWrite fn (256 * n) value) s = .next t ∧ t.dev.arrivals = s.dev.arrivals + 1 ∧ t.mem = s.mem ∧
        (getFn t fn).slots = smPut (getFn s fn).slots n
          (if old.header.getLsbD 63 = false ∧ value.getLsbD 63 = true then
            { old with header := value, arrived := s.dev.arrivals, earlier := [] } else { old with header := value })) ∧
      (∀ k < 31, ∃ t new, exec (.bar0RegisterWrite fn (256 * n + 8 + 8 * k) value) s = .next t ∧
        smFind (getFn t fn).slots n = some new ∧ new.header = old.header ∧ t.mem = s.mem ∧
        ∀ j < 31, slotWord new.body j = if j = k then value else slotWord old.body j)) ∧
    (∀ fn n value, fn ≤ 8 → n < 8 → exec (.bar0RegisterWrite fn (0x5000 + 8 * n) value) s = .next (putFn s fn { getFn s fn with
      msix := smSet 0 (getFn s fn).msix n value })) ∧
    (∀ fn p x, fn ≠ 0 → partOfFn s fn = some (p, x) → bar0Read s fn 0x4008 = x.fqlost.setWidth 64 ∧
      bar0Read s fn 0x4018 = x.regs.fqbase ∧ bar0Read s fn 0x4020 = x.regs.mrbase ∧ bar0Read s fn 0x4028 = x.regs.erbase ∧
      bar0Read s fn 0x4010 = 0) ∧
    bar0Read s 0 0x4010 = BitVec.ofNat 64 (s.dev.pkgUj / 1000) ∧
    (∀ fn value off, fn ≤ 8 → (off = 0x4008 ∨ off = 0x4010 ∨ off = 0x4018 ∨ off = 0x4020 ∨ off = 0x4028) →
      exec (.bar0RegisterWrite fn off value) s = .next s)

/-- R344 to R350: a channel that fails, a stack that goes hot, cools or loses its controller: the unit's state changes and the
partitions with memory there are told, of a stack each partition with a parity group on it (the model's reading,
notes/assumptions/41); an uncorrectable error of on-chip state contains what it damaged or loses its line. -/
def Obligations.UnitsFail : Prop :=
  ∀ s,
    (∀ c < 128, (getChannel s c).failed = false →
      exec (.channelFailed c) s = .next
        (let t := putChannel s c { getChannel s c with failed := true }
         match (s.parts.find? fun e => (heldGroups e.2).getLsbD (c / 8)).map (·.1) with
         | some p => deviceEvent t p 0x21 {}
         | none => t)) ∧
    (∀ st < 8,
      let told := (s.parts.filter fun e => (heldGroups e.2).getLsbD (2 * st) || (heldGroups e.2).getLsbD (2 * st + 1)).map (·.1)
      ((getStack s st).held = false → exec (.criticalTemperature st) s = .next (told.foldl (fun t p => deviceEvent t p 0x24 {})
        (putStack s st { getStack s st with held := true }))) ∧
      ((getStack s st).held = true → exec (.selfRefreshExit st) s = .next (told.foldl (fun t p => deviceEvent t p 0x25 {})
        (putStack s st { getStack s st with held := false }))) ∧
      ((getStack s st).takeover = false → exec (.refreshTakeover st) s = .next (told.foldl (fun t p => deviceEvent t p 0x26 {})
        (putStack s st { getStack s st with takeover := true })))) ∧
    (∀ p x, smFind s.parts p = some x →
      (∀ k g, smFind s.groups k = some g → g.part = p → ∃ t, exec (.onchipUncorrectable p (.groupState k)) s = .next t ∧
        ∀ e ∈ t.groups, e.2.launch ≠ g.launch) ∧
      (∃ t, exec (.onchipUncorrectable p .shared) s = .next t ∧
        ∀ e ∈ t.groups, ∀ ln, smFind s.launches e.2.launch = some ln → ln.part ≠ p) ∧
      (∀ va, va < 2 ^ 52 → va / 128 * 128 ∉ x.lost → exec (.onchipUncorrectable p (.modifiedLine va)) s =
        .next (deviceEvent (putPart s p { x with lost := va / 128 * 128 :: x.lost }) p 0x22 { addr := va / 128 * 128 })))

namespace Sys2Proof.Claims

open Sys2Proof.Machine

/-- The energy or the count of the units that meet a test. -/
def reading (xs : List (Nat × Nat)) (test : Nat → Bool) : Nat := ((xs.filter fun e => test e.1).map (·.2)).sum

/-- R25: of an amount of energy what falls to a part of a count, in whole microjoules; where nothing was counted, `other`. -/
def inProportion (energy mine all other : Nat) : Nat := if all = 0 then other else energy * mine / all

/-- R22: a cluster is of a partition that holds it, or has a crew on one of its cores still (notes/assumptions/16). -/
def ofPartition (s : State) (p : Nat) (x : Partition) (cluster : Nat) : Bool :=
  x.clusters.getLsbD cluster || s.crews.any fun e => e.2.part == p && e.2.core.any fun core => core / 4 == cluster

/-- R22: the charge of a partition: its clusters with their cores and engines, its slices, the channels of its parity groups, of
those that a resize gives it too, and its part of the energy of the I/O die and the links, by the bytes `w` that each moved there. -/
def partitionPays (s : State) (r : EnergyReading) (w : List (Nat × Nat)) (p : Nat) (x : Partition) : Nat :=
  reading r.clusters (ofPartition s p x) + reading r.cores (fun c => ofPartition s p x (c / 4))
    + reading r.engines (fun c => ofPartition s p x (c / 4)) + reading r.slices (fun c => x.slices.getLsbD c)
    + reading r.channels (fun c => (heldGroups x).getLsbD (c / 8))
    + inProportion r.io (reading w (· == p)) (reading w fun _ => true) 0

/-- R25: what a meter has counted at a unit for a launch. -/
def metered (m : SMap (SMap Nat)) (unit launch : Nat) : Nat := smGet 0 (smGet [] m unit) launch

/-- R25: what a meter has counted at a unit in all. -/
def meteredAll (m : SMap (SMap Nat)) (unit : Nat) : Nat := ((smGet [] m unit).map (·.2)).sum

/-- R25: what a launch pays at a core: its part of the core's energy by issue slots, equal parts of the crews there when none was
issued; and of the engine's energy by accumulation steps, or as of the core when there were none (notes/assumptions/16). -/
def paysAtCore (s : State) (r : EnergyReading) (u core : Nat) : Nat :=
  let on := s.crews.filter fun e => e.2.core == some core
  let ofCore := fun energy => inProportion energy (metered s.meters.slots core u) (meteredAll s.meters.slots core)
    ((on.filter fun e => e.2.launch == u).length * (energy / on.length))
  ofCore (reading r.cores (· == core))
    + inProportion (reading r.engines (· == core)) (metered s.meters.steps core u) (meteredAll s.meters.steps core)
        (ofCore (reading r.engines (· == core)))

/-- R25: the charge of a launch: its parts at the 512 cores, and of the energy of the 128 channels by the bytes of its requests and
jobs, which the meter holds under the launch's number and one; under 0 stands what no launch moved. -/
def launchPays (s : State) (r : EnergyReading) (u : Nat) : Nat :=
  ((List.range 512).map (paysAtCore s r u)).sum + ((List.range 128).map fun c =>
    inProportion (reading r.channels (· == c)) (metered s.meters.traffic c (u + 1)) (meteredAll s.meters.traffic c) 0).sum

end Sys2Proof.Claims

/-- R21 to R23, R25: a microsecond's energy is added to the counters of package, partitions and launches, to each its charge in
whole microjoules, by the issue slots, accumulation steps and bytes counted since the last, and the counts begin anew (the
rounding, the division of an engine's energy when no step was counted, the clusters and groups that a
resize still leaves with a partition, and what is counted are the model's choices, notes/assumptions/16); above its limit the
package lowers its clock by
100 MHz, and 5% or more below it raises it again, never above 3,300 MHz. That it rises by 100 MHz at a time is the model's
choice (notes/assumptions/48). -/
def Obligations.EnergyAndClock : Prop :=
  (∀ s pkg r w, readingOk pkg r = true → ∃ t, exec (.energySample pkg r w) s = .next t ∧
    t.dev = { s.dev with pkgUj := s.dev.pkgUj + pkg } ∧ t.meters = Meters.zero ∧
    (∀ p x, smFind s.parts p = some x → smFind t.parts p = some
      { x with regs := { x.regs with emuj := x.regs.emuj + Sys2Proof.Claims.partitionPays s r w p x } }) ∧
    ∀ u x, smFind s.launches u = some x → smFind t.launches u = some { x with uj := x.uj + Sys2Proof.Claims.launchPays s r u }) ∧
  (∀ s watts, s.dev.limit < watts → 100 < s.dev.mhz →
    exec (.clockStepDown watts) s = .next { s with dev := { s.dev with mhz := s.dev.mhz - 100 } }) ∧
  (∀ s watts, 100 * watts ≤ 95 * s.dev.limit → s.dev.mhz < 3300 →
    exec (.clockStepUp watts) s = .next { s with dev := { s.dev with mhz := min 3300 (s.dev.mhz + 100) } }) ∧
  (∀ s watts t, 3300 ≤ s.dev.mhz → exec (.clockStepUp watts) s ≠ .next t)

/-- R25, R219, R220, R286, R330, R378: a rate limit lets the open accesses of an instruction in when their bytes are in the bucket of their
die; a channel then serves the line of one in one request for all accesses of the instruction on it, and a block of them that
runs into another line has a request for that one too, when no job holds a bank of these lines: its bytes are counted for the launch, it translates, and on a
page that is not mapped their lanes park with cause page; nothing is loaded or stored. How a bucket is counted, that a request
larger than the bucket needs a full one, and the step at which a channel serves a line are the model's choices
(notes/assumptions/54, notes/assumptions/7). -/
def Sys2Proof.Claims.ChannelsServeRequests : Prop :=
  (∀ (s : State) req (q : Req) (x : Partition), smFind s.reqs req = some q → smFind s.parts q.part = some x →
    (∃ a ∈ q.accs, a.done = false ∧ a.injected = false) →
    let die := coreOfKey q.group / 128
    let bytes := (q.accs.filter fun a => !a.done && !a.injected).length * Machine.sizeOf (entryOf q.entry).fmt
    let old := smGet { level := 2 ^ 32, cycle := 0 } x.buckets die
    let level := min (2 ^ 32 : Int) (old.level + (s.cycle - old.cycle).toNat * x.rate * 1000 * 2 ^ 16 / s.dev.mhz)
    let q1 := { q with accs := q.accs.map fun a => { a with injected := true } }
    (x.rate = 0 → exec (.rateInject req) s = .next { s with reqs := smPut s.reqs req q1 }) ∧
    (x.rate ≠ 0 → (min bytes (2 ^ 16) : Int) * 2 ^ 16 ≤ level → exec (.rateInject req) s = .next { s with
      parts := smPut s.parts q.part
        { x with buckets := smPut x.buckets die { level := level - bytes * 2 ^ 16, cycle := s.cycle } }
      reqs := smPut s.reqs req q1 })) ∧
  (∀ (s : State) req lane (q : Req) n a, smFind s.reqs req = some q →
    openAcc q (fun a => accReady s q a && !a.translated && a.lane == lane) = some n → q.accs[n]? = some a →
    let at_ := dataAddr s q.part (entryOf q.entry) a.coords
    let counted := lineTraffic s q at_
    let others := (matePlaces s q a).filter fun y => lineOf y != lineOf at_
    let served := fun (t : State) =>
      let u := lineRequests t q.part (coreOfKey q.group) (launchOfReq s q) others []
      .next { u with reqs := smPut u.reqs req ((lineMates q a).foldl (fun y j => setAcc y j fun x => { x with translated := true }) q) }
    inPeerWindow s q.part (elemAddr (entryOf q.entry) a.coords) = false → (∀ y ∈ matePlaces s q a, bankBusy s q.part y = false) →
    (channelTranslate counted q.part at_ = none →
      exec (.channelRequest req lane) s = .next (failLine counted req q (lineMates q a) 0x81 at_)) ∧
    (∀ s1 v, channelTranslate counted q.part at_ = some s1 → (a.op = .store v ∨ a.op = .scatter v) →
      (writablePlace s1 q.part at_).toBool = true → exec (.channelRequest req lane) s = served s1) ∧
    (∀ s1 s2 d, channelTranslate counted q.part at_ = some s1 → a.op = .load d →
      serveLine s1 q.part at_ (coreOfKey q.group) = .ok s2 → exec (.channelRequest req lane) s = served s2))

/-- R382, R386, R387: at a reset the boot ROM starts an image whose two signatures hold and whose version is not below the
fused counter, and no other; the counter stays, and all else is as after reset; after a refusal the ROM tries again. A
session is the function's own. Every function receives the measurements of the ROM, the firmware and the loader, the physical
function those of every partition, another function those of its own, and nothing else changes. What a reset keeps besides the
counter, that the cycle count is 0 after it, and
that a measurement names a key and not its hash, are the model's (notes/assumptions/45, notes/assumptions/4,
notes/assumptions/14). -/
def Obligations.BootAndTrust : Prop :=
  ∀ s (image : FirmwareImage),
    let good := image.ecdsaOk = true ∧ image.lmsOk = true ∧ s.dev.svn ≤ image.version
    (∃ t, exec (.deviceReset image) s = .next t ∧ t.dev.svn = s.dev.svn ∧
      (good → t.dev.boot = .running ∧ t.dev.fwVersion = image.version) ∧ (¬ good → t.dev.boot = .retry) ∧
      (good → t.dev.firmware = image.measure ∧ t.dev.loader = image.loaderMeasure) ∧
      t.groups = [] ∧ t.crews = [] ∧ t.launches = [] ∧ t.parts = [] ∧ t.mem = [] ∧ t.cscratch = [] ∧ t.cycle = 0 ∧
      t.reqs = [] ∧ t.items = [] ∧ t.engines = [] ∧ t.cbars = [] ∧ t.filters = [] ∧ t.tableFaults = [] ∧ t.seqs = [] ∧
      (∀ fn, smFind t.dev.fns fn = none) ∧ t.dev.openMsg = none ∧ (∀ c, getChannel t c = getChannel State.reset c) ∧
      (∀ n, getStack t n = getStack State.reset n) ∧ t.dev.pkgUj = 0 ∧ t.dev.mhz = State.reset.dev.mhz ∧
      t.dev.limit = State.reset.dev.limit ∧ t.agenda = s.agenda) ∧
    (s.dev.boot = .retry →
      (good → exec (.bootRetry image) s = .next { s with dev := { s.dev with
        boot := .running, fwVersion := image.version, firmware := image.measure, loader := image.loaderMeasure } }) ∧
      (¬ good → exec (.bootRetry image) s = .next s)) ∧
    (∀ fn ≤ 8, s.dev.boot = .running →
      (let parts : List Measure := (s.parts.filter fun e => fn == 0 || e.2.vf == fn).map fun e =>
         { part := e.1, clusters := e.2.clusters, slices := e.2.slices, groups := e.2.groups, rate := e.2.rate, peers := e.2.peers
           key := e.2.tenantKey }
       exec (.measurements fn) s = .next (putFn s fn { getFn s fn with
         measured := some { rom := Config.romMeasure, firmware := s.dev.firmware, loader := s.dev.loader, parts := parts } })) ∧
      exec (.spdmSession fn) s = .next (putFn s fn { getFn s fn with session := true }))

/-- R385, R366, R367, R375, R386: right after reset no partition, launch, crew, group, request or item exists, memory and
scratch hold no byte but those that an unwritten place holds, no message slot, aperture base or interrupt vector is set, no
channel has failed or left the 1:1 ratio, no energy has been counted (BAR0 reads `PKGMJ` as 0), and the boot ROM has started no
image. What an unwritten byte of memory holds is the model's reading (notes/assumptions/6), and that the cycle count is 0 its
choice (notes/assumptions/4). -/
def Sys2Proof.Claims.ResetLeaves : Prop :=
  let s := State.reset
  s.parts = [] ∧ s.launches = [] ∧ s.crews = [] ∧ s.groups = [] ∧ s.reqs = [] ∧ s.items = [] ∧ s.engines = [] ∧ s.cbars = [] ∧
    (∀ a, memGet s.mem a = unwrittenByte ∧ memGet s.cscratch a = unwrittenByte) ∧
    (∀ fn, (getFn s fn).apbase = 0 ∧ (∀ n, smFind (getFn s fn).slots n = none) ∧ (∀ v, smGet 0 (getFn s fn).msix v = 0) ∧
      (getFn s fn).session = false) ∧
    (∀ c, (getChannel s c).failed = false ∧ (getChannel s c).ratio = 0 ∧ (getChannel s c).quiesce = none) ∧
    (∀ t, (getStack s t).held = false ∧ (getStack s t).takeover = false) ∧
    s.dev.pkgUj = 0 ∧ s.dev.mhz = 3300 ∧ s.dev.boot = .rom ∧ s.cycle = 0 ∧ issuing s = none

/-- R51, R57, R93, R109: a step takes the next turn of the schedule: a step of another agent is its `exec`; an issue of a group
inside a strand run is the `exec` of the instruction whose words stand at its position, after the cycle count has moved, the
group has the turn and its issue is counted, from 1 on when it is picked afresh, and each line of a resource entry that it names
and storage must rebuild has its event (R346); when the instruction has issued, its issue cycles are counted for the group's launch (R25); it is not
issued, and the group's turn ends, while it must wait for moves of tile elements that the group has queued (R215) or while something
holds a line of an entry or of a freeze count that it names (R241); words that make no instruction trap the
selected lanes, past them, as a switch point where the last is of the opcode of one; a DRAM error marks its line; with no schedule left the lowest sequencer with a ready group issues,
and a cycle passes when there is none. The schedule, that a turn names how many cycles after the last one it issues, the waits for queued moves and
which faulty words are a switch point are
the model's (notes/assumptions/3, notes/assumptions/4, notes/assumptions/24, notes/assumptions/56). -/
def Obligations.StepsRunTheDecodedInstruction : Prop :=
  (∀ s i rest, s.agenda = .event i :: rest → step s = exec i { s with agenda := rest, cur := none }) ∧
  (∀ s s0 core seq wait defer k g (r : Run) st,
    ((∃ rest, s.agenda = .issue core seq wait defer :: rest ∧ s0.agenda = rest) ∨
      (s.agenda = [] ∧ defaultSequencer s = some (core * 4 + seq) ∧ seq < 4 ∧ wait = 1 ∧ defer = false ∧ s0.agenda = [])) →
    s0 = { s with
      agenda := s0.agenda, defer := defer
      cycle := if wait = 0 ∧ (seqOf s (core * 4 + seq)).last = some s.cycle then s.cycle + 1
               else s.cycle + BitVec.ofNat 64 wait } →
    pickGroup s0 core seq = some (k, g) → g.ctl = .run r → r.strand = some st → r.replay = none →
    let turn := seqOf s0 (k / 8)
    let fresh := !goesOn s0 core seq
    let s1 : State :=
      { s0 with
        cur := some k
        prevIssue := g.lastIssue
        seqs := smSet Seq.zero (if fresh then (endTurn s0 k).seqs else s0.seqs) (k / 8)
          { slot := some (k % 8), streak := (if fresh then 0 else turn.streak) + 1, last := some s0.cycle } }
    let g1 := { g with wait := .none, lastIssue := some s0.cycle.toNat }
    let ws := fetchWords s0 g.part (r.base + 4 * r.pos) (min st.left 5)
    ws ≠ [] →
    (∀ i, (decodeInside ws).result = .ok i →
      let places := entryPlaces s0 k g1 r i
      let held := ∃ va ∈ places.1 ++ places.2, addressHeld s0 g.part va = true
      let v := linesRead (putGroup s1 k g1) g.part (coreOfKey k) places.1
      (awaitsQueue s0 k g1 r i = false → ¬ held → issuing v = some (k, g1, r) ∧
        (∀ f, exec i v = .fault f → step s = .fault f) ∧
        ∀ t, exec i v = .next t →
          ((∀ h, smFind t.groups k = some h → h.uid = g.uid → h.lastIssue = g1.lastIssue) →
            step s = .next (countSlots t (coreOfKey k) g.launch (issueCycles i))) ∧
          ((∃ h, smFind t.groups k = some h ∧ h.uid = g.uid ∧ h.lastIssue ≠ g1.lastIssue) → step s = .next t)) ∧
      (awaitsQueue s0 k g1 r i = false → held →
        step s = .next (endTurn (putGroup s1 k { g with wait := .lines (places.1 ++ places.2) 0 }) k)) ∧
      (awaitsQueue s0 k g1 r i = true → step s = .next (endTurn (putGroup s1 k { g with wait := .moves (queueLength s0 k) }) k))) ∧
    (∀ e, (decodeInside ws).result = .error e → g.pass = none →
      let words := (decodeInside ws).words
      let after := advanceOf (mapLanes g1 fun l ln =>
        if (selectedMask g1).getLsbD l then
          { ln with hold := .pending (mkRec g1 r words l (if e = .illegalInstruction then 0x01 else 0x02) 0 {})
                    off := BitVec.ofNat 16 (offOf r), rpt := BitVec.ofNat 8 r.rpt }
        else ln) r words.length (codeWords words).length
      (∀ w, words.getLast? = some w → step s = .next (if switchOpcode (w.extractLsb' 24 8).toNat = true then switchedTo s1 k after
        else putGroup s1 k after)))) ∧
  (∀ s p va rest x, s.agenda = .dramError p va false :: rest → smFind s.parts p = some x → va / 128 * 128 ∉ x.bad →
    step s = .next { s with agenda := rest, parts := smPut s.parts p { x with bad := va / 128 * 128 :: x.bad } }) ∧
  (∀ s, s.agenda = [] → (∀ e ∈ s.groups, groupReady s e.1 e.2 = false) → step s = .next { s with cycle := s.cycle + 1 })

/-- R41, R50 to R54, R58: words laid out by the encoding tables are read as the instructions they stand for, with every
operand and prefix; a prefix that the opcode does not take, and a reserved bit, are refused by name. -/
def Obligations.WordsAreRead : Prop :=
  let bare : Mods := Mods.none
  let typed := fun (t : BitVec 5) => { Mods.none with ext := some { Ext.zero with ty := t } }
  (decode [0x00000000]).result = .ok (.ill [] 0) ∧
  (decode [0x0E000000]).result = .ok (.unassignedOpcode [] 0x0E000000) ∧
  (decode [0xFB140003]).result = .error .illegalOperand ∧
  (decode [0xFB14A000]).result = .ok (.str 5 10) ∧
  (decode [0x10030405]).result = .ok (.add 3 4 5 bare) ∧
  (decode [0xF90000E0, 0x10030405]).result = .ok (.add 3 4 5 (typed 7)) ∧
  (decode [0xF8095000, 0x10030405]).result = .ok (.add 3 4 5 { bare with rep := some { cnt := 2, dStep := 1, aStep := 1, bStep := 1 } }) ∧
  (decode [0xF9000000, 0xF8095000, 0x10030405]).result = .error .illegalInstruction ∧
  (decode [0xF8095001, 0x10030405]).result = .error .illegalOperand ∧
  (decode [0xFA000000, 0x10030405]).result = .error .illegalInstruction ∧
  (decode [0x43040102]).result = .ok (.ffma 4 1 2 bare) ∧
  (decode [0x4A020103]).result = .ok (.fcmpLt 0 2 1 3 bare) ∧
  (decode [0x60060204]).result = .ok (.bmm8 6 2 4 bare) ∧
  (decode [0xF9000200, 0xC00402D3]).result = .ok (.gath 4 2 0xD3 (typed 16))

/-- R3 to R5, R40 to R54, R57: the words of every instruction that can be encoded, with whatever words follow, are read back as that
instruction with all its operands and prefixes, and nothing of what follows is read. -/
def Obligations.EncodingRoundTrip : Prop :=
  ∀ (i : Instr) (rest : List Word), i.encodable = true →
    (decode (encode i ++ rest)).words = encode i ∧ (decode (encode i ++ rest)).result = .ok i

/-- Memory, cluster scratch and the scratch of every crew keep their canonical form in every step, so that equal memories are
equal data: no entry that an unwritten place would read as, no address twice (the model's form, R1 and R370 for its bytes). -/
def Obligations.StepsKeepMemoryForm : Prop := ∀ s t, MemCanonical s → step s = .next t → MemCanonical t

/-- The accumulator tiles of every group, in its slot or saved by a pre-emption, keep their canonical form in every step (R190,
R353): an element that is not listed is +0. -/
def Obligations.StepsKeepTileForm : Prop := ∀ s t, TilesCanonical s → step s = .next t → TilesCanonical t

/-- Memory, scratch and tiles have their canonical form after reset. -/
def Sys2Proof.Claims.ResetForms : Prop := MemCanonical State.reset ∧ TilesCanonical State.reset

/-! ### The statements that stand together -/

/-- Together: `IntegerCompares`, `FloatCompares`, `PackedCompares`. -/
def Obligations.Compares : Prop :=
  Sys2Proof.Claims.IntegerCompares ∧ Sys2Proof.Claims.FloatCompares ∧ Sys2Proof.Claims.PackedCompares

/-- Together: `BitInstructions`, `BitResults`. -/
def Obligations.BitsAndFields : Prop :=
  Sys2Proof.Claims.BitInstructions ∧ Sys2Proof.Claims.BitResults

/-- Together: `CrossLaneMoves`, `CrossLaneFolds`. -/
def Obligations.CrossLane : Prop :=
  Sys2Proof.Claims.CrossLaneMoves ∧ Sys2Proof.Claims.CrossLaneFolds

/-- Together: `UniformInstructions`, `UniformCompares`. -/
def Obligations.UniformPipe : Prop :=
  Sys2Proof.Claims.UniformInstructions ∧ Sys2Proof.Claims.UniformCompares

/-- Together: `Terminators`, `WindowsAndHints`. -/
def Obligations.ControlInstructions : Prop :=
  Sys2Proof.Claims.Terminators ∧ Sys2Proof.Claims.WindowsAndHints

/-- Together: `IllegalWordsTrap`, `EncodingFaultTraps`. -/
def Obligations.FaultyWordsTrap : Prop :=
  Sys2Proof.Claims.IllegalWordsTrap ∧ Sys2Proof.Claims.EncodingFaultTraps

/-- Together: `StrandRunsOpen`, `GateEnds`, `GateWordsInRuns`. -/
def Obligations.GateWalks : Prop :=
  Sys2Proof.Claims.StrandRunsOpen ∧
    Sys2Proof.Claims.GateEnds ∧
    Sys2Proof.Claims.GateWordsInRuns

/-- Together: `GuardedOffSwitches`, `PrefetchAndFence`. -/
def Obligations.GuardsAndFences : Prop :=
  Sys2Proof.Claims.GuardedOffSwitches ∧ Sys2Proof.Claims.PrefetchAndFence

/-- Together: `ScratchLoads`, `ScratchStores`, `ScratchAccessesWait`. -/
def Obligations.ScratchAccesses : Prop :=
  Sys2Proof.Claims.ScratchLoads ∧
    Sys2Proof.Claims.ScratchStores ∧
    Sys2Proof.Claims.ScratchAccessesWait

/-- Together: `LaneAccesses`, `UniformAccesses`. -/
def Obligations.AccessesIssue : Prop :=
  Sys2Proof.Claims.LaneAccesses ∧ Sys2Proof.Claims.UniformAccesses

/-- Together: `OutOfBoundsAccesses`, `ResourceFaults`. -/
def Obligations.FaultyAccesses : Prop :=
  Sys2Proof.Claims.OutOfBoundsAccesses ∧ Sys2Proof.Claims.ResourceFaults

/-- Together: `LoadsArePerformed`, `StoresArePerformed`, `AtomicsArePerformed`, `ChannelsServeRequests`. -/
def Obligations.AccessesArePerformed : Prop :=
  Sys2Proof.Claims.LoadsArePerformed ∧ Sys2Proof.Claims.StoresArePerformed ∧ Sys2Proof.Claims.AtomicsArePerformed ∧ Sys2Proof.Claims.ChannelsServeRequests

/-- Together: `ElementsAreStored`, `AtomicOperations`, `AtomicStep`. -/
def Obligations.AtomicsAndElements : Prop :=
  Sys2Proof.Claims.ElementsAreStored ∧ Sys2Proof.Claims.AtomicOperations ∧ Sys2Proof.Claims.AtomicStep

/-- Together: `BatchesCloseAndEnd`, `WaitsForBatches`, `BatchesComplete`. -/
def Obligations.Batches : Prop :=
  Sys2Proof.Claims.BatchesCloseAndEnd ∧ Sys2Proof.Claims.WaitsForBatches ∧ Sys2Proof.Claims.BatchesComplete

/-- Together: `CopiesTransfer`, `CopiesPlaceTheirElements`, `ListsTransfer`, `CopiesStoreTheirElements`, `ListsGatherRows`,
`ListsScatterRows`. -/
def Obligations.Transfers : Prop :=
  Sys2Proof.Claims.CopiesTransfer ∧
    Sys2Proof.Claims.CopiesPlaceTheirElements ∧
    Sys2Proof.Claims.ListsTransfer ∧
    Sys2Proof.Claims.CopiesStoreTheirElements ∧
    Sys2Proof.Claims.ListsGatherRows ∧
    Sys2Proof.Claims.ListsScatterRows

/-- Together: `WorkListsPushAndPop`, `WorkListsInsert`, `WorkListsBind`, `WorkListsKeepSegments`. -/
def Obligations.WorkLists : Prop :=
  Sys2Proof.Claims.WorkListsPushAndPop ∧
    Sys2Proof.Claims.WorkListsInsert ∧
    Sys2Proof.Claims.WorkListsBind ∧
    Sys2Proof.Claims.WorkListsKeepSegments

/-- Together: `TileMovesQueue`, `TileMovesTakeEffect`, `TilesMoveInMemory`. -/
def Obligations.TilesMove : Prop :=
  Sys2Proof.Claims.TileMovesQueue ∧ Sys2Proof.Claims.TileMovesTakeEffect ∧ Sys2Proof.Claims.TilesMoveInMemory

/-- Together: `GraphImagesLoad`, `JobsIssue`, `LayersAttach`, `HandlesAreFreed`. -/
def Obligations.JobsAndHandles : Prop :=
  Sys2Proof.Claims.GraphImagesLoad ∧ Sys2Proof.Claims.JobsIssue ∧ Sys2Proof.Claims.LayersAttach ∧ Sys2Proof.Claims.HandlesAreFreed

/-- Together: `JobsStep`, `FoldsStep`. -/
def Obligations.JobsAndFoldsStep : Prop :=
  Sys2Proof.Claims.JobsStep ∧ Sys2Proof.Claims.FoldsStep

/-- Together: `HandlersDispose`, `ParkAndPasses`. -/
def Obligations.HandlersAndParking : Prop :=
  Sys2Proof.Claims.HandlersDispose ∧ Sys2Proof.Claims.ParkAndPasses

/-- Together: `PagesAreMapped`, `MappingAPage`, `TranslationsAreDropped`, `HotnessIsAdded`. -/
def Obligations.Pages : Prop :=
  Sys2Proof.Claims.PagesAreMapped ∧
    Sys2Proof.Claims.MappingAPage ∧
    Sys2Proof.Claims.TranslationsAreDropped ∧
    Sys2Proof.Claims.HotnessIsAdded

/-- Together: `LaunchesAdvance`, `LaunchesComplete`. -/
def Obligations.LaunchesRun : Prop :=
  Sys2Proof.Claims.LaunchesAdvance ∧ Sys2Proof.Claims.LaunchesComplete

/-- Together: `ClusterSetsArePlaced`, `LowerClassesMakeRoom`, `SavedSetsAreResumed`. -/
def Obligations.Placement : Prop :=
  Sys2Proof.Claims.ClusterSetsArePlaced ∧
    Sys2Proof.Claims.LowerClassesMakeRoom ∧
    Sys2Proof.Claims.SavedSetsAreResumed

/-- Together: `GroupsStart`, `ChairsStartGroups`. -/
def Obligations.GroupsBegin : Prop :=
  Sys2Proof.Claims.GroupsStart ∧ Sys2Proof.Claims.ChairsStartGroups

/-- Together: `Containment`, `TrapsWithoutHandlers`. -/
def Obligations.FaultsAreContained : Prop :=
  Sys2Proof.Claims.Containment ∧ Sys2Proof.Claims.TrapsWithoutHandlers

/-- Together: `ModulesLoad`, `EntriesAndPagesAreSet`. -/
def Obligations.ModulesEntriesPages : Prop :=
  Sys2Proof.Claims.ModulesLoad ∧ Sys2Proof.Claims.EntriesAndPagesAreSet

/-- Together: `QueuesTakeLaunches`, `SignalsAndReleases`. -/
def Obligations.TenantMessages : Prop :=
  Sys2Proof.Claims.QueuesTakeLaunches ∧ Sys2Proof.Claims.SignalsAndReleases

/-- Together: `ResetLeaves`, `ResetForms`. -/
def Obligations.AfterReset : Prop :=
  Sys2Proof.Claims.ResetLeaves ∧ Sys2Proof.Claims.ResetForms
end

