-- ==== Sys2Proof/Laws/Map.lean ====
section
/-!
SUPPORT. Laws of the sparse maps: reading after a write, and that every operation keeps the canonical form of memory.
-/
namespace Sys2Proof.Machine

/-! ### Tables of things that may be absent -/

@[simp] theorem smFind_nil {α : Type} (k : Nat) : smFind ([] : SMap α) k = none := rfl

@[simp] theorem smGet_nil {α : Type} (d : α) (k : Nat) : smGet d [] k = d := rfl

/-- The thing that was put under a key is found under it. -/
@[simp] theorem smFind_smPut_same {α : Type} (m : SMap α) (k : Nat) (v : α) : smFind (smPut m k v) k = some v := by
  induction m with
  | nil => simp [smPut, smFind]
  | cons e rest ih =>
    obtain ⟨k', v'⟩ := e
    simp only [smPut]
    split
    · simp [smFind]
    · split <;> simp_all [smFind]

/-- Under every other key stands what stood there before. -/
theorem smFind_smPut_other {α : Type} (m : SMap α) {k j : Nat} (v : α) (h : j ≠ k) : smFind (smPut m k v) j = smFind m j := by
  induction m with
  | nil => simp only [smPut, smFind, if_neg h]; split <;> rfl
  | cons e rest ih =>
    obtain ⟨k', v'⟩ := e
    simp only [smPut]
    split
    · rename_i hk
      simp only [smFind, if_neg h]
      split
      · rw [if_neg (by omega), if_pos (by omega)]
      · rfl
    · split
      · rename_i hk; subst hk; simp only [smFind, if_neg h]
      · simp only [smFind, ih]

/-! ### Canonical maps with a default -/

/-- A map is canonical when its first entry is not the default, stands before the rest, and the rest is canonical. -/
theorem smWf_cons {α : Type} [DecidableEq α] (d : α) (k : Nat) (v : α) (rest : SMap α) :
    smWf d ((k, v) :: rest) = true ↔ v ≠ d ∧ (∀ e ∈ rest, k < e.1) ∧ smWf d rest = true := by
  induction rest generalizing k v with
  | nil => simp [smWf]
  | cons e rest ih =>
    obtain ⟨k', v'⟩ := e
    simp only [smWf, Bool.and_eq_true, decide_eq_true_eq, ne_eq]
    constructor
    · rintro ⟨⟨h1, h2⟩, h3⟩
      refine ⟨h1, fun e he => ?_, h3⟩
      rcases List.mem_cons.1 he with rfl | he
      · exact h2
      · exact Nat.lt_trans h2 (((ih k' v').1 h3).2.1 e he)
    · rintro ⟨h1, h2, h3⟩
      exact ⟨⟨h1, h2 _ List.mem_cons_self⟩, h3⟩

/-- Every key listed after a write was listed before, or is the key written. -/
theorem smSet_keys {α : Type} [DecidableEq α] (d : α) (m : SMap α) (k : Nat) (v : α) :
    ∀ e ∈ smSet d m k v, e.1 = k ∨ ∃ e' ∈ m, e'.1 = e.1 := by
  have drop : ∀ (m : SMap α), ∀ e ∈ smDrop m k, e ∈ m := by
    intro m
    induction m with
    | nil => intro e h; exact h
    | cons x rest ih =>
      obtain ⟨k', v'⟩ := x
      intro e h
      simp only [smDrop] at h
      split at h
      · exact List.mem_cons_of_mem _ (ih e h)
      · exact h
  induction m with
  | nil => intro e h; simp only [smSet] at h; split at h <;> simp_all
  | cons x rest ih =>
    obtain ⟨k', v'⟩ := x
    intro e h
    simp only [smSet] at h
    split at h
    · split at h
      · exact Or.inr ⟨e, h, rfl⟩
      · rcases List.mem_cons.1 h with rfl | h
        · exact Or.inl rfl
        · exact Or.inr ⟨e, h, rfl⟩
    · split at h
      · split at h
        · exact Or.inr ⟨e, List.mem_cons_of_mem _ (drop _ e h), rfl⟩
        · rcases List.mem_cons.1 h with rfl | h
          · exact Or.inl rfl
          · exact Or.inr ⟨e, List.mem_cons_of_mem _ h, rfl⟩
      · rcases List.mem_cons.1 h with rfl | h
        · exact Or.inr ⟨_, List.mem_cons_self, rfl⟩
        · rcases ih e h with h | ⟨e', he, hk⟩
          · exact Or.inl h
          · exact Or.inr ⟨e', List.mem_cons_of_mem _ he, hk⟩

/-- A map all of whose keys stand above `k` has nothing to drop up to `k`. -/
theorem smDrop_above {α : Type} {m : SMap α} {k : Nat} (h : ∀ e ∈ m, k < e.1) : smDrop m k = m := by
  cases m with
  | nil => rfl
  | cons e rest =>
    have := h e List.mem_cons_self
    simp only [smDrop]
    rw [if_neg (by omega)]

/-- A write keeps the canonical form. -/
theorem smSet_wf {α : Type} [DecidableEq α] {d : α} {m : SMap α} (k : Nat) (v : α) (h : smWf d m = true) :
    smWf d (smSet d m k v) = true := by
  induction m with
  | nil => simp only [smSet]; split <;> simp_all [smWf]
  | cons e rest ih =>
    obtain ⟨k', v'⟩ := e
    obtain ⟨h1, h2, h3⟩ := (smWf_cons d k' v' rest).1 h
    simp only [smSet]
    split
    · rename_i hk
      split
      · exact h
      · rename_i hv
        refine (smWf_cons d k v _).2 ⟨hv, fun e he => ?_, h⟩
        rcases List.mem_cons.1 he with rfl | he
        · exact hk
        · exact Nat.lt_trans hk (h2 e he)
    · split
      · rename_i hk
        subst hk
        split
        · rw [smDrop_above h2]; exact h3
        · rename_i hv; exact (smWf_cons d k v rest).2 ⟨hv, h2, h3⟩
      · refine (smWf_cons d k' v' _).2 ⟨h1, fun e he => ?_, ih h3⟩
        rcases smSet_keys d rest k v e he with hk | ⟨e', he', hk⟩
        · omega
        · rw [← hk]; exact h2 e' he'

/-- Dropping entries keeps the canonical form. -/
theorem smWf_filter {α : Type} [DecidableEq α] {d : α} {m : SMap α} (f : Nat × α → Bool) (h : smWf d m = true) :
    smWf d (m.filter f) = true := by
  induction m with
  | nil => rfl
  | cons e rest ih =>
    obtain ⟨k, v⟩ := e
    obtain ⟨h1, h2, h3⟩ := (smWf_cons d k v rest).1 h
    rw [List.filter_cons]
    split
    · exact (smWf_cons d k v _).2 ⟨h1, fun e he => h2 e (List.mem_filter.1 he).1, ih h3⟩
    · exact ih h3

/-- Below its first key a map reads as the default. -/
theorem smGet_below {α : Type} {d : α} {m : SMap α} {k : Nat} (h : ∀ e ∈ m, k < e.1) : smGet d m k = d := by
  cases m with
  | nil => rfl
  | cons e rest =>
    have := h e List.mem_cons_self
    simp only [smGet]
    rw [if_neg (by omega), if_pos (by omega)]

/-- What was written is read back. -/
theorem smGet_smSet_same {α : Type} [DecidableEq α] {d : α} {m : SMap α} (k : Nat) (v : α) (h : smWf d m = true) :
    smGet d (smSet d m k v) k = v := by
  induction m with
  | nil => simp only [smSet]; split <;> simp_all [smGet]
  | cons e rest ih =>
    obtain ⟨k', v'⟩ := e
    obtain ⟨_, h2, h3⟩ := (smWf_cons d k' v' rest).1 h
    simp only [smSet]
    split
    · rename_i hk
      split
      · rename_i hv; simp only [smGet]; rw [if_neg (by omega), if_pos hk, hv]
      · simp [smGet]
    · split
      · rename_i hk
        subst hk
        split
        · rename_i hv; rw [smDrop_above h2, smGet_below h2, hv]
        · simp [smGet]
      · rename_i h4 h5; simp only [smGet, if_neg h5, if_neg h4, ih h3]

/-- Every other key reads as before. -/
theorem smGet_smSet_other {α : Type} [DecidableEq α] {d : α} {m : SMap α} {k j : Nat} (v : α) (h : smWf d m = true) (hj : j ≠ k) :
    smGet d (smSet d m k v) j = smGet d m j := by
  induction m with
  | nil => simp only [smSet]; split <;> simp [smGet, hj]
  | cons e rest ih =>
    obtain ⟨k', v'⟩ := e
    obtain ⟨_, h2, h3⟩ := (smWf_cons d k' v' rest).1 h
    simp only [smSet]
    split
    · rename_i hk
      split
      · rfl
      · simp only [smGet, if_neg hj]
        split
        · rw [if_neg (by omega), if_pos (by omega)]
        · rfl
    · split
      · rename_i hk
        subst hk
        split
        · rw [smDrop_above h2]
          simp only [smGet, if_neg hj]
          split
          · rename_i hlt; exact smGet_below fun e he => Nat.lt_trans hlt (h2 e he)
          · rfl
        · simp only [smGet, if_neg hj]
      · simp only [smGet, ih h3]

/-! ### Memory -/

/-- The memory of reset has the canonical form. -/
theorem Memory.wf_nil : Memory.wf [] = true := rfl

/-- Writing a byte keeps the canonical form. -/
theorem memSet_wf {m : List Host.Cell} (a : Nat) (v : Byte) (h : Memory.wf m = true) : Memory.wf (memSet m a v) = true :=
  smSet_wf a v h

/-- Writing a number keeps the canonical form. -/
theorem memWrite_wf {m : List Host.Cell} (a n v : Nat) (h : Memory.wf m = true) : Memory.wf (memWrite m a n v) = true := by
  induction n generalizing m a v with
  | zero => exact h
  | succ n ih => exact ih _ _ (memSet_wf a _ h)

/-- Writing bytes keeps the canonical form. -/
theorem memPut_wf {m : List Host.Cell} (a : Nat) (bs : List Byte) (h : Memory.wf m = true) : Memory.wf (memPut m a bs) = true := by
  induction bs generalizing m a with
  | nil => exact h
  | cons b rest ih => exact ih _ (memSet_wf a b h)

/-- Dropping bytes, so that they read as an unwritten place does, keeps the canonical form. -/
theorem Memory.wf_filter {m : List Host.Cell} (f : Host.Cell → Bool) (h : Memory.wf m = true) : Memory.wf (m.filter f) = true :=
  smWf_filter f h

/-- The byte that was written is read. -/
theorem memGet_memSet_same {m : List Host.Cell} (a : Nat) (v : Byte) (h : Memory.wf m = true) : memGet (memSet m a v) a = v :=
  smGet_smSet_same a v h

/-- Every other byte reads as before. -/
theorem memGet_memSet_other {m : List Host.Cell} {a b : Nat} (v : Byte) (h : Memory.wf m = true) (hb : b ≠ a) :
    memGet (memSet m a v) b = memGet m b := smGet_smSet_other v h hb

/-- Writing a number of `n` bytes leaves every byte outside them as it was. -/
theorem memGet_memWrite_other {m : List Host.Cell} {a n b : Nat} (v : Nat) (h : Memory.wf m = true) (hb : b < a ∨ a + n ≤ b) :
    memGet (memWrite m a n v) b = memGet m b := by
  induction n generalizing m a v with
  | zero => rfl
  | succ n ih =>
    simp only [memWrite]
    rw [ih _ (memSet_wf a _ h) (by omega), memGet_memSet_other _ h (by omega)]

/-- Writing bytes leaves every byte outside them as it was. -/
theorem memGet_memPut_other {m : List Host.Cell} {a b : Nat} (bs : List Byte) (h : Memory.wf m = true) (hb : b < a ∨ a + bs.length ≤ b) :
    memGet (memPut m a bs) b = memGet m b := by
  induction bs generalizing m a with
  | nil => rfl
  | cons x rest ih =>
    simp only [List.length_cons] at hb
    simp only [memPut]
    rw [ih (memSet_wf a _ h) (by omega), memGet_memSet_other _ h (by omega)]

/-- The number that was written is read, modulo the bytes written. -/
theorem memRead_memWrite {m : List Host.Cell} (a n v : Nat) (h : Memory.wf m = true) :
    memRead (memWrite m a n v) a n = v % 256 ^ n := by
  induction n generalizing m a v with
  | zero => simp [memRead, Nat.mod_one]
  | succ n ih =>
    simp only [memRead, memWrite]
    rw [ih (a + 1) (v / 256) (memSet_wf a _ h), memGet_memWrite_other _ (memSet_wf a _ h) (by omega), memGet_memSet_same a _ h]
    rw [Nat.pow_succ, Nat.mul_comm (256 ^ n) 256, Nat.mod_mul]
    simp

/-- What is written as a number is read back as its bytes. -/
theorem leNat_leBytes (n v : Nat) : leNat (leBytes n v) = v % 256 ^ n := by
  induction n generalizing v with
  | zero => simp [leNat, leBytes, Nat.mod_one]
  | succ n ih =>
    simp only [leBytes, leNat, ih]
    rw [Nat.pow_succ, Nat.mul_comm (256 ^ n) 256, Nat.mod_mul]
    simp

/-- A number has as many bytes as were asked for. -/
@[simp] theorem leBytes_length (n v : Nat) : (leBytes n v).length = n := by
  induction n generalizing v with
  | zero => rfl
  | succ n ih => simp [leBytes, ih]

end Sys2Proof.Machine
end

