-- ==== Sys2Proof/Laws/State.lean ====
section
/-!
SUPPORT. What each update of the state, of a group and of a lane leaves in every field: one lemma for each field of each update.
-/
namespace Sys2Proof.Machine

/-! ### A group is put into its slot -/

@[simp] theorem putGroup_agenda (s : State) (k : Nat) (g : Group) : (putGroup s k g).agenda = s.agenda := rfl
@[simp] theorem putGroup_cycle (s : State) (k : Nat) (g : Group) : (putGroup s k g).cycle = s.cycle := rfl
@[simp] theorem putGroup_freeCtr (s : State) (k : Nat) (g : Group) : (putGroup s k g).freeCtr = s.freeCtr := rfl
@[simp] theorem putGroup_cur (s : State) (k : Nat) (g : Group) : (putGroup s k g).cur = s.cur := rfl
@[simp] theorem putGroup_prevIssue (s : State) (k : Nat) (g : Group) : (putGroup s k g).prevIssue = s.prevIssue := rfl
@[simp] theorem putGroup_defer (s : State) (k : Nat) (g : Group) : (putGroup s k g).defer = s.defer := rfl
@[simp] theorem putGroup_nextUid (s : State) (k : Nat) (g : Group) : (putGroup s k g).nextUid = s.nextUid := rfl
@[simp] theorem putGroup_nextItem (s : State) (k : Nat) (g : Group) : (putGroup s k g).nextItem = s.nextItem := rfl
@[simp] theorem putGroup_nextReq (s : State) (k : Nat) (g : Group) : (putGroup s k g).nextReq = s.nextReq := rfl
@[simp] theorem putGroup_stamp (s : State) (k : Nat) (g : Group) : (putGroup s k g).stamp = s.stamp := rfl
@[simp] theorem putGroup_mem (s : State) (k : Nat) (g : Group) : (putGroup s k g).mem = s.mem := rfl
@[simp] theorem putGroup_cscratch (s : State) (k : Nat) (g : Group) : (putGroup s k g).cscratch = s.cscratch := rfl
@[simp] theorem putGroup_cbars (s : State) (k : Nat) (g : Group) : (putGroup s k g).cbars = s.cbars := rfl
@[simp] theorem putGroup_dev (s : State) (k : Nat) (g : Group) : (putGroup s k g).dev = s.dev := rfl
@[simp] theorem putGroup_parts (s : State) (k : Nat) (g : Group) : (putGroup s k g).parts = s.parts := rfl
@[simp] theorem putGroup_launches (s : State) (k : Nat) (g : Group) : (putGroup s k g).launches = s.launches := rfl
@[simp] theorem putGroup_crews (s : State) (k : Nat) (g : Group) : (putGroup s k g).crews = s.crews := rfl
@[simp] theorem putGroup_groups (s : State) (k : Nat) (g : Group) : (putGroup s k g).groups = smPut s.groups k g := rfl
@[simp] theorem putGroup_reqs (s : State) (k : Nat) (g : Group) : (putGroup s k g).reqs = s.reqs := rfl
@[simp] theorem putGroup_items (s : State) (k : Nat) (g : Group) : (putGroup s k g).items = s.items := rfl
@[simp] theorem putGroup_engines (s : State) (k : Nat) (g : Group) : (putGroup s k g).engines = s.engines := rfl
@[simp] theorem putGroup_filters (s : State) (k : Nat) (g : Group) : (putGroup s k g).filters = s.filters := rfl
@[simp] theorem putGroup_tableFaults (s : State) (k : Nat) (g : Group) : (putGroup s k g).tableFaults = s.tableFaults := rfl
@[simp] theorem putGroup_seqs (s : State) (k : Nat) (g : Group) : (putGroup s k g).seqs = s.seqs := rfl
@[simp] theorem putGroup_meters (s : State) (k : Nat) (g : Group) : (putGroup s k g).meters = s.meters := rfl

/-! ### A partition changes -/

@[simp] theorem putPart_agenda (s : State) (p : Nat) (x : Partition) : (putPart s p x).agenda = s.agenda := rfl
@[simp] theorem putPart_cycle (s : State) (p : Nat) (x : Partition) : (putPart s p x).cycle = s.cycle := rfl
@[simp] theorem putPart_freeCtr (s : State) (p : Nat) (x : Partition) : (putPart s p x).freeCtr = s.freeCtr := rfl
@[simp] theorem putPart_cur (s : State) (p : Nat) (x : Partition) : (putPart s p x).cur = s.cur := rfl
@[simp] theorem putPart_prevIssue (s : State) (p : Nat) (x : Partition) : (putPart s p x).prevIssue = s.prevIssue := rfl
@[simp] theorem putPart_defer (s : State) (p : Nat) (x : Partition) : (putPart s p x).defer = s.defer := rfl
@[simp] theorem putPart_nextUid (s : State) (p : Nat) (x : Partition) : (putPart s p x).nextUid = s.nextUid := rfl
@[simp] theorem putPart_nextItem (s : State) (p : Nat) (x : Partition) : (putPart s p x).nextItem = s.nextItem := rfl
@[simp] theorem putPart_nextReq (s : State) (p : Nat) (x : Partition) : (putPart s p x).nextReq = s.nextReq := rfl
@[simp] theorem putPart_stamp (s : State) (p : Nat) (x : Partition) : (putPart s p x).stamp = s.stamp := rfl
@[simp] theorem putPart_mem (s : State) (p : Nat) (x : Partition) : (putPart s p x).mem = s.mem := rfl
@[simp] theorem putPart_cscratch (s : State) (p : Nat) (x : Partition) : (putPart s p x).cscratch = s.cscratch := rfl
@[simp] theorem putPart_cbars (s : State) (p : Nat) (x : Partition) : (putPart s p x).cbars = s.cbars := rfl
@[simp] theorem putPart_dev (s : State) (p : Nat) (x : Partition) : (putPart s p x).dev = s.dev := rfl
@[simp] theorem putPart_parts (s : State) (p : Nat) (x : Partition) : (putPart s p x).parts = smPut s.parts p x := rfl
@[simp] theorem putPart_launches (s : State) (p : Nat) (x : Partition) : (putPart s p x).launches = s.launches := rfl
@[simp] theorem putPart_crews (s : State) (p : Nat) (x : Partition) : (putPart s p x).crews = s.crews := rfl
@[simp] theorem putPart_groups (s : State) (p : Nat) (x : Partition) : (putPart s p x).groups = s.groups := rfl
@[simp] theorem putPart_reqs (s : State) (p : Nat) (x : Partition) : (putPart s p x).reqs = s.reqs := rfl
@[simp] theorem putPart_items (s : State) (p : Nat) (x : Partition) : (putPart s p x).items = s.items := rfl
@[simp] theorem putPart_engines (s : State) (p : Nat) (x : Partition) : (putPart s p x).engines = s.engines := rfl
@[simp] theorem putPart_filters (s : State) (p : Nat) (x : Partition) : (putPart s p x).filters = s.filters := rfl
@[simp] theorem putPart_tableFaults (s : State) (p : Nat) (x : Partition) : (putPart s p x).tableFaults = s.tableFaults := rfl
@[simp] theorem putPart_seqs (s : State) (p : Nat) (x : Partition) : (putPart s p x).seqs = s.seqs := rfl
@[simp] theorem putPart_meters (s : State) (p : Nat) (x : Partition) : (putPart s p x).meters = s.meters := rfl

/-! ### A launch changes -/

@[simp] theorem putLaunch_agenda (s : State) (u : Nat) (x : Launch) : (putLaunch s u x).agenda = s.agenda := rfl
@[simp] theorem putLaunch_cycle (s : State) (u : Nat) (x : Launch) : (putLaunch s u x).cycle = s.cycle := rfl
@[simp] theorem putLaunch_freeCtr (s : State) (u : Nat) (x : Launch) : (putLaunch s u x).freeCtr = s.freeCtr := rfl
@[simp] theorem putLaunch_cur (s : State) (u : Nat) (x : Launch) : (putLaunch s u x).cur = s.cur := rfl
@[simp] theorem putLaunch_prevIssue (s : State) (u : Nat) (x : Launch) : (putLaunch s u x).prevIssue = s.prevIssue := rfl
@[simp] theorem putLaunch_defer (s : State) (u : Nat) (x : Launch) : (putLaunch s u x).defer = s.defer := rfl
@[simp] theorem putLaunch_nextUid (s : State) (u : Nat) (x : Launch) : (putLaunch s u x).nextUid = s.nextUid := rfl
@[simp] theorem putLaunch_nextItem (s : State) (u : Nat) (x : Launch) : (putLaunch s u x).nextItem = s.nextItem := rfl
@[simp] theorem putLaunch_nextReq (s : State) (u : Nat) (x : Launch) : (putLaunch s u x).nextReq = s.nextReq := rfl
@[simp] theorem putLaunch_stamp (s : State) (u : Nat) (x : Launch) : (putLaunch s u x).stamp = s.stamp := rfl
@[simp] theorem putLaunch_mem (s : State) (u : Nat) (x : Launch) : (putLaunch s u x).mem = s.mem := rfl
@[simp] theorem putLaunch_cscratch (s : State) (u : Nat) (x : Launch) : (putLaunch s u x).cscratch = s.cscratch := rfl
@[simp] theorem putLaunch_cbars (s : State) (u : Nat) (x : Launch) : (putLaunch s u x).cbars = s.cbars := rfl
@[simp] theorem putLaunch_dev (s : State) (u : Nat) (x : Launch) : (putLaunch s u x).dev = s.dev := rfl
@[simp] theorem putLaunch_parts (s : State) (u : Nat) (x : Launch) : (putLaunch s u x).parts = s.parts := rfl
@[simp] theorem putLaunch_launches (s : State) (u : Nat) (x : Launch) : (putLaunch s u x).launches = smPut s.launches u x := rfl
@[simp] theorem putLaunch_crews (s : State) (u : Nat) (x : Launch) : (putLaunch s u x).crews = s.crews := rfl
@[simp] theorem putLaunch_groups (s : State) (u : Nat) (x : Launch) : (putLaunch s u x).groups = s.groups := rfl
@[simp] theorem putLaunch_reqs (s : State) (u : Nat) (x : Launch) : (putLaunch s u x).reqs = s.reqs := rfl
@[simp] theorem putLaunch_items (s : State) (u : Nat) (x : Launch) : (putLaunch s u x).items = s.items := rfl
@[simp] theorem putLaunch_engines (s : State) (u : Nat) (x : Launch) : (putLaunch s u x).engines = s.engines := rfl
@[simp] theorem putLaunch_filters (s : State) (u : Nat) (x : Launch) : (putLaunch s u x).filters = s.filters := rfl
@[simp] theorem putLaunch_tableFaults (s : State) (u : Nat) (x : Launch) : (putLaunch s u x).tableFaults = s.tableFaults := rfl
@[simp] theorem putLaunch_seqs (s : State) (u : Nat) (x : Launch) : (putLaunch s u x).seqs = s.seqs := rfl
@[simp] theorem putLaunch_meters (s : State) (u : Nat) (x : Launch) : (putLaunch s u x).meters = s.meters := rfl

/-! ### A crew changes -/

@[simp] theorem putCrew_agenda (s : State) (c : Nat) (x : Crew) : (putCrew s c x).agenda = s.agenda := rfl
@[simp] theorem putCrew_cycle (s : State) (c : Nat) (x : Crew) : (putCrew s c x).cycle = s.cycle := rfl
@[simp] theorem putCrew_freeCtr (s : State) (c : Nat) (x : Crew) : (putCrew s c x).freeCtr = s.freeCtr := rfl
@[simp] theorem putCrew_cur (s : State) (c : Nat) (x : Crew) : (putCrew s c x).cur = s.cur := rfl
@[simp] theorem putCrew_prevIssue (s : State) (c : Nat) (x : Crew) : (putCrew s c x).prevIssue = s.prevIssue := rfl
@[simp] theorem putCrew_defer (s : State) (c : Nat) (x : Crew) : (putCrew s c x).defer = s.defer := rfl
@[simp] theorem putCrew_nextUid (s : State) (c : Nat) (x : Crew) : (putCrew s c x).nextUid = s.nextUid := rfl
@[simp] theorem putCrew_nextItem (s : State) (c : Nat) (x : Crew) : (putCrew s c x).nextItem = s.nextItem := rfl
@[simp] theorem putCrew_nextReq (s : State) (c : Nat) (x : Crew) : (putCrew s c x).nextReq = s.nextReq := rfl
@[simp] theorem putCrew_stamp (s : State) (c : Nat) (x : Crew) : (putCrew s c x).stamp = s.stamp := rfl
@[simp] theorem putCrew_mem (s : State) (c : Nat) (x : Crew) : (putCrew s c x).mem = s.mem := rfl
@[simp] theorem putCrew_cscratch (s : State) (c : Nat) (x : Crew) : (putCrew s c x).cscratch = s.cscratch := rfl
@[simp] theorem putCrew_cbars (s : State) (c : Nat) (x : Crew) : (putCrew s c x).cbars = s.cbars := rfl
@[simp] theorem putCrew_dev (s : State) (c : Nat) (x : Crew) : (putCrew s c x).dev = s.dev := rfl
@[simp] theorem putCrew_parts (s : State) (c : Nat) (x : Crew) : (putCrew s c x).parts = s.parts := rfl
@[simp] theorem putCrew_launches (s : State) (c : Nat) (x : Crew) : (putCrew s c x).launches = s.launches := rfl
@[simp] theorem putCrew_crews (s : State) (c : Nat) (x : Crew) : (putCrew s c x).crews = smPut s.crews c x := rfl
@[simp] theorem putCrew_groups (s : State) (c : Nat) (x : Crew) : (putCrew s c x).groups = s.groups := rfl
@[simp] theorem putCrew_reqs (s : State) (c : Nat) (x : Crew) : (putCrew s c x).reqs = s.reqs := rfl
@[simp] theorem putCrew_items (s : State) (c : Nat) (x : Crew) : (putCrew s c x).items = s.items := rfl
@[simp] theorem putCrew_engines (s : State) (c : Nat) (x : Crew) : (putCrew s c x).engines = s.engines := rfl
@[simp] theorem putCrew_filters (s : State) (c : Nat) (x : Crew) : (putCrew s c x).filters = s.filters := rfl
@[simp] theorem putCrew_tableFaults (s : State) (c : Nat) (x : Crew) : (putCrew s c x).tableFaults = s.tableFaults := rfl
@[simp] theorem putCrew_seqs (s : State) (c : Nat) (x : Crew) : (putCrew s c x).seqs = s.seqs := rfl
@[simp] theorem putCrew_meters (s : State) (c : Nat) (x : Crew) : (putCrew s c x).meters = s.meters := rfl

/-! ### An item changes -/

@[simp] theorem putItem_agenda (s : State) (n : Nat) (x : Item) : (putItem s n x).agenda = s.agenda := rfl
@[simp] theorem putItem_cycle (s : State) (n : Nat) (x : Item) : (putItem s n x).cycle = s.cycle := rfl
@[simp] theorem putItem_freeCtr (s : State) (n : Nat) (x : Item) : (putItem s n x).freeCtr = s.freeCtr := rfl
@[simp] theorem putItem_cur (s : State) (n : Nat) (x : Item) : (putItem s n x).cur = s.cur := rfl
@[simp] theorem putItem_prevIssue (s : State) (n : Nat) (x : Item) : (putItem s n x).prevIssue = s.prevIssue := rfl
@[simp] theorem putItem_defer (s : State) (n : Nat) (x : Item) : (putItem s n x).defer = s.defer := rfl
@[simp] theorem putItem_nextUid (s : State) (n : Nat) (x : Item) : (putItem s n x).nextUid = s.nextUid := rfl
@[simp] theorem putItem_nextItem (s : State) (n : Nat) (x : Item) : (putItem s n x).nextItem = s.nextItem := rfl
@[simp] theorem putItem_nextReq (s : State) (n : Nat) (x : Item) : (putItem s n x).nextReq = s.nextReq := rfl
@[simp] theorem putItem_stamp (s : State) (n : Nat) (x : Item) : (putItem s n x).stamp = s.stamp := rfl
@[simp] theorem putItem_mem (s : State) (n : Nat) (x : Item) : (putItem s n x).mem = s.mem := rfl
@[simp] theorem putItem_cscratch (s : State) (n : Nat) (x : Item) : (putItem s n x).cscratch = s.cscratch := rfl
@[simp] theorem putItem_cbars (s : State) (n : Nat) (x : Item) : (putItem s n x).cbars = s.cbars := rfl
@[simp] theorem putItem_dev (s : State) (n : Nat) (x : Item) : (putItem s n x).dev = s.dev := rfl
@[simp] theorem putItem_parts (s : State) (n : Nat) (x : Item) : (putItem s n x).parts = s.parts := rfl
@[simp] theorem putItem_launches (s : State) (n : Nat) (x : Item) : (putItem s n x).launches = s.launches := rfl
@[simp] theorem putItem_crews (s : State) (n : Nat) (x : Item) : (putItem s n x).crews = s.crews := rfl
@[simp] theorem putItem_groups (s : State) (n : Nat) (x : Item) : (putItem s n x).groups = s.groups := rfl
@[simp] theorem putItem_reqs (s : State) (n : Nat) (x : Item) : (putItem s n x).reqs = s.reqs := rfl
@[simp] theorem putItem_items (s : State) (n : Nat) (x : Item) : (putItem s n x).items = smPut s.items n x := rfl
@[simp] theorem putItem_engines (s : State) (n : Nat) (x : Item) : (putItem s n x).engines = s.engines := rfl
@[simp] theorem putItem_filters (s : State) (n : Nat) (x : Item) : (putItem s n x).filters = s.filters := rfl
@[simp] theorem putItem_tableFaults (s : State) (n : Nat) (x : Item) : (putItem s n x).tableFaults = s.tableFaults := rfl
@[simp] theorem putItem_seqs (s : State) (n : Nat) (x : Item) : (putItem s n x).seqs = s.seqs := rfl
@[simp] theorem putItem_meters (s : State) (n : Nat) (x : Item) : (putItem s n x).meters = s.meters := rfl

/-! ### A turn ends -/

@[simp] theorem endTurn_agenda (s : State) (k : Nat) : (endTurn s k).agenda = s.agenda := rfl
@[simp] theorem endTurn_cycle (s : State) (k : Nat) : (endTurn s k).cycle = s.cycle := rfl
@[simp] theorem endTurn_freeCtr (s : State) (k : Nat) : (endTurn s k).freeCtr = s.freeCtr := rfl
@[simp] theorem endTurn_cur (s : State) (k : Nat) : (endTurn s k).cur = s.cur := rfl
@[simp] theorem endTurn_prevIssue (s : State) (k : Nat) : (endTurn s k).prevIssue = s.prevIssue := rfl
@[simp] theorem endTurn_defer (s : State) (k : Nat) : (endTurn s k).defer = s.defer := rfl
@[simp] theorem endTurn_nextUid (s : State) (k : Nat) : (endTurn s k).nextUid = s.nextUid := rfl
@[simp] theorem endTurn_nextItem (s : State) (k : Nat) : (endTurn s k).nextItem = s.nextItem := rfl
@[simp] theorem endTurn_nextReq (s : State) (k : Nat) : (endTurn s k).nextReq = s.nextReq := rfl
@[simp] theorem endTurn_stamp (s : State) (k : Nat) : (endTurn s k).stamp = s.stamp := rfl
@[simp] theorem endTurn_mem (s : State) (k : Nat) : (endTurn s k).mem = s.mem := rfl
@[simp] theorem endTurn_cscratch (s : State) (k : Nat) : (endTurn s k).cscratch = s.cscratch := rfl
@[simp] theorem endTurn_cbars (s : State) (k : Nat) : (endTurn s k).cbars = s.cbars := rfl
@[simp] theorem endTurn_dev (s : State) (k : Nat) : (endTurn s k).dev = s.dev := rfl
@[simp] theorem endTurn_parts (s : State) (k : Nat) : (endTurn s k).parts = s.parts := rfl
@[simp] theorem endTurn_launches (s : State) (k : Nat) : (endTurn s k).launches = s.launches := rfl
@[simp] theorem endTurn_crews (s : State) (k : Nat) : (endTurn s k).crews = s.crews := rfl
@[simp] theorem endTurn_groups (s : State) (k : Nat) : (endTurn s k).groups = s.groups := rfl
@[simp] theorem endTurn_reqs (s : State) (k : Nat) : (endTurn s k).reqs = s.reqs := rfl
@[simp] theorem endTurn_items (s : State) (k : Nat) : (endTurn s k).items = s.items := rfl
@[simp] theorem endTurn_engines (s : State) (k : Nat) : (endTurn s k).engines = s.engines := rfl
@[simp] theorem endTurn_filters (s : State) (k : Nat) : (endTurn s k).filters = s.filters := rfl
@[simp] theorem endTurn_tableFaults (s : State) (k : Nat) : (endTurn s k).tableFaults = s.tableFaults := rfl
@[simp] theorem endTurn_seqs (s : State) (k : Nat) : (endTurn s k).seqs =
    smSet Seq.zero s.seqs (k / 8) { smGet Seq.zero s.seqs (k / 8) with slot := none, streak := 0 } := rfl

/-! ### A function changes -/

@[simp] theorem putFn_agenda (s : State) (n : Nat) (f : Fn) : (putFn s n f).agenda = s.agenda := rfl
@[simp] theorem putFn_cycle (s : State) (n : Nat) (f : Fn) : (putFn s n f).cycle = s.cycle := rfl
@[simp] theorem putFn_freeCtr (s : State) (n : Nat) (f : Fn) : (putFn s n f).freeCtr = s.freeCtr := rfl
@[simp] theorem putFn_cur (s : State) (n : Nat) (f : Fn) : (putFn s n f).cur = s.cur := rfl
@[simp] theorem putFn_prevIssue (s : State) (n : Nat) (f : Fn) : (putFn s n f).prevIssue = s.prevIssue := rfl
@[simp] theorem putFn_defer (s : State) (n : Nat) (f : Fn) : (putFn s n f).defer = s.defer := rfl
@[simp] theorem putFn_nextUid (s : State) (n : Nat) (f : Fn) : (putFn s n f).nextUid = s.nextUid := rfl
@[simp] theorem putFn_nextItem (s : State) (n : Nat) (f : Fn) : (putFn s n f).nextItem = s.nextItem := rfl
@[simp] theorem putFn_nextReq (s : State) (n : Nat) (f : Fn) : (putFn s n f).nextReq = s.nextReq := rfl
@[simp] theorem putFn_stamp (s : State) (n : Nat) (f : Fn) : (putFn s n f).stamp = s.stamp := rfl
@[simp] theorem putFn_mem (s : State) (n : Nat) (f : Fn) : (putFn s n f).mem = s.mem := rfl
@[simp] theorem putFn_cscratch (s : State) (n : Nat) (f : Fn) : (putFn s n f).cscratch = s.cscratch := rfl
@[simp] theorem putFn_cbars (s : State) (n : Nat) (f : Fn) : (putFn s n f).cbars = s.cbars := rfl
@[simp] theorem putFn_dev (s : State) (n : Nat) (f : Fn) : (putFn s n f).dev = { s.dev with fns := smPut s.dev.fns n f } := rfl
@[simp] theorem putFn_parts (s : State) (n : Nat) (f : Fn) : (putFn s n f).parts = s.parts := rfl
@[simp] theorem putFn_launches (s : State) (n : Nat) (f : Fn) : (putFn s n f).launches = s.launches := rfl
@[simp] theorem putFn_crews (s : State) (n : Nat) (f : Fn) : (putFn s n f).crews = s.crews := rfl
@[simp] theorem putFn_groups (s : State) (n : Nat) (f : Fn) : (putFn s n f).groups = s.groups := rfl
@[simp] theorem putFn_reqs (s : State) (n : Nat) (f : Fn) : (putFn s n f).reqs = s.reqs := rfl
@[simp] theorem putFn_items (s : State) (n : Nat) (f : Fn) : (putFn s n f).items = s.items := rfl
@[simp] theorem putFn_engines (s : State) (n : Nat) (f : Fn) : (putFn s n f).engines = s.engines := rfl
@[simp] theorem putFn_filters (s : State) (n : Nat) (f : Fn) : (putFn s n f).filters = s.filters := rfl
@[simp] theorem putFn_tableFaults (s : State) (n : Nat) (f : Fn) : (putFn s n f).tableFaults = s.tableFaults := rfl
@[simp] theorem putFn_seqs (s : State) (n : Nat) (f : Fn) : (putFn s n f).seqs = s.seqs := rfl
@[simp] theorem putFn_meters (s : State) (n : Nat) (f : Fn) : (putFn s n f).meters = s.meters := rfl

/-! ### A stack changes -/

@[simp] theorem putStack_agenda (s : State) (t : Nat) (x : Stack) : (putStack s t x).agenda = s.agenda := rfl
@[simp] theorem putStack_cycle (s : State) (t : Nat) (x : Stack) : (putStack s t x).cycle = s.cycle := rfl
@[simp] theorem putStack_freeCtr (s : State) (t : Nat) (x : Stack) : (putStack s t x).freeCtr = s.freeCtr := rfl
@[simp] theorem putStack_cur (s : State) (t : Nat) (x : Stack) : (putStack s t x).cur = s.cur := rfl
@[simp] theorem putStack_prevIssue (s : State) (t : Nat) (x : Stack) : (putStack s t x).prevIssue = s.prevIssue := rfl
@[simp] theorem putStack_defer (s : State) (t : Nat) (x : Stack) : (putStack s t x).defer = s.defer := rfl
@[simp] theorem putStack_nextUid (s : State) (t : Nat) (x : Stack) : (putStack s t x).nextUid = s.nextUid := rfl
@[simp] theorem putStack_nextItem (s : State) (t : Nat) (x : Stack) : (putStack s t x).nextItem = s.nextItem := rfl
@[simp] theorem putStack_nextReq (s : State) (t : Nat) (x : Stack) : (putStack s t x).nextReq = s.nextReq := rfl
@[simp] theorem putStack_stamp (s : State) (t : Nat) (x : Stack) : (putStack s t x).stamp = s.stamp := rfl
@[simp] theorem putStack_mem (s : State) (t : Nat) (x : Stack) : (putStack s t x).mem = s.mem := rfl
@[simp] theorem putStack_cscratch (s : State) (t : Nat) (x : Stack) : (putStack s t x).cscratch = s.cscratch := rfl
@[simp] theorem putStack_cbars (s : State) (t : Nat) (x : Stack) : (putStack s t x).cbars = s.cbars := rfl
@[simp] theorem putStack_dev (s : State) (t : Nat) (x : Stack) : (putStack s t x).dev = { s.dev with memStacks := smPut s.dev.memStacks t x } := rfl
@[simp] theorem putStack_parts (s : State) (t : Nat) (x : Stack) : (putStack s t x).parts = s.parts := rfl
@[simp] theorem putStack_launches (s : State) (t : Nat) (x : Stack) : (putStack s t x).launches = s.launches := rfl
@[simp] theorem putStack_crews (s : State) (t : Nat) (x : Stack) : (putStack s t x).crews = s.crews := rfl
@[simp] theorem putStack_groups (s : State) (t : Nat) (x : Stack) : (putStack s t x).groups = s.groups := rfl
@[simp] theorem putStack_reqs (s : State) (t : Nat) (x : Stack) : (putStack s t x).reqs = s.reqs := rfl
@[simp] theorem putStack_items (s : State) (t : Nat) (x : Stack) : (putStack s t x).items = s.items := rfl
@[simp] theorem putStack_engines (s : State) (t : Nat) (x : Stack) : (putStack s t x).engines = s.engines := rfl
@[simp] theorem putStack_filters (s : State) (t : Nat) (x : Stack) : (putStack s t x).filters = s.filters := rfl
@[simp] theorem putStack_tableFaults (s : State) (t : Nat) (x : Stack) : (putStack s t x).tableFaults = s.tableFaults := rfl
@[simp] theorem putStack_seqs (s : State) (t : Nat) (x : Stack) : (putStack s t x).seqs = s.seqs := rfl
@[simp] theorem putStack_meters (s : State) (t : Nat) (x : Stack) : (putStack s t x).meters = s.meters := rfl

/-! ### A channel changes -/

@[simp] theorem putChannel_agenda (s : State) (c : Nat) (x : Channel) : (putChannel s c x).agenda = s.agenda := rfl
@[simp] theorem putChannel_cycle (s : State) (c : Nat) (x : Channel) : (putChannel s c x).cycle = s.cycle := rfl
@[simp] theorem putChannel_freeCtr (s : State) (c : Nat) (x : Channel) : (putChannel s c x).freeCtr = s.freeCtr := rfl
@[simp] theorem putChannel_cur (s : State) (c : Nat) (x : Channel) : (putChannel s c x).cur = s.cur := rfl
@[simp] theorem putChannel_prevIssue (s : State) (c : Nat) (x : Channel) : (putChannel s c x).prevIssue = s.prevIssue := rfl
@[simp] theorem putChannel_defer (s : State) (c : Nat) (x : Channel) : (putChannel s c x).defer = s.defer := rfl
@[simp] theorem putChannel_nextUid (s : State) (c : Nat) (x : Channel) : (putChannel s c x).nextUid = s.nextUid := rfl
@[simp] theorem putChannel_nextItem (s : State) (c : Nat) (x : Channel) : (putChannel s c x).nextItem = s.nextItem := rfl
@[simp] theorem putChannel_nextReq (s : State) (c : Nat) (x : Channel) : (putChannel s c x).nextReq = s.nextReq := rfl
@[simp] theorem putChannel_stamp (s : State) (c : Nat) (x : Channel) : (putChannel s c x).stamp = s.stamp := rfl
@[simp] theorem putChannel_mem (s : State) (c : Nat) (x : Channel) : (putChannel s c x).mem = s.mem := rfl
@[simp] theorem putChannel_cscratch (s : State) (c : Nat) (x : Channel) : (putChannel s c x).cscratch = s.cscratch := rfl
@[simp] theorem putChannel_cbars (s : State) (c : Nat) (x : Channel) : (putChannel s c x).cbars = s.cbars := rfl
@[simp] theorem putChannel_dev (s : State) (c : Nat) (x : Channel) : (putChannel s c x).dev = { s.dev with chans := smPut s.dev.chans c x } := rfl
@[simp] theorem putChannel_parts (s : State) (c : Nat) (x : Channel) : (putChannel s c x).parts = s.parts := rfl
@[simp] theorem putChannel_launches (s : State) (c : Nat) (x : Channel) : (putChannel s c x).launches = s.launches := rfl
@[simp] theorem putChannel_crews (s : State) (c : Nat) (x : Channel) : (putChannel s c x).crews = s.crews := rfl
@[simp] theorem putChannel_groups (s : State) (c : Nat) (x : Channel) : (putChannel s c x).groups = s.groups := rfl
@[simp] theorem putChannel_reqs (s : State) (c : Nat) (x : Channel) : (putChannel s c x).reqs = s.reqs := rfl
@[simp] theorem putChannel_items (s : State) (c : Nat) (x : Channel) : (putChannel s c x).items = s.items := rfl
@[simp] theorem putChannel_engines (s : State) (c : Nat) (x : Channel) : (putChannel s c x).engines = s.engines := rfl
@[simp] theorem putChannel_filters (s : State) (c : Nat) (x : Channel) : (putChannel s c x).filters = s.filters := rfl
@[simp] theorem putChannel_tableFaults (s : State) (c : Nat) (x : Channel) : (putChannel s c x).tableFaults = s.tableFaults := rfl
@[simp] theorem putChannel_seqs (s : State) (c : Nat) (x : Channel) : (putChannel s c x).seqs = s.seqs := rfl
@[simp] theorem putChannel_meters (s : State) (c : Nat) (x : Channel) : (putChannel s c x).meters = s.meters := rfl

/-! ### The lanes of a group change -/

@[simp] theorem mapLanes_uid (g : Group) (f : Nat → Lane → Lane) : (mapLanes g f).uid = g.uid := rfl
@[simp] theorem mapLanes_part (g : Group) (f : Nat → Lane → Lane) : (mapLanes g f).part = g.part := rfl
@[simp] theorem mapLanes_launch (g : Group) (f : Nat → Lane → Lane) : (mapLanes g f).launch = g.launch := rfl
@[simp] theorem mapLanes_crew (g : Group) (f : Nat → Lane → Lane) : (mapLanes g f).crew = g.crew := rfl
@[simp] theorem mapLanes_num (g : Group) (f : Nat → Lane → Lane) : (mapLanes g f).num = g.num := rfl
@[simp] theorem mapLanes_cls (g : Group) (f : Nat → Lane → Lane) : (mapLanes g f).cls = g.cls := rfl
@[simp] theorem mapLanes_kern (g : Group) (f : Nat → Lane → Lane) : (mapLanes g f).kern = g.kern := rfl
@[simp] theorem mapLanes_nreg (g : Group) (f : Nat → Lane → Lane) : (mapLanes g f).nreg = g.nreg := rfl
@[simp] theorem mapLanes_nacc (g : Group) (f : Nat → Lane → Lane) : (mapLanes g f).nacc = g.nacc := rfl
@[simp] theorem mapLanes_lanes (g : Group) (f : Nat → Lane → Lane) : (mapLanes g f).lanes = laneIxs.map fun l => f l (getLane g l) := rfl
@[simp] theorem mapLanes_uregs (g : Group) (f : Nat → Lane → Lane) : (mapLanes g f).uregs = g.uregs := rfl
@[simp] theorem mapLanes_qpreds (g : Group) (f : Nat → Lane → Lane) : (mapLanes g f).qpreds = g.qpreds := rfl
@[simp] theorem mapLanes_uwin (g : Group) (f : Nat → Lane → Lane) : (mapLanes g f).uwin = g.uwin := rfl
@[simp] theorem mapLanes_waits (g : Group) (f : Nat → Lane → Lane) : (mapLanes g f).waits = g.waits := rfl
@[simp] theorem mapLanes_bclose (g : Group) (f : Nat → Lane → Lane) : (mapLanes g f).bclose = g.bclose := rfl
@[simp] theorem mapLanes_batches (g : Group) (f : Nat → Lane → Lane) : (mapLanes g f).batches = g.batches := rfl
@[simp] theorem mapLanes_pend (g : Group) (f : Nat → Lane → Lane) : (mapLanes g f).pend = g.pend := rfl
@[simp] theorem mapLanes_njobs (g : Group) (f : Nat → Lane → Lane) : (mapLanes g f).njobs = g.njobs := rfl
@[simp] theorem mapLanes_jobs (g : Group) (f : Nat → Lane → Lane) : (mapLanes g f).jobs = g.jobs := rfl
@[simp] theorem mapLanes_pms (g : Group) (f : Nat → Lane → Lane) : (mapLanes g f).pms = g.pms := rfl
@[simp] theorem mapLanes_shapes (g : Group) (f : Nat → Lane → Lane) : (mapLanes g f).shapes = g.shapes := rfl
@[simp] theorem mapLanes_rowm (g : Group) (f : Nat → Lane → Lane) : (mapLanes g f).rowm = g.rowm := rfl
@[simp] theorem mapLanes_colm (g : Group) (f : Nat → Lane → Lane) : (mapLanes g f).colm = g.colm := rfl
@[simp] theorem mapLanes_tiles (g : Group) (f : Nat → Lane → Lane) : (mapLanes g f).tiles = g.tiles := rfl
@[simp] theorem mapLanes_trapvec (g : Group) (f : Nat → Lane → Lane) : (mapLanes g f).trapvec = g.trapvec := rfl
@[simp] theorem mapLanes_ctl (g : Group) (f : Nat → Lane → Lane) : (mapLanes g f).ctl = g.ctl := rfl
@[simp] theorem mapLanes_pass (g : Group) (f : Nat → Lane → Lane) : (mapLanes g f).pass = g.pass := rfl
@[simp] theorem mapLanes_wait (g : Group) (f : Nat → Lane → Lane) : (mapLanes g f).wait = g.wait := rfl
@[simp] theorem mapLanes_preempt (g : Group) (f : Nat → Lane → Lane) : (mapLanes g f).preempt = g.preempt := rfl
@[simp] theorem mapLanes_ctxReq (g : Group) (f : Nat → Lane → Lane) : (mapLanes g f).ctxReq = g.ctxReq := rfl
@[simp] theorem mapLanes_lastIssue (g : Group) (f : Nat → Lane → Lane) : (mapLanes g f).lastIssue = g.lastIssue := rfl

/-! ### A uniform register is written -/

@[simp] theorem setUreg_uid (g : Group) (n : Nat) (v : Word) : (setUreg g n v).uid = g.uid := rfl
@[simp] theorem setUreg_part (g : Group) (n : Nat) (v : Word) : (setUreg g n v).part = g.part := rfl
@[simp] theorem setUreg_launch (g : Group) (n : Nat) (v : Word) : (setUreg g n v).launch = g.launch := rfl
@[simp] theorem setUreg_crew (g : Group) (n : Nat) (v : Word) : (setUreg g n v).crew = g.crew := rfl
@[simp] theorem setUreg_num (g : Group) (n : Nat) (v : Word) : (setUreg g n v).num = g.num := rfl
@[simp] theorem setUreg_cls (g : Group) (n : Nat) (v : Word) : (setUreg g n v).cls = g.cls := rfl
@[simp] theorem setUreg_kern (g : Group) (n : Nat) (v : Word) : (setUreg g n v).kern = g.kern := rfl
@[simp] theorem setUreg_nreg (g : Group) (n : Nat) (v : Word) : (setUreg g n v).nreg = g.nreg := rfl
@[simp] theorem setUreg_nacc (g : Group) (n : Nat) (v : Word) : (setUreg g n v).nacc = g.nacc := rfl
@[simp] theorem setUreg_lanes (g : Group) (n : Nat) (v : Word) : (setUreg g n v).lanes = g.lanes := rfl
@[simp] theorem setUreg_uregs (g : Group) (n : Nat) (v : Word) : (setUreg g n v).uregs = smSet 0 g.uregs n v := rfl
@[simp] theorem setUreg_qpreds (g : Group) (n : Nat) (v : Word) : (setUreg g n v).qpreds = g.qpreds := rfl
@[simp] theorem setUreg_uwin (g : Group) (n : Nat) (v : Word) : (setUreg g n v).uwin = g.uwin := rfl
@[simp] theorem setUreg_waits (g : Group) (n : Nat) (v : Word) : (setUreg g n v).waits = g.waits := rfl
@[simp] theorem setUreg_bclose (g : Group) (n : Nat) (v : Word) : (setUreg g n v).bclose = g.bclose := rfl
@[simp] theorem setUreg_batches (g : Group) (n : Nat) (v : Word) : (setUreg g n v).batches = g.batches := rfl
@[simp] theorem setUreg_pend (g : Group) (n : Nat) (v : Word) : (setUreg g n v).pend = g.pend := rfl
@[simp] theorem setUreg_njobs (g : Group) (n : Nat) (v : Word) : (setUreg g n v).njobs = g.njobs := rfl
@[simp] theorem setUreg_jobs (g : Group) (n : Nat) (v : Word) : (setUreg g n v).jobs = g.jobs := rfl
@[simp] theorem setUreg_pms (g : Group) (n : Nat) (v : Word) : (setUreg g n v).pms = g.pms := rfl
@[simp] theorem setUreg_shapes (g : Group) (n : Nat) (v : Word) : (setUreg g n v).shapes = g.shapes := rfl
@[simp] theorem setUreg_rowm (g : Group) (n : Nat) (v : Word) : (setUreg g n v).rowm = g.rowm := rfl
@[simp] theorem setUreg_colm (g : Group) (n : Nat) (v : Word) : (setUreg g n v).colm = g.colm := rfl
@[simp] theorem setUreg_tiles (g : Group) (n : Nat) (v : Word) : (setUreg g n v).tiles = g.tiles := rfl
@[simp] theorem setUreg_trapvec (g : Group) (n : Nat) (v : Word) : (setUreg g n v).trapvec = g.trapvec := rfl
@[simp] theorem setUreg_ctl (g : Group) (n : Nat) (v : Word) : (setUreg g n v).ctl = g.ctl := rfl
@[simp] theorem setUreg_pass (g : Group) (n : Nat) (v : Word) : (setUreg g n v).pass = g.pass := rfl
@[simp] theorem setUreg_wait (g : Group) (n : Nat) (v : Word) : (setUreg g n v).wait = g.wait := rfl
@[simp] theorem setUreg_preempt (g : Group) (n : Nat) (v : Word) : (setUreg g n v).preempt = g.preempt := rfl
@[simp] theorem setUreg_ctxReq (g : Group) (n : Nat) (v : Word) : (setUreg g n v).ctxReq = g.ctxReq := rfl
@[simp] theorem setUreg_lastIssue (g : Group) (n : Nat) (v : Word) : (setUreg g n v).lastIssue = g.lastIssue := rfl

/-! ### A lane register is written -/

@[simp] theorem setReg_lb (ln : Lane) (n : Nat) (v : Word) : (setReg ln n v).lb = ln.lb := rfl
@[simp] theorem setReg_nb (ln : Lane) (n : Nat) (v : Word) : (setReg ln n v).nb = ln.nb := rfl
@[simp] theorem setReg_hold (ln : Lane) (n : Nat) (v : Word) : (setReg ln n v).hold = ln.hold := rfl
@[simp] theorem setReg_off (ln : Lane) (n : Nat) (v : Word) : (setReg ln n v).off = ln.off := rfl
@[simp] theorem setReg_rpt (ln : Lane) (n : Nat) (v : Word) : (setReg ln n v).rpt = ln.rpt := rfl
@[simp] theorem setReg_regs (ln : Lane) (n : Nat) (v : Word) : (setReg ln n v).regs = smSet 0 ln.regs n v := rfl
@[simp] theorem setReg_preds (ln : Lane) (n : Nat) (v : Word) : (setReg ln n v).preds = ln.preds := rfl
@[simp] theorem setReg_win (ln : Lane) (n : Nat) (v : Word) : (setReg ln n v).win = ln.win := rfl
@[simp] theorem setReg_lat0 (ln : Lane) (n : Nat) (v : Word) : (setReg ln n v).lat0 = ln.lat0 := rfl
@[simp] theorem setReg_lat1 (ln : Lane) (n : Nat) (v : Word) : (setReg ln n v).lat1 = ln.lat1 := rfl
@[simp] theorem setReg_lat2 (ln : Lane) (n : Nat) (v : Word) : (setReg ln n v).lat2 = ln.lat2 := rfl
@[simp] theorem setReg_lat3 (ln : Lane) (n : Nat) (v : Word) : (setReg ln n v).lat3 = ln.lat3 := rfl

/-! ### A result enters the latches -/

@[simp] theorem shiftLatches_lb (ln : Lane) (v : Latch) : (shiftLatches ln v).lb = ln.lb := rfl
@[simp] theorem shiftLatches_nb (ln : Lane) (v : Latch) : (shiftLatches ln v).nb = ln.nb := rfl
@[simp] theorem shiftLatches_hold (ln : Lane) (v : Latch) : (shiftLatches ln v).hold = ln.hold := rfl
@[simp] theorem shiftLatches_off (ln : Lane) (v : Latch) : (shiftLatches ln v).off = ln.off := rfl
@[simp] theorem shiftLatches_rpt (ln : Lane) (v : Latch) : (shiftLatches ln v).rpt = ln.rpt := rfl
@[simp] theorem shiftLatches_regs (ln : Lane) (v : Latch) : (shiftLatches ln v).regs = ln.regs := rfl
@[simp] theorem shiftLatches_preds (ln : Lane) (v : Latch) : (shiftLatches ln v).preds = ln.preds := rfl
@[simp] theorem shiftLatches_win (ln : Lane) (v : Latch) : (shiftLatches ln v).win = ln.win := rfl
@[simp] theorem shiftLatches_lat0 (ln : Lane) (v : Latch) : (shiftLatches ln v).lat0 = v := rfl
@[simp] theorem shiftLatches_lat1 (ln : Lane) (v : Latch) : (shiftLatches ln v).lat1 = ln.lat0 := rfl
@[simp] theorem shiftLatches_lat2 (ln : Lane) (v : Latch) : (shiftLatches ln v).lat2 = ln.lat1 := rfl
@[simp] theorem shiftLatches_lat3 (ln : Lane) (v : Latch) : (shiftLatches ln v).lat3 = ln.lat2 := rfl

/-! ### The latches become stale -/

@[simp] theorem staleLane_lb (ln : Lane) : (staleLane ln).lb = ln.lb := rfl
@[simp] theorem staleLane_nb (ln : Lane) : (staleLane ln).nb = ln.nb := rfl
@[simp] theorem staleLane_hold (ln : Lane) : (staleLane ln).hold = ln.hold := rfl
@[simp] theorem staleLane_off (ln : Lane) : (staleLane ln).off = ln.off := rfl
@[simp] theorem staleLane_rpt (ln : Lane) : (staleLane ln).rpt = ln.rpt := rfl
@[simp] theorem staleLane_regs (ln : Lane) : (staleLane ln).regs = ln.regs := rfl
@[simp] theorem staleLane_preds (ln : Lane) : (staleLane ln).preds = ln.preds := rfl
@[simp] theorem staleLane_win (ln : Lane) : (staleLane ln).win = ln.win := rfl
@[simp] theorem staleLane_lat0 (ln : Lane) : (staleLane ln).lat0 = none := rfl
@[simp] theorem staleLane_lat1 (ln : Lane) : (staleLane ln).lat1 = none := rfl
@[simp] theorem staleLane_lat2 (ln : Lane) : (staleLane ln).lat2 = none := rfl
@[simp] theorem staleLane_lat3 (ln : Lane) : (staleLane ln).lat3 = none := rfl

/-! ### A lane parks -/

@[simp] theorem parkLane_lb (ln : Lane) (r : TrapRec) : (parkLane ln r).lb = ln.lb := rfl
@[simp] theorem parkLane_nb (ln : Lane) (r : TrapRec) : (parkLane ln r).nb = ln.nb := rfl
@[simp] theorem parkLane_hold (ln : Lane) (r : TrapRec) : (parkLane ln r).hold = .pending r := rfl
@[simp] theorem parkLane_off (ln : Lane) (r : TrapRec) : (parkLane ln r).off = r.off := rfl
@[simp] theorem parkLane_rpt (ln : Lane) (r : TrapRec) : (parkLane ln r).rpt = r.rpt := rfl
@[simp] theorem parkLane_regs (ln : Lane) (r : TrapRec) : (parkLane ln r).regs = ln.regs := rfl
@[simp] theorem parkLane_preds (ln : Lane) (r : TrapRec) : (parkLane ln r).preds = ln.preds := rfl
@[simp] theorem parkLane_win (ln : Lane) (r : TrapRec) : (parkLane ln r).win = ln.win := rfl
@[simp] theorem parkLane_lat0 (ln : Lane) (r : TrapRec) : (parkLane ln r).lat0 = ln.lat0 := rfl
@[simp] theorem parkLane_lat1 (ln : Lane) (r : TrapRec) : (parkLane ln r).lat1 = ln.lat1 := rfl
@[simp] theorem parkLane_lat2 (ln : Lane) (r : TrapRec) : (parkLane ln r).lat2 = ln.lat2 := rfl
@[simp] theorem parkLane_lat3 (ln : Lane) (r : TrapRec) : (parkLane ln r).lat3 = ln.lat3 := rfl

/-! ### A group moves past an instruction: its walk changes, and nothing else -/

/-- All of a group but its walk. -/
theorem advanceOf_frame (g : Group) (r : Run) (n len : Nat) : advanceOf g r n len = { g with ctl := (advanceOf g r n len).ctl } := by
  unfold advanceOf
  split
  · rfl
  · dsimp only
    split <;> rfl

/-- All of a group but its walk. -/
theorem advanceBy_frame (g : Group) (r : Run) (n : Nat) : advanceBy g r n = { g with ctl := (advanceBy g r n).ctl } :=
  advanceOf_frame g r n n

/-- All of a group but its walk. -/
theorem advance_frame (g : Group) (r : Run) (i : Instr) : advance g r i = { g with ctl := (advance g r i).ctl } := by
  unfold advance; split
  · rfl
  · exact advanceBy_frame g r _

@[simp] theorem advance_uid (g : Group) (r : Run) (i : Instr) : (advance g r i).uid = g.uid := by rw [advance_frame]
@[simp] theorem advance_part (g : Group) (r : Run) (i : Instr) : (advance g r i).part = g.part := by rw [advance_frame]
@[simp] theorem advance_launch (g : Group) (r : Run) (i : Instr) : (advance g r i).launch = g.launch := by rw [advance_frame]
@[simp] theorem advance_crew (g : Group) (r : Run) (i : Instr) : (advance g r i).crew = g.crew := by rw [advance_frame]
@[simp] theorem advance_num (g : Group) (r : Run) (i : Instr) : (advance g r i).num = g.num := by rw [advance_frame]
@[simp] theorem advance_cls (g : Group) (r : Run) (i : Instr) : (advance g r i).cls = g.cls := by rw [advance_frame]
@[simp] theorem advance_kern (g : Group) (r : Run) (i : Instr) : (advance g r i).kern = g.kern := by rw [advance_frame]
@[simp] theorem advance_nreg (g : Group) (r : Run) (i : Instr) : (advance g r i).nreg = g.nreg := by rw [advance_frame]
@[simp] theorem advance_nacc (g : Group) (r : Run) (i : Instr) : (advance g r i).nacc = g.nacc := by rw [advance_frame]
@[simp] theorem advance_lanes (g : Group) (r : Run) (i : Instr) : (advance g r i).lanes = g.lanes := by rw [advance_frame]
@[simp] theorem advance_uregs (g : Group) (r : Run) (i : Instr) : (advance g r i).uregs = g.uregs := by rw [advance_frame]
@[simp] theorem advance_qpreds (g : Group) (r : Run) (i : Instr) : (advance g r i).qpreds = g.qpreds := by rw [advance_frame]
@[simp] theorem advance_uwin (g : Group) (r : Run) (i : Instr) : (advance g r i).uwin = g.uwin := by rw [advance_frame]
@[simp] theorem advance_waits (g : Group) (r : Run) (i : Instr) : (advance g r i).waits = g.waits := by rw [advance_frame]
@[simp] theorem advance_bclose (g : Group) (r : Run) (i : Instr) : (advance g r i).bclose = g.bclose := by rw [advance_frame]
@[simp] theorem advance_batches (g : Group) (r : Run) (i : Instr) : (advance g r i).batches = g.batches := by rw [advance_frame]
@[simp] theorem advance_pend (g : Group) (r : Run) (i : Instr) : (advance g r i).pend = g.pend := by rw [advance_frame]
@[simp] theorem advance_njobs (g : Group) (r : Run) (i : Instr) : (advance g r i).njobs = g.njobs := by rw [advance_frame]
@[simp] theorem advance_jobs (g : Group) (r : Run) (i : Instr) : (advance g r i).jobs = g.jobs := by rw [advance_frame]
@[simp] theorem advance_pms (g : Group) (r : Run) (i : Instr) : (advance g r i).pms = g.pms := by rw [advance_frame]
@[simp] theorem advance_shapes (g : Group) (r : Run) (i : Instr) : (advance g r i).shapes = g.shapes := by rw [advance_frame]
@[simp] theorem advance_rowm (g : Group) (r : Run) (i : Instr) : (advance g r i).rowm = g.rowm := by rw [advance_frame]
@[simp] theorem advance_colm (g : Group) (r : Run) (i : Instr) : (advance g r i).colm = g.colm := by rw [advance_frame]
@[simp] theorem advance_tiles (g : Group) (r : Run) (i : Instr) : (advance g r i).tiles = g.tiles := by rw [advance_frame]
@[simp] theorem advance_trapvec (g : Group) (r : Run) (i : Instr) : (advance g r i).trapvec = g.trapvec := by rw [advance_frame]
@[simp] theorem advance_pass (g : Group) (r : Run) (i : Instr) : (advance g r i).pass = g.pass := by rw [advance_frame]
@[simp] theorem advance_wait (g : Group) (r : Run) (i : Instr) : (advance g r i).wait = g.wait := by rw [advance_frame]
@[simp] theorem advance_preempt (g : Group) (r : Run) (i : Instr) : (advance g r i).preempt = g.preempt := by rw [advance_frame]
@[simp] theorem advance_ctxReq (g : Group) (r : Run) (i : Instr) : (advance g r i).ctxReq = g.ctxReq := by rw [advance_frame]
@[simp] theorem advance_lastIssue (g : Group) (r : Run) (i : Instr) : (advance g r i).lastIssue = g.lastIssue := by rw [advance_frame]

/-! ### A free value is taken: its counter moves, and nothing else -/

/-- The counter of free values moves. -/
theorem takeFree_frame (s : State) : (takeFree s).2 = { s with freeCtr := s.freeCtr + 1 } := rfl

end Sys2Proof.Machine
end

