-- ==== Sys2Proof/Laws/Lanes.lean ====
section
/-!
SUPPORT. Laws of lanes and lane masks: a lane of a group after its lanes have changed, the lanes of a mask, the group and the
partition that were put.
-/
namespace Sys2Proof.Machine

/-- The lane numbers are those below 32. -/
theorem mem_laneIxs {l : Nat} : l ∈ laneIxs ↔ l < 32 := by
  have e : laneIxs = List.range 32 := by decide
  rw [e]; exact List.mem_range

/-- A lane after every lane has changed. -/
@[simp] theorem getLane_mapLanes (g : Group) (f : Nat → Lane → Lane) {l : Nat} (h : l < 32) :
    getLane (mapLanes g f) l = f l (getLane g l) := by
  have e : laneIxs = List.range 32 := by decide
  simp [getLane, e, List.getD, h]

/-- Two changes of the lanes that agree on each lane agree. -/
theorem mapLanes_congr (g : Group) {f f' : Nat → Lane → Lane} (h : ∀ l < 32, f l (getLane g l) = f' l (getLane g l)) :
    mapLanes g f = mapLanes g f' := by
  unfold mapLanes
  congr 1
  exact List.map_congr_left fun l hl => h l (mem_laneIxs.1 hl)

/-- The lane that was set, and every other one. -/
theorem getLane_setLane (g : Group) (j : Nat) (ln : Lane) {l : Nat} (h : l < 32) :
    getLane (setLane g j ln) l = if l = j then ln else getLane g l := by
  simp [setLane, h]

/-- The lanes of a group do not change when it moves past an instruction. -/
@[simp] theorem getLane_advance (g : Group) (r : Run) (i : Instr) (l : Nat) : getLane (advance g r i) l = getLane g l := by
  simp [getLane]

/-- A lane of a group after a switch point: its latches are stale. -/
@[simp] theorem getLane_staleAll (g : Group) {l : Nat} (h : l < 32) : getLane (staleAll g) l = staleLane (getLane g l) :=
  getLane_mapLanes g _ h

/-- A lane of a group after the lanes of a mask have parked. -/
theorem getLane_parkMask (g : Group) (r : Run) (ws : List Word) (mask : Word) (cause : BitVec 8) (code : BitVec 16) (x : MemInfo)
    {l : Nat} (h : l < 32) : getLane (parkMask g r ws mask cause code x) l =
      if mask.getLsbD l then parkLane (getLane g l) (mkRec g r ws l cause code x) else getLane g l :=
  getLane_mapLanes g _ h

/-- A mask holds the lanes that satisfy its test. -/
theorem getLsbD_maskOf (f : Nat → Bool) {l : Nat} (h : l < 32) : (maskOf f).getLsbD l = f l := by
  have bit : ∀ i < 32, ∀ j < 32, (BitVec.ofNat 32 (2 ^ i)).getLsbD j = decide (i = j) := by decide
  have fold : ∀ (xs : List Nat) (acc : Word), (∀ i ∈ xs, i < 32) →
      (xs.foldl (fun acc i => if f i then acc ||| BitVec.ofNat 32 (2 ^ i) else acc) acc).getLsbD l
        = (acc.getLsbD l || (xs.contains l && f l)) := by
    intro xs
    induction xs with
    | nil => intro acc _; simp
    | cons i rest ih =>
      intro acc hx
      have hb := bit i (hx i List.mem_cons_self) l h
      have one : (if f i then acc ||| BitVec.ofNat 32 (2 ^ i) else acc).getLsbD l = (acc.getLsbD l || (decide (i = l) && f i)) := by
        split
        · rename_i hf; rw [BitVec.getLsbD_or, hb, hf, Bool.and_true]
        · rename_i hf; rw [Bool.not_eq_true] at hf; rw [hf, Bool.and_false, Bool.or_false]
      rw [List.foldl_cons, ih _ fun j hj => hx j (List.mem_cons_of_mem _ hj), one, List.contains_cons]
      generalize acc.getLsbD l = x
      by_cases hi : l = i
      · subst hi; cases x <;> cases f l <;> simp
      · rw [decide_eq_false (Ne.symm hi), show (l == i) = false from beq_eq_false_iff_ne.2 hi, Bool.false_and, Bool.or_false, Bool.false_or]
  have all := fold laneIxs 0 fun i hi => mem_laneIxs.1 hi
  rw [show laneIxs.contains l = true from List.contains_iff_mem.2 (mem_laneIxs.2 h),
    show (0 : Word).getLsbD l = false from BitVec.getLsbD_zero, Bool.false_or, Bool.true_and] at all
  exact all

/-- A lane is one of a mask's when its bit is set. -/
theorem mem_lanesOf {m : Word} {l : Nat} : l ∈ lanesOf m ↔ l < 32 ∧ m.getLsbD l = true := by
  simp [lanesOf, mem_laneIxs]

/-- Two masks of tests that agree on every lane agree. -/
theorem maskOf_congr {f f' : Nat → Bool} (h : ∀ l < 32, f l = f' l) : maskOf f = maskOf f' := by
  apply BitVec.eq_of_getLsbD_eq
  intro l hl
  rw [getLsbD_maskOf f hl, getLsbD_maskOf f' hl, h l hl]

/-- The executing lanes are selected ones. -/
theorem guardMask_selected {g : Group} {e : Ext} {sel : Word} {l : Nat} (h : l < 32) (he : (guardMask g e sel).getLsbD l = true) :
    sel.getLsbD l = true := by
  unfold guardMask at he
  split at he
  · rw [getLsbD_maskOf _ h] at he
    simp at he
    exact he.1
  · exact he

/-- The group that was put stands in its slot. -/
@[simp] theorem find_putGroup (s : State) (k : Nat) (g : Group) : smFind (putGroup s k g).groups k = some g := by simp

/-- Every other group stays. -/
theorem find_putGroup_other (s : State) {k j : Nat} (g : Group) (h : j ≠ k) : smFind (putGroup s k g).groups j = smFind s.groups j := by
  simp [smFind_smPut_other _ _ h]

/-- The partition that was put. -/
@[simp] theorem find_putPart (s : State) (p : Nat) (x : Partition) : smFind (putPart s p x).parts p = some x := by simp

/-- Every other partition stays. -/
theorem find_putPart_other (s : State) {p q : Nat} (x : Partition) (h : q ≠ p) : smFind (putPart s p x).parts q = smFind s.parts q := by
  simp [smFind_smPut_other _ _ h]

/-- The lanes of a handler pass that hold a record do not change while no lane's hold does. -/
theorem passTrapped_mapLanes (g : Group) (r : Run) (i : Instr) (f : Nat → Lane → Lane)
    (h : ∀ l < 32, (f l (getLane g l)).hold = (getLane g l).hold) : passTrapped (advance (mapLanes g f) r i) = passTrapped g := by
  unfold passTrapped
  rw [advance_pass, mapLanes_pass]
  cases g.pass with
  | none => rfl
  | some p =>
    apply maskOf_congr
    intro l hl
    rw [getLane_advance, getLane_mapLanes _ _ hl, h l hl]

/-- A group that is in no handler pass is put as it is. -/
theorem settle_of_none {s : State} {k : Nat} {g : Group} (h : passTrapped g = 0) : settle s k g = putGroup s k g := by
  simp [settle, h]

/-- A group in a handler pass with a lane that traps is contained. -/
theorem settle_of_trapped {s : State} {k : Nat} {g : Group} (h : passTrapped g ≠ 0) :
    settle s k g = containGroup (putGroup s k g) k g 0x11 (passTrapped g) := by
  exact if_neg h

end Sys2Proof.Machine
end

