-- ==== Sys2Proof/Laws/Exec.lean ====
section
/-!
SUPPORT. What each shape of execution can do, once for all the instructions of the shape: when it answers, and every state that
it can answer with.
-/
namespace Sys2Proof.Machine

/-- The change of one lane by a lane instruction: an executing lane is changed or traps, an inactive one idles, any other stays. -/
def laneStep (i : Instr) (body : Ctx → Except (BitVec 8) Lane) (idle : Ctx → Lane) (s : State) (k : Nat) (g : Group) (r : Run)
    (l : Nat) (ln : Lane) : Lane :=
  let sel := selectedMask g
  let e := guardMask g (guardOf i) sel
  if e.getLsbD l then
    match laneBody body (mkCtx s k g r i sel e l) with
    | .ok x => x
    | .error c => parkLane ln (mkRec g r (encode i) l c 0 {})
  else if sel.getLsbD l then idle (mkCtx s k g r i sel e l)
  else ln

/-- A lane instruction with a sound encoding changes each lane of its group by `laneStep`. -/
theorem execLaneWith_legal {i : Instr} {body : Ctx → Except (BitVec 8) Lane} {idle : Ctx → Lane} {s : State} {k : Nat} {g : Group}
    {r : Run} (h : issuing s = some (k, g, r)) (hl : legal i = true) :
    execLaneWith i body idle s = .next (settle s k (advance (mapLanes g (laneStep i body idle s k g r)) r i)) := by
  unfold execLaneWith; rw [h]; exact if_pos hl

/-- A lane instruction with a faulty encoding traps every selected lane. -/
theorem execLaneWith_illegal {i : Instr} {body : Ctx → Except (BitVec 8) Lane} {idle : Ctx → Lane} {s : State} {k : Nat} {g : Group}
    {r : Run} (h : issuing s = some (k, g, r)) (hl : legal i = false) :
    execLaneWith i body idle s = .next (trapSelected s k g r i causeIllegalOperand {}) := by
  unfold execLaneWith; rw [h]; simp [hl]

/-- Everything that a lane instruction can do. -/
theorem execLaneWith_next {i : Instr} {body : Ctx → Except (BitVec 8) Lane} {idle : Ctx → Lane} {s t : State}
    (h : execLaneWith i body idle s = .next t) : ∃ k g r, issuing s = some (k, g, r) ∧
      ((legal i = true ∧ t = settle s k (advance (mapLanes g (laneStep i body idle s k g r)) r i)) ∨
        (legal i = false ∧ t = trapSelected s k g r i causeIllegalOperand {})) := by
  cases hi : issuing s with
  | none => simp [execLaneWith, hi] at h
  | some x =>
    obtain ⟨k, g, r⟩ := x
    refine ⟨k, g, r, rfl, ?_⟩
    cases hl : legal i with
    | true => rw [execLaneWith_legal hi hl] at h; exact .inl ⟨rfl, by simpa using h.symm⟩
    | false => rw [execLaneWith_illegal hi hl] at h; exact .inr ⟨rfl, by simpa using h.symm⟩

/-- When every executing lane succeeds and no handler lane has trapped before, a lane instruction writes what it computes. -/
theorem execLane_result {i : Instr} {body : Ctx → Except (BitVec 8) Lane} {s : State} {k : Nat} {g : Group} {r : Run} {out : Nat → Lane}
    (h : issuing s = some (k, g, r)) (hl : legal i = true) (hp : passTrapped g = 0)
    (hb : ∀ l < 32, (guardMask g (guardOf i) (selectedMask g)).getLsbD l = true →
      laneBody body (mkCtx s k g r i (selectedMask g) (guardMask g (guardOf i) (selectedMask g)) l) = .ok (out l) ∧
        (out l).hold = (getLane g l).hold) :
    execLane i body s = .next (putGroup s k (advance (mapLanes g fun l ln =>
      if (guardMask g (guardOf i) (selectedMask g)).getLsbD l then out l else ln) r i)) := by
  have step : ∀ l < 32, laneStep i body (fun c => c.ln) s k g r l (getLane g l) =
      if (guardMask g (guardOf i) (selectedMask g)).getLsbD l then out l else getLane g l := by
    intro l hlt
    by_cases he : (guardMask g (guardOf i) (selectedMask g)).getLsbD l = true
    · simp only [laneStep, if_pos he]; rw [(hb l hlt he).1]
    · simp only [laneStep, if_neg he]; exact ite_self _
  rw [execLane, execLaneWith_legal h hl, mapLanes_congr g step, settle_of_none]
  rw [passTrapped_mapLanes, hp]
  intro l hlt
  by_cases he : (guardMask g (guardOf i) (selectedMask g)).getLsbD l = true
  · rw [if_pos he]; exact (hb l hlt he).2
  · rw [if_neg he]

/-! ### Across lanes -/

/-- What each lane of E reads for a cross-lane instruction, or the cause that it traps with. -/
def crossReads {α : Type} (i : Instr) (read : Ctx → Except (BitVec 8) α) (rt : BitVec 5) (s : State) (k : Nat) (g : Group) (r : Run) :
    List (Nat × Except (BitVec 8) α) :=
  let sel := selectedMask g
  let e := guardMask g (guardOf i) sel
  let cx := mkCtx s k g r i sel e
  (lanesOf e).map fun l => (l, if destInside (cx l) (cx l).d rt && readsInside (cx l) then read (cx l) else .error causeIllegalOperand)

/-- Everything that a cross-lane instruction can do: trap every selected lane; nothing, when no lane executes; trap every
executing lane with the cause of what is read once; change each executing lane by what they all read, or trap it. -/
theorem execCross_next {α β : Type} {i : Instr} {lead : Ctx → Except (BitVec 8) β} {read : Ctx → Except (BitVec 8) α}
    {result : Ctx → β → List (Nat × α) → α → Nat} {rt : BitVec 5} {s t : State} (h : execCross i lead read result rt s = .next t) :
    ∃ k g r, issuing s = some (k, g, r) ∧
      let e := guardMask g (guardOf i) (selectedMask g)
      let cx := mkCtx s k g r i (selectedMask g) e
      ((legal i = false ∧ t = trapSelected s k g r i causeIllegalOperand {}) ∨
        (legal i = true ∧ e = 0 ∧ t = settle s k (advance g r i)) ∨
        (legal i = true ∧ e ≠ 0 ∧
          ((∃ c, lead (cx (lowestLane e)) = .error c ∧ t = settle s k (advance (parkMask g r (encode i) e c 0 {}) r i)) ∨
            ∃ v f, lead (cx (lowestLane e)) = .ok v ∧ t = settle s k (advance (mapLanes g f) r i) ∧
              ∀ l ln, (crossReads i read rt s k g r).find? (fun x => x.1 == l) = none → f l ln = ln))) := by
  cases hi : issuing s with
  | none => simp [execCross, hi] at h
  | some x =>
    obtain ⟨k, g, r⟩ := x
    refine ⟨k, g, r, rfl, ?_⟩
    simp only [execCross, hi] at h
    dsimp only
    cases hl : legal i with
    | false => simp only [hl] at h; exact .inl ⟨rfl, (Host.Outcome.next.inj h).symm⟩
    | true =>
      refine .inr ?_
      rw [if_pos hl] at h
      by_cases he : guardMask g (guardOf i) (selectedMask g) = 0
      · rw [if_pos he] at h; exact .inl ⟨rfl, he, (Host.Outcome.next.inj h).symm⟩
      · rw [if_neg he] at h
        refine .inr ⟨rfl, he, ?_⟩
        split at h
        · rename_i c hc; exact .inl ⟨c, hc, (Host.Outcome.next.inj h).symm⟩
        · rename_i v hv
          refine .inr ⟨v, _, hv, (Host.Outcome.next.inj h).symm, fun l ln hn => ?_⟩
          unfold crossReads at hn
          dsimp only at hn ⊢
          rw [hn]

/-! ### On the uniform pipe -/

/-- Everything that a uniform instruction can do: nothing, when its strand selects no lane; trap every selected lane; its effect; what it
does when its guard fails. -/
theorem execUniWith_next {i : Instr} {body : Ctx → Except (BitVec 8) Group} {skip : Ctx → Group} {s t : State}
    (h : execUniWith i body skip s = .next t) : ∃ k g r, issuing s = some (k, g, r) ∧
      let c := mkCtx s k g r i (selectedMask g) (selectedMask g) (lowestLane (selectedMask g))
      ((selectedMask g = 0 ∧ t = settle s k (advance g r i)) ∨
        (selectedMask g ≠ 0 ∧ legal i = false ∧ t = trapSelected s k g r i causeIllegalOperand {}) ∨
        (selectedMask g ≠ 0 ∧ legal i = true ∧
          ((uniGuard g (guardOf i) = false ∧ t = settle s k (advance (skip c) r i)) ∨
            (uniGuard g (guardOf i) = true ∧ ((∃ g', body c = .ok g' ∧ t = settle s k (advance g' r i)) ∨
              ∃ cause, body c = .error cause ∧ t = trapSelected s k g r i cause {}))))) := by
  cases hi : issuing s with
  | none => simp [execUniWith, hi] at h
  | some x =>
    obtain ⟨k, g, r⟩ := x
    refine ⟨k, g, r, rfl, ?_⟩
    simp only [execUniWith, hi] at h
    by_cases h0 : selectedMask g = 0
    · rw [if_pos h0] at h; exact .inl ⟨h0, by simpa using h.symm⟩
    · rw [if_neg h0] at h
      refine .inr ?_
      cases hl : legal i with
      | false => simp [hl] at h; exact .inl ⟨h0, rfl, h.symm⟩
      | true =>
        refine .inr ⟨h0, rfl, ?_⟩
        rw [if_pos hl] at h
        cases hg : uniGuard g (guardOf i) with
        | false => simp [hg] at h; exact .inl ⟨rfl, h.symm⟩
        | true =>
          rw [if_pos hg] at h
          refine .inr ⟨rfl, ?_⟩
          split at h
          · rename_i g' hb; exact .inl ⟨g', hb, by simpa using h.symm⟩
          · rename_i c hb; exact .inr ⟨c, hb, by simpa using h.symm⟩

/-- A uniform instruction whose effect succeeds. -/
theorem execUni_result {i : Instr} {body : Ctx → Except (BitVec 8) Group} {s : State} {k : Nat} {g g' : Group} {r : Run}
    (h : issuing s = some (k, g, r)) (hl : legal i = true) (hs : selectedMask g ≠ 0) (hg : uniGuard g (guardOf i) = true)
    (hb : body (mkCtx s k g r i (selectedMask g) (selectedMask g) (lowestLane (selectedMask g))) = .ok g')
    (hp : passTrapped (advance g' r i) = 0) : execUni i body s = .next (putGroup s k (advance g' r i)) := by
  unfold execUni execUniWith
  rw [h]
  simp only [if_neg hs, if_pos hl, if_pos hg, hb, settle_of_none hp]

/-! ### For the group as a whole -/

/-- The lanes for which a group instruction acts. -/
def groupLanes (g : Group) (i : Instr) (uni : Bool) : Word :=
  if uni then (if uniGuard g (guardOf i) then selectedMask g else 0) else guardMask g (guardOf i) (selectedMask g)

/-- What follows from each outcome of a group instruction. -/
def groupOutcome (i : Instr) (ofE : Bool) (e : Word) (s : State) (k : Nat) (g : Group) (r : Run) (x : GroupOut) : State :=
  match x with
  | .done s' g' => switched s' k (advance g' r i)
  | .stall w s' g' => endTurn (putGroup s' k { g' with wait := w, lastIssue := s.prevIssue }) k
  | .held s' => endTurn s' k
  | .trap cause x =>
    switched (faultEvent s g.part cause x.va (coreOfKey k)) k
      (advanceBy (parkMask g r (encode i) (if ofE then e else selectedMask g) cause 0 x) r (encode i).length)
  | .fail s' g' cause x =>
    switched s' k (advanceBy (parkMask g' r (encode i) (if ofE then e else selectedMask g) cause 0 x) r (encode i).length)

/-- A group instruction that acts: what follows is that of its outcome. -/
theorem execGroup_acts {i : Instr} {uni ofE : Bool} {body : Ctx → GroupOut} {s : State} {k : Nat} {g : Group} {r : Run}
    (h : issuing s = some (k, g, r)) (hl : legal i = true) (he : groupLanes g i uni ≠ 0) :
    execGroup i uni ofE body s = .next (groupOutcome i ofE (groupLanes g i uni) s k g r
      (body (mkCtx s k g r i (selectedMask g) (groupLanes g i uni) (lowestLane (groupLanes g i uni))))) := by
  have hs : selectedMask g ≠ 0 := by
    intro h0
    apply he
    unfold groupLanes guardMask
    rw [h0]
    split
    · split <;> rfl
    · split
      · exact BitVec.eq_of_getLsbD_eq fun l hl' => by rw [getLsbD_maskOf _ hl']; simp
      · rfl
  unfold execGroup
  rw [h]
  simp only [if_neg hs, if_pos hl]
  have : (if uni then (if uniGuard g (guardOf i) then selectedMask g else 0) else guardMask g (guardOf i) (selectedMask g)) =
      groupLanes g i uni := rfl
  simp only [this, if_neg he]
  unfold groupOutcome
  split <;> simp_all

/-- Everything that a group instruction can do. -/
theorem execGroup_next {i : Instr} {uni ofE : Bool} {body : Ctx → GroupOut} {s t : State} (h : execGroup i uni ofE body s = .next t) :
    ∃ k g r, issuing s = some (k, g, r) ∧
      ((selectedMask g = 0 ∧ t = settle s k (advance g r i)) ∨
        (selectedMask g ≠ 0 ∧ legal i = false ∧ t = trapSelected s k g r i causeIllegalOperand {}) ∨
        (selectedMask g ≠ 0 ∧ legal i = true ∧ groupLanes g i uni = 0 ∧ t = switched s k (advance g r i)) ∨
        (legal i = true ∧ groupLanes g i uni ≠ 0 ∧ t = groupOutcome i ofE (groupLanes g i uni) s k g r
          (body (mkCtx s k g r i (selectedMask g) (groupLanes g i uni) (lowestLane (groupLanes g i uni)))))) := by
  cases hi : issuing s with
  | none => simp [execGroup, hi] at h
  | some x =>
    obtain ⟨k, g, r⟩ := x
    refine ⟨k, g, r, rfl, ?_⟩
    by_cases h0 : selectedMask g = 0
    · simp only [execGroup, hi, if_pos h0] at h; exact .inl ⟨h0, by simpa using h.symm⟩
    cases hl : legal i with
    | false =>
      simp only [execGroup, hi, if_neg h0, hl] at h
      exact .inr (.inl ⟨h0, rfl, (Host.Outcome.next.inj h).symm⟩)
    | true =>
      by_cases he : groupLanes g i uni = 0
      · have hif : (if uni then (if uniGuard g (guardOf i) then selectedMask g else 0) else guardMask g (guardOf i) (selectedMask g)) = 0 := he
        simp only [execGroup, hi, if_neg h0, if_pos hl, if_pos hif] at h
        exact .inr (.inr (.inl ⟨h0, rfl, he, by simpa using h.symm⟩))
      · rw [execGroup_acts hi hl he] at h
        exact .inr (.inr (.inr ⟨rfl, he, by simpa using h.symm⟩))

/-- Everything that a matrix instruction can do: a group instruction, whose encoding the group's registers can make faulty. -/
theorem execMatrix_next {i : Instr} {ok : Group → Bool} {body : Ctx → GroupOut} {s t : State} (h : execMatrix i ok body s = .next t) :
    (∃ k g r, issuing s = some (k, g, r) ∧ ok g = false ∧ t = trapSelected s k g r i causeIllegalOperand {}) ∨
      execGroup i true false body s = .next t := by
  cases hi : issuing s with
  | none => simp [execMatrix, hi] at h
  | some x =>
    obtain ⟨k, g, r⟩ := x
    simp only [execMatrix, hi] at h
    split at h
    · rename_i hc
      exact .inl ⟨k, g, r, rfl, by simp at hc; exact hc.2, (Host.Outcome.next.inj h).symm⟩
    · exact .inr h

/-! ### Handlers -/

/-- Everything that an instruction of a handler lane can do: trap the selected lanes, outside a pass as an illegal instruction;
or change what the pass holds for the executing lanes. -/
theorem execPass_next {i : Instr} {body : Ctx → PassLane → Except (BitVec 8) PassLane} {s t : State} (h : execPass i body s = .next t) :
    ∃ k g r, issuing s = some (k, g, r) ∧
      ((g.pass = none ∧ t = trapSelected s k g r i causeIllegalInstruction {}) ∨
        (g.pass ≠ none ∧ legal i = false ∧ t = trapSelected s k g r i causeIllegalOperand {}) ∨
        ∃ p f lanes, g.pass = some p ∧ legal i = true ∧
          t = settle s k (advance { mapLanes g f with pass := some { p with lanes := lanes } } r i) ∧
          ∀ l ln, (guardMask g (guardOf i) (selectedMask g)).getLsbD l = false → f l ln = ln) := by
  cases hi : issuing s with
  | none => simp [execPass, hi] at h
  | some x =>
    obtain ⟨k, g, r⟩ := x
    refine ⟨k, g, r, rfl, ?_⟩
    simp only [execPass, hi] at h
    split at h
    · rename_i hp; exact .inl ⟨hp, (Host.Outcome.next.inj h).symm⟩
    · rename_i p hp
      refine .inr ?_
      cases hl : legal i with
      | false => simp only [hl] at h; exact .inl ⟨by simp [hp], rfl, (Host.Outcome.next.inj h).symm⟩
      | true =>
        rw [if_pos hl] at h
        refine .inr ⟨p, _, _, hp, rfl, (Host.Outcome.next.inj h).symm, fun l ln hn => ?_⟩
        simp [hn]

/-! ### Terminators, illegal words, stops -/

/-- Everything that a terminator can do. -/
theorem execTerm_next {i : Instr} {targets : List (BitVec 6)} {body : Nat → Ctx → Except (BitVec 8) Lane} {s t : State}
    (h : execTerm i targets body s = .next t) : ∃ k g r, issuing s = some (k, g, r) ∧
      (t = trapSelected s k g r i causeIllegalOperand {} ∨
        (legal i = true ∧ (∀ b ∈ targets, b.toNat < blockCount s g r) ∧
          let g2 := advance (mapLanes g fun l ln =>
            if (selectedMask g).getLsbD l then
              match body (blockCount s g r) (mkCtx s k g r i (selectedMask g) (selectedMask g) l) with
              | .ok x => x
              | .error c => parkLane ln (mkRec g r (encode i) l c 0 {})
            else ln) r i
          t = settle s k (if r.replay.isSome then endReplay g2 else g2))) := by
  cases hi : issuing s with
  | none => simp [execTerm, hi] at h
  | some x =>
    obtain ⟨k, g, r⟩ := x
    refine ⟨k, g, r, rfl, ?_⟩
    simp only [execTerm, hi] at h
    split at h
    · rename_i hc
      simp only [Bool.and_eq_true, List.all_eq_true, decide_eq_true_eq] at hc
      exact .inr ⟨hc.1, hc.2, (Host.Outcome.next.inj h).symm⟩
    · exact .inl (by simpa using h.symm)

/-- An instruction that every selected lane traps on. -/
theorem execIllegal_next {i : Instr} {cause : BitVec 8} {s t : State} (h : execIllegal i cause s = .next t) :
    ∃ k g r, issuing s = some (k, g, r) ∧ t = trapRead s k g r (encode i) cause := by
  cases hi : issuing s with
  | none => simp [execIllegal, hi] at h
  | some x => obtain ⟨k, g, r⟩ := x; simp only [execIllegal, hi] at h; exact ⟨k, g, r, rfl, by simpa using h.symm⟩

/-- Everything that `BRK` and `TRAP` can do. -/
theorem execStop_next {i : Instr} {cause : BitVec 8} {code : BitVec 16} {s t : State} (h : execStop i cause code s = .next t) :
    ∃ k g r, issuing s = some (k, g, r) ∧
      ((legal i = true ∧ t = settle s k (advance (parkMask g r (encode i) (guardMask g (guardOf i) (selectedMask g)) cause code {}) r i)) ∨
        (legal i = false ∧ t = trapSelected s k g r i causeIllegalOperand {})) := by
  cases hi : issuing s with
  | none => simp [execStop, hi] at h
  | some x =>
    obtain ⟨k, g, r⟩ := x
    refine ⟨k, g, r, rfl, ?_⟩
    simp only [execStop, hi] at h
    cases hl : legal i with
    | true => rw [if_pos hl] at h; exact .inl ⟨rfl, by simpa using h.symm⟩
    | false => simp [hl] at h; exact .inr ⟨rfl, h.symm⟩

/-! ### Messages -/

/-- Everything that a message of a virtual function can do. -/
theorem vfMessage_next {h : Msg} {ty : BitVec 8} {body : Nat → Partition → Out} {s t : State} (hm : vfMessage h ty body s = .next t) :
    msgTaken s h ty = true ∧
      (((h.fn = 0 ∨ partOfFn s h.fn = none) ∧ reply s h ty 3 0 = .next t) ∨
        (h.fn ≠ 0 ∧ h.rsvd = true ∧ reply s h ty 2 0 = .next t) ∨
        ∃ p x, h.fn ≠ 0 ∧ h.rsvd = false ∧ partOfFn s h.fn = some (p, x) ∧ body p x = .next t) := by
  unfold vfMessage at hm
  cases ht : msgTaken s h ty with
  | false => simp [ht] at hm
  | true =>
    refine ⟨rfl, ?_⟩
    simp only [ht, Bool.not_true] at hm
    cases hp : partOfFn s h.fn with
    | none => simp only [hp] at hm; exact .inl ⟨.inr rfl, hm⟩
    | some e =>
      obtain ⟨p, x⟩ := e
      simp only [hp] at hm
      by_cases h0 : h.fn = 0
      · simp [h0] at hm; exact .inl ⟨.inl h0, hm⟩
      · cases hr : h.rsvd with
        | true => simp [h0, hr] at hm; exact .inr (.inl ⟨h0, rfl, hm⟩)
        | false => simp [h0, hr] at hm; exact .inr (.inr ⟨p, x, h0, rfl, rfl, hm⟩)

/-- Everything that a message of the physical function can do. -/
theorem pfMessage_next {h : Msg} {ty : BitVec 8} {body : Out} {s t : State} (hm : pfMessage h ty body s = .next t) :
    msgTaken s h ty = true ∧
      ((h.fn ≠ 0 ∧ reply s h ty 3 0 = .next t) ∨ (h.fn = 0 ∧ h.rsvd = true ∧ reply s h ty 2 0 = .next t) ∨
        (h.fn = 0 ∧ h.rsvd = false ∧ body = .next t)) := by
  unfold pfMessage at hm
  cases ht : msgTaken s h ty with
  | false => simp [ht] at hm
  | true =>
    refine ⟨rfl, ?_⟩
    by_cases h0 : h.fn = 0
    · cases hr : h.rsvd with
      | true => simp [ht, h0, hr] at hm; exact .inr (.inl ⟨h0, rfl, hm⟩)
      | false => simp [ht, h0, hr] at hm; exact .inr (.inr ⟨h0, rfl, hm⟩)
    · simp [ht, h0] at hm; exact .inl ⟨h0, hm⟩

end Sys2Proof.Machine
end

