-- ==== Sys2Proof/Laws/Memory.lean ====
section
/-!
SUPPORT. Every operation that writes memory or scratch keeps their canonical form, and says what else of the state it can change.
-/
namespace Sys2Proof

open Sys2Proof.Machine

/-! ### What keeps the canonical form -/

/-- A state with the same memory and scratch, and no crew whose scratch is another. -/
theorem MemCanonical.of_same {s t : State} (h : MemCanonical s) (hm : t.mem = s.mem) (hc : t.cscratch = s.cscratch)
    (hk : ∀ e ∈ t.crews, e ∈ s.crews) : MemCanonical t :=
  ⟨hm ▸ h.1, hc ▸ h.2.1, fun e he => h.2.2 e (hk e he)⟩

/-- A state with another memory of canonical form. -/
theorem MemCanonical.setMem {s : State} {m : List Host.Cell} (h : MemCanonical s) (hm : Memory.wf m = true) :
    MemCanonical { s with mem := m } := ⟨hm, h.2.1, h.2.2⟩

/-- What stands in a table after a thing was put. -/
theorem Machine.mem_smPut {α : Type} {m : SMap α} {k : Nat} {v : α} {e : Nat × α} (h : e ∈ smPut m k v) : e = (k, v) ∨ e ∈ m := by
  induction m with
  | nil => simpa [smPut] using h
  | cons x rest ih =>
    obtain ⟨k', v'⟩ := x
    simp only [smPut] at h
    split at h
    · simpa using h
    · split at h
      · rcases List.mem_cons.1 h with h | h
        · exact .inl h
        · exact .inr (List.mem_cons_of_mem _ h)
      · rcases List.mem_cons.1 h with h | h
        · exact .inr (h ▸ List.mem_cons_self)
        · exact (ih h).imp_right (List.mem_cons_of_mem _)

/-- What stands in a table after a thing was removed. -/
theorem Machine.mem_smErase {α : Type} {m : SMap α} {k : Nat} {e : Nat × α} (h : e ∈ smErase m k) : e ∈ m := by
  have drop : ∀ (m : SMap α), e ∈ smDrop m k → e ∈ m := by
    intro m
    induction m with
    | nil => exact id
    | cons x rest ih =>
      intro h
      simp only [smDrop] at h
      split at h
      · exact List.mem_cons_of_mem _ (ih h)
      · exact h
  induction m with
  | nil => exact h
  | cons x rest ih =>
    obtain ⟨k', v'⟩ := x
    simp only [smErase] at h
    split at h
    · exact h
    · split at h
      · exact List.mem_cons_of_mem _ (drop _ h)
      · rcases List.mem_cons.1 h with h | h
        · exact h ▸ List.mem_cons_self
        · exact List.mem_cons_of_mem _ (ih h)

/-- What is found in a table stands in it. -/
theorem Machine.mem_of_smFind {α : Type} {m : SMap α} {k : Nat} {v : α} (h : smFind m k = some v) : (k, v) ∈ m := by
  induction m with
  | nil => cases h
  | cons x rest ih =>
    obtain ⟨k', v'⟩ := x
    simp only [smFind] at h
    split at h
    · rename_i hk; subst hk; cases h; exact List.mem_cons_self
    · split at h
      · cases h
      · exact List.mem_cons_of_mem _ (ih h)

/-- A crew whose scratch has canonical form is put. -/
theorem MemCanonical.putCrew {s : State} (c : Nat) {x : Crew} (h : MemCanonical s) (hx : Memory.wf x.scratch = true) :
    MemCanonical (putCrew s c x) :=
  ⟨h.1, h.2.1, fun e he => by
    rcases mem_smPut he with rfl | he
    · exact hx
    · exact h.2.2 e he⟩

/-- A crew that is put with the scratch of one that was there. -/
theorem MemCanonical.putCrew_same {s : State} (c : Nat) {x y : Crew} (h : MemCanonical s) (hy : smFind s.crews c = some y)
    (hx : x.scratch = y.scratch) : MemCanonical (Machine.putCrew s c x) :=
  h.putCrew c (hx ▸ h.2.2 _ (mem_of_smFind hy))

/-! ### Writes by the device and the loader -/

/-- A write of the device changes memory and nothing else. -/
theorem Machine.pokeVa_frame (s : State) (p va : Nat) (bs : List Byte) : pokeVa s p va bs = { s with mem := (pokeVa s p va bs).mem } := by
  induction bs generalizing s va with
  | nil => rfl
  | cons b rest ih =>
    simp only [pokeVa]
    split
    · rw [ih]
    · exact ih s _

/-- A write of the device keeps the canonical form. -/
theorem Machine.pokeVa_wf {s : State} (p va : Nat) (bs : List Byte) (h : Memory.wf s.mem = true) : Memory.wf (pokeVa s p va bs).mem = true := by
  induction bs generalizing s va with
  | nil => exact h
  | cons b rest ih =>
    simp only [pokeVa]
    split
    · exact ih _ (memSet_wf _ b h)
    · exact ih _ h

/-- All that a record of a ring can have changed: memory, partitions, and the device with its functions. -/
def Machine.OnlyRecords (s t : State) : Prop := t = { s with mem := t.mem, parts := t.parts, dev := t.dev }

theorem Machine.OnlyRecords.trans {s t u : State} (h : OnlyRecords s t) (h' : OnlyRecords t u) : OnlyRecords s u := by
  unfold OnlyRecords at *
  rw [h', h]

theorem Machine.onlyRecords_pokeVa (s : State) (p va : Nat) (bs : List Byte) : OnlyRecords s (pokeVa s p va bs) := by
  unfold OnlyRecords; rw [pokeVa_frame]

/-- A record of a ring changes memory, the partition and its function's interrupts, and nothing else. -/
theorem Machine.pushRing_frame (s : State) (p : Nat) (r : Ring) (record : List Byte) : OnlyRecords s (pushRing s p r record) := by
  unfold pushRing
  split
  · rfl
  · rename_i x _
    generalize ringShape x r = shape
    obtain ⟨base, size, n, vec⟩ := shape
    dsimp only
    cases readVa s p base 8 with
    | none => exact rfl
    | some head =>
      cases readVa s p (base + 64) 8 with
      | none => exact rfl
      | some tail =>
        dsimp only
        generalize (if tail > head then head else tail) = low
        generalize (if head - (smGet 0 x.tails vec).toNat ≥ n then
          { x with tails := smSet 0 x.tails vec (BitVec.ofNat 64 low) } else x) = y
        split
        · rfl
        · have h := (onlyRecords_pokeVa s p (base + 128 + size * (head % n)) record).trans (onlyRecords_pokeVa _ p base (leBytes 8 (head + 1)))
          split
          · exact h.trans rfl
          · exact h.trans rfl

/-- A record of a ring keeps the canonical form. -/
theorem Machine.pushRing_wf {s : State} (p : Nat) (r : Ring) (record : List Byte) (h : Memory.wf s.mem = true) :
    Memory.wf (pushRing s p r record).mem = true := by
  unfold pushRing
  split
  · exact h
  · rename_i x _
    generalize ringShape x r = shape
    obtain ⟨base, size, n, vec⟩ := shape
    dsimp only
    cases readVa s p base 8 with
    | none => exact h
    | some head =>
      cases readVa s p (base + 64) 8 with
      | none => exact h
      | some tail =>
        dsimp only
        generalize (if tail > head then head else tail) = low
        generalize (if head - (smGet 0 x.tails vec).toNat ≥ n then
          { x with tails := smSet 0 x.tails vec (BitVec.ofNat 64 low) } else x) = y
        split
        · exact h
        · have w := pokeVa_wf p base (leBytes 8 (head + 1)) (pokeVa_wf p (base + 128 + size * (head % n)) record h)
          split
          · exact w
          · exact w

theorem MemCanonical.pushRing {s : State} (p : Nat) (r : Ring) (record : List Byte) (h : MemCanonical s) :
    MemCanonical (Machine.pushRing s p r record) := by
  rw [pushRing_frame]
  exact ⟨pushRing_wf p r record h.1, h.2⟩

/-- A device event changes memory, the partition and its function's interrupts, and nothing else. -/
theorem Machine.deviceEvent_frame (s : State) (p event : Nat) (x : EventInfo) : OnlyRecords s (deviceEvent s p event x) :=
  pushRing_frame s p .fault _

theorem MemCanonical.deviceEvent {s : State} (p event : Nat) (x : EventInfo) (h : MemCanonical s) :
    MemCanonical (Machine.deviceEvent s p event x) := h.pushRing p .fault _

theorem MemCanonical.loaderReport {s : State} (p event : Nat) (x : EventInfo) (h : MemCanonical s) :
    MemCanonical (Machine.loaderReport s p event x) := h.pushRing p .fault _

theorem MemCanonical.dropReport {s : State} (p core : Nat) (r : TrapRec) (elem res n lane : Nat) (mask : Word) (cpyf : Bool)
    (h : MemCanonical s) : MemCanonical (Machine.dropReport s p core r elem res n lane mask cpyf) := by
  unfold Machine.dropReport
  split
  · exact h
  · exact h.deviceEvent p 0x01 _

theorem MemCanonical.walkEvent {s : State} (p va core : Nat) (h : MemCanonical s) : MemCanonical (Machine.walkEvent s p va core) := by
  unfold Machine.walkEvent
  split
  · exact h.deviceEvent p 0x19 _
  · exact h

theorem MemCanonical.pushWalked {s : State} (p : Nat) (r : Ring) (record : List Byte) (core : Nat) (h : MemCanonical s) :
    MemCanonical (Machine.pushWalked s p r record core) := by
  unfold Machine.pushWalked
  split
  · exact h
  · rename_i x _
    have h1 := h.walkEvent p (ringShape x r).1 core
    dsimp only
    split
    · exact h1.pushRing p r record
    · exact (h1.walkEvent p _ core).pushRing p r record

theorem MemCanonical.energyRecord {s : State} (p : Nat) (x : Launch) (h : MemCanonical s) : MemCanonical (Machine.energyRecord s p x) :=
  h.pushWalked p .energy _ 0

theorem MemCanonical.dropLaunch {s : State} (u : Nat) (x : Launch) (h : MemCanonical s) : MemCanonical (Machine.dropLaunch s u x) := by
  unfold Machine.dropLaunch
  dsimp only
  split
  · exact h
  · exact h

theorem MemCanonical.finishLaunch {s : State} (u : Nat) (x : Launch) (h : MemCanonical s) : MemCanonical (Machine.finishLaunch s u x) :=
  (h.energyRecord x.part x).dropLaunch u x

theorem MemCanonical.retireCrew {s : State} (c : Nat) (x : Crew) (h : MemCanonical s) : MemCanonical (Machine.retireCrew s c x) := by
  unfold Machine.retireCrew
  have h1 : MemCanonical { s with crews := smErase s.crews c } := h.of_same rfl rfl fun e he => mem_smErase he
  have h2 : MemCanonical (if (setCrews { s with crews := smErase s.crews c } x.launch x.set).isEmpty then
      clearSetBars { s with crews := smErase s.crews c } (setKey x.launch x.set) else { s with crews := smErase s.crews c }) := by
    split
    · exact h1
    · exact h1
  dsimp only
  split
  · exact h2
  · split
    · split
      · exact h2
      · exact h2
    · split
      · split
        · exact h2.finishLaunch _ _
        · exact h2
      · exact h2

theorem MemCanonical.leaveCore {s : State} (c : Nat) {x y : Crew} (h : MemCanonical s) (hy : smFind s.crews c = some y)
    (hx : x.scratch = y.scratch) : MemCanonical (Machine.leaveCore s c x) := by
  unfold Machine.leaveCore
  split
  · exact h.putCrew_same c hy hx
  · have h1 : MemCanonical (Machine.putCrew s c { x with core := none, slots := [] }) := h.putCrew_same c hy hx
    dsimp only
    split
    · exact h1
    · exact h1

theorem MemCanonical.retireGroup {s : State} (k : Nat) (g : Group) (h : MemCanonical s) : MemCanonical (Machine.retireGroup s k g) := by
  unfold Machine.retireGroup
  dsimp only
  split
  · exact h
  · rename_i c hc
    split
    · exact MemCanonical.retireCrew _ _ (h.of_same rfl rfl fun e he => he)
    · exact MemCanonical.leaveCore (y := c) _ (h.of_same rfl rfl fun e he => he) hc rfl

theorem MemCanonical.containLaunch {s : State} (u : Nat) (h : MemCanonical s) : MemCanonical (Machine.containLaunch s u) := by
  unfold Machine.containLaunch
  have h1 : ∀ (t : State), t.mem = s.mem → t.cscratch = s.cscratch → (∀ e ∈ t.crews, e ∈ s.crews) → MemCanonical t :=
    fun t a b c => h.of_same a b c
  dsimp only
  split
  · exact h1 _ rfl rfl fun e he => (List.mem_filter.1 he).1
  · split
    · split
      · exact h1 _ rfl rfl fun e he => (List.mem_filter.1 he).1
      · exact h1 _ rfl rfl fun e he => (List.mem_filter.1 he).1
    · exact MemCanonical.finishLaunch _ _ (h1 _ rfl rfl fun e he => (List.mem_filter.1 he).1)

theorem MemCanonical.containGroup {s : State} (k : Nat) (g : Group) (event : Nat) (mask : Word) (h : MemCanonical s) :
    MemCanonical (Machine.containGroup s k g event mask) := (h.containLaunch g.launch).deviceEvent _ _ _

/-- Putting a group after its instruction keeps the canonical form, whether or not the launch is contained. -/
theorem MemCanonical.settle {s : State} (k : Nat) (g : Group) (h : MemCanonical s) : MemCanonical (Machine.settle s k g) := by
  unfold Machine.settle
  dsimp only
  split
  · exact h
  · exact MemCanonical.containGroup k g 0x11 _ h

theorem MemCanonical.switched {s : State} (k : Nat) (g : Group) (h : MemCanonical s) : MemCanonical (Machine.switched s k g) :=
  MemCanonical.settle k (staleSwitch g) (s := endTurn s k) h

theorem MemCanonical.settleFaulty {s : State} (k : Nat) (g : Group) (switchPoint : Bool) (h : MemCanonical s) :
    MemCanonical (Machine.settleFaulty s k g switchPoint) := by
  unfold Machine.settleFaulty
  split
  · exact h.switched k g
  · exact h.settle k g

theorem MemCanonical.trapSelected {s : State} (k : Nat) (g : Group) (r : Run) (i : Instr) (cause : BitVec 8) (x : MemInfo)
    (h : MemCanonical s) : MemCanonical (Machine.trapSelected s k g r i cause x) := h.settleFaulty k _ _

theorem MemCanonical.trapRead {s : State} (k : Nat) (g : Group) (r : Run) (ws : List Word) (cause : BitVec 8) (h : MemCanonical s) :
    MemCanonical (Machine.trapRead s k g r ws cause) := h.settleFaulty k _ _

theorem MemCanonical.countSlots {s : State} (core launch n : Nat) (h : MemCanonical s) :
    MemCanonical (Machine.countSlots s core launch n) := h

/-- Counting an issue's slots changes the meters, and nothing else. -/
theorem Machine.countIssue_frame (i : Instr) (s t : State) : countIssue i s t = { t with meters := (countIssue i s t).meters } := by
  unfold countIssue
  split
  · rfl
  · dsimp only
    generalize (_ && _ : Bool) = b
    cases b <;> rfl

theorem MemCanonical.countIssue {t : State} (i : Instr) (s : State) (h : MemCanonical t) : MemCanonical (Machine.countIssue i s t) := by
  rw [countIssue_frame]; exact h

theorem MemCanonical.rebuiltEvent {s : State} (p va core : Nat) (h : MemCanonical s) : MemCanonical (Machine.rebuiltEvent s p va core) := by
  unfold Machine.rebuiltEvent
  split
  · exact h
  · split
    · exact h.deviceEvent p 0x20 _
    · exact h

theorem MemCanonical.faultEvent {s : State} (p : Nat) (cause : BitVec 8) (va core : Nat) (h : MemCanonical s) :
    MemCanonical (Machine.faultEvent s p cause va core) := by
  unfold Machine.faultEvent
  split
  · exact h.walkEvent p va core
  · split
    · exact h.deviceEvent p 0x22 _
    · exact h

/-- A read that the device makes for itself writes its events, and nothing else in memory. -/
theorem MemCanonical.ownRead {s : State} (p core va : Nat) (h : MemCanonical s) : MemCanonical (Machine.ownRead p core s va) := by
  unfold Machine.ownRead
  split
  · exact h.rebuiltEvent p va core
  · exact h.faultEvent p _ va core

/-- What every step of a fold keeps, the fold keeps. -/
theorem MemCanonical.foldl {α : Type} {f : State → α → State} (step : ∀ s x, MemCanonical s → MemCanonical (f s x)) (xs : List α)
    {s : State} (h : MemCanonical s) : MemCanonical (xs.foldl f s) := by
  induction xs generalizing s with
  | nil => exact h
  | cons x xs ih => exact ih (step s x h)

theorem MemCanonical.linesRead {s : State} (p core : Nat) (reads : List Nat) (h : MemCanonical s) :
    MemCanonical (Machine.linesRead s p core reads) := h.foldl (fun _ va ht => ht.rebuiltEvent p va core) _

theorem MemCanonical.replyTo {s : State} (fn slot : Nat) (ty : BitVec 8) (tag : Word) (status body : Nat) (h : MemCanonical s) :
    MemCanonical (Machine.replyTo s fn slot ty tag status body) := h

/-! ### Writes of programs -/

/-- A change of memory, of partitions and of the counter of free values, and of nothing else, that keeps the form of memory. -/
def Machine.OnlyMemory (s t : State) : Prop :=
  t = { s with mem := t.mem, parts := t.parts, freeCtr := t.freeCtr } ∧ (Memory.wf s.mem = true → Memory.wf t.mem = true)

theorem Machine.OnlyMemory.rfl (s : State) : OnlyMemory s s := ⟨Eq.refl s, id⟩

theorem Machine.OnlyMemory.trans {s t u : State} (h : OnlyMemory s t) (h' : OnlyMemory t u) : OnlyMemory s u :=
  ⟨by rw [h'.1, h.1], fun hw => h'.2 (h.2 hw)⟩

theorem MemCanonical.onlyMemory {s t : State} (h : MemCanonical s) (ht : OnlyMemory s t) : MemCanonical t := by
  rw [ht.1]; exact ⟨ht.2 h.1, h.2⟩

theorem Machine.OnlyMemory.write (s : State) (p : Nat) (x : Partition) (k n v c : Nat) :
    OnlyMemory s { putPart s p x with mem := memWrite s.mem k n v, freeCtr := c } :=
  ⟨Eq.refl _, fun hw => memWrite_wf k n v hw⟩

/-- A line of an aliased frame set that a store takes over changes memory, and nothing but what stands beside it. -/
theorem Machine.claimLine_ok (s : State) (p va : Nat) : OnlyMemory s (claimLine s p va) := by
  unfold claimLine
  split
  · split
    · exact .rfl s
    · dsimp only
      split
      · exact .write ..
      · split
        · exact .rfl s
        · exact ⟨Eq.refl _, id⟩
  · exact .rfl s

/-- A write of bytes of one line changes memory and what stands beside it, and nothing else. -/
theorem Machine.writeBytes_ok {s t : State} {p va n v : Nat} (h : writeBytes s p va n v = .ok t) : OnlyMemory s t := by
  unfold writeBytes at h
  split at h
  · cases h
  · split at h
    · cases h; exact .rfl _
    · cases hk : writablePlace s p va with
      | error c => simp [hk, bind, Except.bind] at h
      | ok k =>
        simp only [hk, bind, Except.bind, Except.ok.injEq] at h
        subst h
        exact (claimLine_ok s p va).trans ⟨Eq.refl _, fun hw => memWrite_wf k n v hw⟩

theorem MemCanonical.writeBytes {s t : State} {p va n v : Nat} (h : MemCanonical s) (ht : Machine.writeBytes s p va n v = .ok t) :
    MemCanonical t := h.onlyMemory (writeBytes_ok ht)

/-- A fault at an address is the fault without it. -/
theorem Machine.faultAt_ok {α : Type} {va : Nat} {x : Except (BitVec 8) α} {v : α} (h : faultAt va x = .ok v) : x = .ok v := by
  cases x with
  | ok a => cases h; rfl
  | error c => cases h

/-- Bytes of a block as stored. -/
theorem Machine.putBlockBytes_ok {s t : State} {p va : Nat} {bs : List Byte} (h : putBlockBytes s p va bs = .ok t) : OnlyMemory s t := by
  induction bs generalizing s va with
  | nil => cases h; exact .rfl _
  | cons b rest ih =>
    simp only [putBlockBytes] at h
    cases hu : faultAt va (writeBytes s p va 1 b.toNat) with
    | error c => simp [hu, bind, Except.bind] at h
    | ok u =>
      simp only [hu, bind, Except.bind] at h
      exact (writeBytes_ok (faultAt_ok hu)).trans (ih h)

/-- The stores of a context image. -/
theorem Machine.storeBytes_frame (s : State) (p va : Nat) (bs : List Byte) : OnlyMemory s (storeBytes s p va bs).2 := by
  induction bs generalizing s va with
  | nil => exact .rfl s
  | cons b rest ih =>
    simp only [storeBytes]
    split
    · rename_i t ht
      exact (writeBytes_ok ht).trans (ih t (va + 1))
    · exact ih s (va + 1)

/-- A write of scratch keeps the canonical form. -/
theorem MemCanonical.scratchWrite {s : State} (cluster : Bool) (place off n v : Nat) (h : MemCanonical s) :
    MemCanonical (Machine.scratchWrite s cluster place off n v) := by
  unfold Machine.scratchWrite
  split
  · exact ⟨h.1, memWrite_wf _ _ _ h.2.1, h.2.2⟩
  · split
    · rename_i c hc
      exact h.putCrew place (memWrite_wf off n v (h.2.2 _ (mem_of_smFind hc)))
    · exact h

/-- A write of bytes of scratch keeps the canonical form. -/
theorem MemCanonical.scratchPutBytes {s : State} (cluster : Bool) (place off : Nat) (bs : List Byte) (h : MemCanonical s) :
    MemCanonical (Machine.scratchPutBytes s cluster place off bs) := by
  induction bs generalizing s off with
  | nil => exact h
  | cons b rest ih => exact ih _ (h.scratchWrite cluster place off 1 b.toNat)

/-- A write of an element changes memory and nothing else. -/
theorem MemCanonical.writeElement {s t : State} {p : Nat} {e : Entry} {xs : List Nat} {pat : Nat} (h : MemCanonical s)
    (ht : Machine.writeElement s p e xs pat = .ok t) : MemCanonical t := by
  unfold Machine.writeElement at ht
  dsimp only at ht
  split at ht
  · split at ht
    · cases ht; exact h
    · cases hk : faultAt (elemAddr e xs) (writablePlace s p (elemAddr e xs)) with
      | error c => simp [hk, bind, Except.bind] at ht
      | ok k =>
        simp only [hk, bind, Except.bind, Except.ok.injEq] at ht
        subst ht
        have hc := h.onlyMemory (claimLine_ok s p (elemAddr e xs))
        exact hc.setMem (memSet_wf _ _ hc.1)
  · split at ht
    · cases h1 : faultAt (elemAddr e xs) (Machine.writeBytes s p (elemAddr e xs) (Machine.sizeOf e.fmt) pat) with
      | error c => simp [h1, bind, Except.bind] at ht
      | ok u =>
        cases h2 : faultAt (elemAddr e xs) (readBytes s p (lineOf (elemAddr e xs)) 128) with
        | error c => simp [h1, h2, bind, Except.bind] at ht
        | ok line =>
          simp only [h1, h2, bind, Except.bind] at ht
          exact MemCanonical.writeBytes (s := { s with freeCtr := s.freeCtr + 128 }) h (faultAt_ok ht)
    · exact h.writeBytes (faultAt_ok ht)

/-! ### Page tables -/

/-- Every byte of a frame set becomes zero. -/
theorem MemCanonical.zeroFrame {s : State} (p fset : Nat) (h : MemCanonical s) : MemCanonical (Machine.zeroFrame s p fset) :=
  h.setMem (Memory.wf_filter _ h.1)

theorem MemCanonical.zeroPage {s : State} (p fset : Nat) (big : Bool) (h : MemCanonical s) : MemCanonical (Machine.zeroPage s p fset big) :=
  h.setMem (Memory.wf_filter _ h.1)

/-- The home of a list holds other items: a partition changes and nothing else. -/
theorem MemCanonical.setResident {s : State} (p hdr : Nat) (m : SMap Nat) (h : MemCanonical s) :
    MemCanonical (Machine.setResident s p hdr m) := by
  unfold Machine.setResident
  split
  · exact h
  · exact h

/-- A segment that becomes resident keeps the canonical form. -/
theorem MemCanonical.refillHead {s t : State} {p : Nat} {l : WList} (h : MemCanonical s) (ht : Machine.refillHead s p l = .ok t) :
    MemCanonical t := by
  unfold Machine.refillHead at ht
  dsimp only at ht
  cases hv : listedItems s p l l.head (min ((segmentOf l l.head + 1) * (4096 / l.size)) l.tail - l.head) with
  | error c => simp [hv, bind, Except.bind] at ht
  | ok vs =>
    simp only [hv, bind, Except.bind, Except.ok.injEq] at ht
    rw [← ht]
    unfold Machine.countPeer
    split
    · exact h.setResident _ _ _
    · exact h.setResident _ _ _

/-- Taking items of a list keeps the canonical form. -/
theorem MemCanonical.takeItems {s t : State} {p n : Nat} {l l' : WList} {vs : List Nat} (h : MemCanonical s)
    (ht : Machine.takeItems s p l n = .ok (t, vs, l')) : MemCanonical t := by
  induction n generalizing s t l l' vs with
  | zero => cases ht; exact h
  | succ n ih =>
    simp only [Machine.takeItems] at ht
    cases h1 : withHead s p l with
    | error c => simp [h1, bind, Except.bind] at ht
    | ok u =>
      have hu : MemCanonical u := by
        unfold withHead at h1
        split at h1
        · cases h1; exact h
        · exact h.refillHead h1
      simp only [h1, bind, Except.bind] at ht
      cases h2 : itemValue u p l l.head with
      | error c => simp [h2] at ht
      | ok v =>
        simp only [h2] at ht
        cases h3 : Machine.takeItems (Machine.setResident u p l.hdr (smErase (residentOf u p l.hdr) l.head)) p
            { l with head := l.head + 1 } n with
        | error c => simp [h3] at ht
        | ok y =>
          simp only [h3, Except.ok.injEq, Prod.mk.injEq] at ht
          exact ht.1 ▸ ih (hu.setResident _ _ _) h3

/-- A pop of a list keeps the canonical form. -/
theorem MemCanonical.popList {s t : State} {p : Nat} {e : Entry} {n : Nat} {vs : List Nat} (h : MemCanonical s)
    (ht : Machine.popList s p e n = .ok (t, vs)) : MemCanonical t := by
  unfold Machine.popList at ht
  cases h1 : readList s p e with
  | error c => simp [h1, bind, Except.bind] at ht
  | ok l =>
    cases h2 : Machine.takeItems s p l (min n (l.tail - l.head)) with
    | error c => simp [h1, h2, bind, Except.bind] at ht
    | ok y =>
      obtain ⟨w, vs', l'⟩ := y
      cases h3 : writeCounts w p l' with
      | error c => simp [h1, h2, h3, bind, Except.bind] at ht
      | ok u =>
        simp only [h1, h2, h3, bind, Except.bind, Except.ok.injEq, Prod.mk.injEq] at ht
        exact ht.1 ▸ (h.takeItems h2).writeBytes (faultAt_ok h3)

/-- A frame set taken from the pool. -/
theorem MemCanonical.popFrame {s : State} (p : Nat) (h : MemCanonical s) : MemCanonical (Machine.popFrame s p).1 := by
  unfold Machine.popFrame
  dsimp only
  split
  · exact h
  · split
    · rename_i hp; exact (h.popList hp).zeroFrame p _
    · exact h

/-- The tables on a path, made where they are missing. -/
theorem MemCanonical.makeTables {s : State} (p t level va fuel : Nat) (h : MemCanonical s) :
    MemCanonical (Machine.makeTables s p t level va fuel).1 := by
  induction fuel generalizing s t level with
  | zero => exact h
  | succ fuel ih =>
    simp only [Machine.makeTables]
    split
    · exact ih _ _ h
    · have hp := h.popFrame p
      split
      · rename_i u f hu
        rw [hu] at hp
        exact ih _ _ (hp.setMem (memWrite_wf _ _ _ hp.1))
      · rename_i u hu
        rw [hu] at hp
        exact hp

/-- A page that is mapped afresh: a partition changes and nothing else. -/
theorem MemCanonical.freshPage {s : State} (p va size f : Nat) (h : MemCanonical s) : MemCanonical (Machine.freshPage s p va size f) := by
  unfold Machine.freshPage
  split
  · exact h
  · exact h

/-- The record of a malformed entry on the way to a page. -/
theorem MemCanonical.tableWalkEvent {s : State} (p va core : Nat) (h : MemCanonical s) : MemCanonical (Machine.tableWalkEvent s p va core) := by
  unfold Machine.tableWalkEvent
  split
  · exact h.deviceEvent _ _ _
  · exact h

/-- Mapping a page keeps the canonical form. -/
theorem MemCanonical.mapPage {s : State} (p core addr : Nat) (w pin unmap : Bool) (h : MemCanonical s) :
    MemCanonical (Machine.mapPage s p core addr w pin unmap).1 := by
  unfold Machine.mapPage
  dsimp only
  have h := h.tableWalkEvent p (addr / 2 ^ 16 * 2 ^ 16) core
  generalize Machine.tableWalkEvent s p (addr / 2 ^ 16 * 2 ^ 16) core = s0 at h ⊢
  split
  · exact h
  · split
    · exact h
    · split
      · split
        · exact h
        · split
          · exact h
          · exact h.setMem (memWrite_wf _ _ _ h.1)
      · split
        · exact h
        · have h1 := fun root => h.makeTables p root 1 (addr / 2 ^ 16 * 2 ^ 16) 3
          split
          · rename_i s1 hm
            exact congrArg Prod.fst hm ▸ h1 _
          · rename_i s1 t hm
            have e : _ = s1 := congrArg Prod.fst hm
            have h2 : MemCanonical (Machine.popFrame s1 p).1 := MemCanonical.popFrame p (e ▸ h1 _)
            split
            · rename_i s2 hq
              rw [hq] at h2
              exact h2
            · rename_i s2 f hq
              rw [hq] at h2
              have h3 := h2.freshPage p (addr / 2 ^ 16 * 2 ^ 16) (2 ^ 16) f
              exact h3.setMem (memWrite_wf _ _ _ h3.1)

end Sys2Proof
end

