-- ==== Sys2Proof/Laws/Operands.lean ====
section
/-!
SUPPORT. What reading an operand and writing a result can do: the codes that trap, the registers, latches and predicates that a
write leaves as they were.
-/
namespace Sys2Proof.Machine

/-- The operand codes on which a lane traps, each with its cause: a window slot outside the allocation, a stale latch, the codes
that name nothing. -/
theorem readLane_traps {c : Ctx} {code w : Nat} {kst : Nat → Nat} {cause : BitVec 8} (h : readLane c code w kst = .error cause) :
    (code < 0x80 ∧ regInside c.g c.ln code w = false ∧ cause = causeIllegalOperand) ∨
      (0xC0 ≤ code ∧ code < 0xC4 ∧ latchOf c.ln code = none ∧ cause = causeStaleLatch) ∨
      (0xCC ≤ code ∧ code < 0xD0 ∧ cause = causeIllegalOperand) := by
  unfold readLane at h
  split at h
  · rename_i h1
    split at h
    · cases h
    · rename_i hr; cases h; exact .inl ⟨h1, by simpa using hr, rfl⟩
  · split at h
    · cases h
    · split at h
      · split at h
        · cases h
        · rename_i hl; cases h; exact .inr (.inl ⟨by omega, by assumption, hl, rfl⟩)
      · split at h
        · cases h
        · split at h
          · cases h
          · split at h
            · cases h; exact .inr (.inr ⟨by omega, by assumption, rfl⟩)
            · cases h

/-- A constant and a uniform slot never trap. -/
theorem readLane_constant (c : Ctx) {code w : Nat} (kst : Nat → Nat) (h : 0x80 ≤ code ∧ code < 0xC0) :
    readLane c code w kst = .ok (kst (code - 0x80)) := by
  unfold readLane
  rw [if_neg (by omega), if_pos h.2]

/-- The register that a value of at most 32 bits is written to holds the value, and every other one what it held. -/
theorem getReg_setReg_other (ln : Lane) {n m : Nat} (v : Word) (hw : smWf 0 ln.regs = true) (h : m ≠ n) :
    getReg (setReg ln n v) m = getReg ln m := smGet_smSet_other v hw h

/-- The register that was written. -/
theorem getReg_setReg_same (ln : Lane) (n : Nat) (v : Word) (hw : smWf 0 ln.regs = true) : getReg (setReg ln n v) n = v :=
  smGet_smSet_same n v hw

/-- Everything that writing a result of a lane can do: the result enters `b0` and the latches shift; its registers change, and
nothing else. A destination outside the allocation traps. -/
theorem writeLane_ok {c : Ctx} {ln t : Lane} {d : Nat} {rt : BitVec 5} {pat : Nat} (h : writeLane c ln d rt pat = .ok t) :
    (0x80 ≤ d ∨ regInside c.g ln d (tyBits rt) = true) ∧
      t = shiftLatches { ln with regs := t.regs } (some (BitVec.ofNat 64 (pat % 2 ^ tyBits rt))) ∧
      (0x80 ≤ d → t.regs = ln.regs) := by
  unfold writeLane at h
  dsimp only at h
  split at h
  · rename_i hd; cases h; exact ⟨.inl hd, rfl, fun _ => rfl⟩
  · rename_i hd
    split at h
    · rename_i hr
      cases h
      refine ⟨.inr hr, ?_, fun h => absurd h hd⟩
      split <;> rfl
    · cases h

/-- Every register but those of the destination keeps its value. -/
theorem writeLane_frame {c : Ctx} {ln t : Lane} {d n : Nat} {rt : BitVec 5} {pat : Nat} (h : writeLane c ln d rt pat = .ok t)
    (hw : smWf 0 ln.regs = true) (hn : n ≠ ln.win.toNat + d) (hn' : n ≠ ln.win.toNat + d + 1) : getReg t n = getReg ln n := by
  unfold writeLane at h
  dsimp only at h
  split at h
  · cases h; rfl
  · split at h
    · cases h
      have e : ∀ (x : Lane) v, getReg (shiftLatches x v) n = getReg x n := fun _ _ => rfl
      rw [e]
      split
      · rw [getReg_setReg_other _ _ (smSet_wf _ _ hw) hn', getReg_setReg_other _ _ hw hn]
      · exact getReg_setReg_other _ _ hw hn
    · cases h

/-- A write of the uniform pipe changes uniform registers, and nothing else. -/
theorem writeUni_frame (g : Group) (slot : Nat) (rt : BitVec 5) (pat : Nat) :
    writeUni g slot rt pat = { g with uregs := (writeUni g slot rt pat).uregs } := by
  unfold writeUni
  dsimp only
  split <;> rfl

/-- A compare changes predicates, and nothing else. -/
theorem writePair_frame (ln : Lane) (q q' cmb : Nat) (active c : Bool) :
    writePair ln q q' cmb active c = { ln with preds := (writePair ln q q' cmb active c).preds } := rfl

/-- A compare of the group changes its predicates, and nothing else. -/
theorem writeUniPair_frame (g : Group) (q q' cmb : Nat) (active c : Bool) :
    writeUniPair g q q' cmb active c = { g with qpreds := (writeUniPair g q q' cmb active c).qpreds } := rfl

/-- A predicate other than the one written keeps its value, and predicate 0 discards a write. -/
theorem setPred_other {n : Nat} (p : BitVec n) {q j : Nat} (v : Bool) (hj : j < n) (h : j ≠ q ∨ q = 0) :
    (setPred p q v).getLsbD j = p.getLsbD j := by
  unfold setPred
  split
  · rfl
  · have hq : j ≠ q := by omega
    have hb : (BitVec.ofNat n (2 ^ q)).getLsbD j = false := by
      rw [BitVec.getLsbD_ofNat, Nat.testBit_two_pow_of_ne (Ne.symm hq), Bool.and_false]
    split
    · rw [BitVec.getLsbD_or, hb, Bool.or_false]
    · rw [BitVec.getLsbD_and, BitVec.getLsbD_not, hb, decide_eq_true hj, Bool.not_false, Bool.and_true, Bool.and_true]

/-- The predicate written holds the value. -/
theorem setPred_same {n : Nat} (p : BitVec n) {q : Nat} (v : Bool) (hq : q < n) (h : q ≠ 0) : (setPred p q v).getLsbD q = v := by
  unfold setPred
  rw [if_neg h]
  have hb : (BitVec.ofNat n (2 ^ q)).getLsbD q = true := by
    rw [BitVec.getLsbD_ofNat, Nat.testBit_two_pow_self, decide_eq_true hq, Bool.and_true]
  cases v
  · rw [if_neg Bool.false_ne_true, BitVec.getLsbD_and, BitVec.getLsbD_not, hb, Bool.not_true, Bool.and_false, Bool.and_false]
  · rw [if_pos rfl, BitVec.getLsbD_or, hb, Bool.or_true]

end Sys2Proof.Machine
end

