-- ==== Sys2Proof/Laws/Step.lean ====
section
/-!
SUPPORT. Everything that a step can do, and the induction over a run, once for all invariants.
-/
namespace Sys2Proof

open Sys2Proof.Machine

/-- An issue that a schedule names, or the first ready sequencer's when no schedule is left. -/
def Machine.IssuesIn (s : State) (p : Plan) : Prop :=
  (∃ core seq wait defer rest, s.agenda = .issue core seq wait defer :: rest ∧
    p = planIssue { s with agenda := rest } core seq wait defer) ∨
  ∃ q, s.agenda = [] ∧ defaultSequencer s = some q ∧ p = planIssue s (q / 4) (q % 4) 1 false

/-- A step that answers a next state is a step of another agent, an error of DRAM, an issue that runs an instruction and counts it, an issue
that walks a gate, or a cycle in which nothing is ready. -/
theorem Machine.step_cases {s t : State} (h : step s = .next t) :
    (∃ i rest, s.agenda = .event i :: rest ∧ exec i { s with agenda := rest, cur := none } = .next t) ∨
    (∃ part va parity rest, s.agenda = .dramError part va parity :: rest ∧ t = markBad { s with agenda := rest } part va parity) ∨
    (∃ i u v, IssuesIn s (.run i u) ∧ exec i u = .next v ∧ t = countIssue i u v) ∨
    IssuesIn s (.done t) ∨
    (s.agenda = [] ∧ defaultSequencer s = none ∧ t = { s with cycle := s.cycle + 1 }) := by
  have plan : ∀ p, IssuesIn s p → finishPlan p = .next t →
      (∃ i u v, IssuesIn s (.run i u) ∧ exec i u = .next v ∧ t = countIssue i u v) ∨ IssuesIn s (.done t) := by
    intro p hp hf
    cases p with
    | idle => cases hf
    | done u => cases hf; exact .inr hp
    | run i u =>
      cases hx : exec i u with
      | next v => simp only [finishPlan, hx] at hf; exact .inl ⟨i, u, v, hp, hx, (Host.Outcome.next.inj hf).symm⟩
      | fault f => simp [finishPlan, hx] at hf
      | refused r => simp [finishPlan, hx] at hf
    | broken => cases hf
  unfold step at h
  split at h
  · rename_i turn rest ha
    cases turn with
    | event i => exact .inl ⟨i, rest, ha, h⟩
    | dramError part va parity => exact .inr (.inl ⟨part, va, parity, rest, ha, (Host.Outcome.next.inj h).symm⟩)
    | issue core seq wait defer =>
      rcases plan _ (.inl ⟨core, seq, wait, defer, rest, ha, rfl⟩) h with h | h
      · exact .inr (.inr (.inl h))
      · exact .inr (.inr (.inr (.inl h)))
  · rename_i ha
    split at h
    · rename_i q hq
      rcases plan _ (.inr ⟨q, ha, hq, rfl⟩) h with h | h
      · exact .inr (.inr (.inl h))
      · exact .inr (.inr (.inr (.inl h)))
    · rename_i hd; exact .inr (.inr (.inr (.inr ⟨ha, hd, (Host.Outcome.next.inj h).symm⟩)))

/-- What every step keeps holds along a run. -/
theorem RunsTo.keeps {P : State → Prop} (step : ∀ s t, StepsTo s t → P s → P t) {s t : State} (h : RunsTo s t) (hs : P s) : P t := by
  induction h with
  | done => exact hs
  | more hst _ ih => exact ih (step _ _ hst hs)

/-- What holds after reset, under every schedule, and is kept by every step holds of every reachable state. -/
theorem Reachable.keeps {P : State → Prop} (step : ∀ s t, StepsTo s t → P s → P t)
    (reset : ∀ agenda, P { State.reset with agenda := agenda }) {s : State} (h : Reachable s) : P s := by
  obtain ⟨agenda, hr⟩ := h
  exact hr.keeps step (reset agenda)

end Sys2Proof
end

