-- ==== Sys2Proof/Tests/Slice0.lean ====
section
/-!
SUPPORT. Tests: words of the spec's encoding tables and examples decode to their instructions; well-formedness refuses an
ill-formed term for each of its checks; single steps of instructions against values that the spec states or that were worked
out by hand from it; and for each statement a state and operands that meet its hypotheses together.
-/
namespace Sys2Proof.Tests

open Sys2Proof Sys2Proof.Machine Sys2Proof.Claims

set_option Elab.async false

/-- No prefixes. -/
def bare : Mods := Mods.none

/-- `EXT` with a type. -/
def typed (t : BitVec 5) : Mods := { Mods.none with ext := some { Ext.zero with ty := t } }

/-- `EXT` with a type and a `MOD`. -/
def moded (t md : BitVec 5) : Mods := { Mods.none with ext := some { Ext.zero with ty := t, md := md } }

/-- `EXT` with a guard. -/
def guarded (p : BitVec 4) (n : Bool) : Mods := { Mods.none with ext := some { Ext.zero with ge := true, gn := n, gp := p } }

/-! ### Decoding: words written out from the encodings of spec/03 and of the class chapters -/

theorem test_decode_br : (decode [0x01000005]).result = .ok (.br 5) := by rfl

theorem test_decode_brc : (decode [0x02030102]).result = .ok (.brc 3 1 2) := by rfl

theorem test_decode_brl : (decode [0x04070503]).result = .ok (.brl 7 5 3) := by rfl

theorem test_decode_exit : (decode [0x05000000]).result = .ok (.exit) := by rfl

theorem test_decode_gend : (decode [0x06000000]).result = .ok (.gend) := by rfl

theorem test_decode_uwin : (decode [0x0A000030]).result = .ok (.uwin 48 bare) := by rfl

theorem test_decode_ill : (decode [0x00000000]).result = .ok (.ill [] 0) := by rfl

theorem test_decode_ill_ff : (decode [0xFFFFFFFF]).result = .ok (.illFf [] 0xFFFFFF) := by rfl

theorem test_decode_unassigned : (decode [0x0E000000]).result = .ok (.unassignedOpcode [] 0x0E000000) := by rfl

theorem test_decode_str : (decode [0xFB14A000]).result = .ok (.str 5 10) := by rfl

theorem test_decode_add : (decode [0x10030405]).result = .ok (.add 3 4 5 bare) := by rfl

theorem test_decode_add_s32_typed : (decode [0xF90000A0, 0x10030405]).result = .ok (.add 3 4 5 (typed 5)) := by rfl

theorem test_decode_add_rep : (decode [0xF8095000, 0x10030405]).result = .ok (.add 3 4 5 { Mods.none with rep := some { cnt := 2, dStep := 1, aStep := 1, bStep := 1 } }) := by rfl

theorem test_decode_movi_limm : (decode [0xFA001234, 0x28055678]).result = .ok (.movi 5 0x5678 { Mods.none with limm := some 0x1234 }) := by rfl

theorem test_decode_shfl : (decode [0x32040203]).result = .ok (.shfl 4 2 3 bare) := by rfl

theorem test_decode_ffma : (decode [0x43040102]).result = .ok (.ffma 4 1 2 bare) := by rfl

theorem test_decode_fcmp_lt : (decode [0x4A020103]).result = .ok (.fcmpLt 0 2 1 3 bare) := by rfl

theorem test_decode_fcmp_ne_andor : (decode [0x49C20103]).result = .ok (.fcmpNe 6 2 1 3 bare) := by rfl

theorem test_decode_hcmp2_gt : (decode [0x5E040102]).result = .ok (.hcmp2Gt 0 4 1 2 bare) := by rfl

theorem test_decode_bmm8 : (decode [0x60060204]).result = .ok (.bmm8 6 2 4 bare) := by rfl

theorem test_decode_bperm : (decode [0x64040201]).result = .ok (.bperm 4 2 1 bare) := by rfl

theorem test_decode_uadd : (decode [0x80050607]).result = .ok (.uadd 5 6 7 bare) := by rfl

theorem test_decode_ucmp_ge : (decode [0x8F2304D1]).result = .ok (.ucmpGe 1 3 4 0xD1 bare) := by rfl

theorem test_decode_ld : (decode [0xA00403D2]).result = .ok (.ld 4 3 0xD2 bare) := by rfl

theorem test_decode_waitb : (decode [0xAB00D100]).result = .ok (.waitb 0xD1 bare) := by rfl

theorem test_decode_baraw : (decode [0xBF038200]).result = .ok (.baraw 3 0x82 bare) := by rfl

theorem test_decode_barw : (decode [0xBE038200]).result = .ok (.barw 3 0x82 bare) := by rfl

theorem test_decode_bara_clus : (decode [0xF9010000, 0xBD018400]).result = .ok (.bara 1 0x84 { Mods.none with ext := some { Ext.zero with scope := 2 } }) := by rfl

theorem test_decode_gath : (decode [0xF9000200, 0xC00402D3]).result = .ok (.gath 4 2 0xD3 (typed 16)) := by rfl

theorem test_decode_accz : (decode [0xCC030000]).result = .ok (.accz 3 bare) := by rfl

theorem test_decode_gload : (decode [0xD00280D3]).result = .ok (.gload 2 0x80 0xD3 bare) := by rfl

theorem test_decode_lfree : (decode [0xD40000D3]).result = .ok (.lfree 0xD3 bare) := by rfl

theorem test_decode_sysrd : (decode [0xD8042000]).result = .ok (.sysrd 4 0x20 bare) := by rfl

theorem test_decode_rtrap : (decode [0xDA020100]).result = .ok (.rtrap 2 1 bare) := by rfl

theorem test_decode_park : (decode [0xE0001234]).result = .ok (.park 0x1234 bare) := by rfl

theorem test_decode_refuses_reserved_bit_of_rep : (decode [0xF8095001, 0x10030405]).result = .error .illegalOperand := by rfl

theorem test_decode_refuses_prefixes_out_of_order : (decode [0xF9000000, 0xF8095000, 0x10030405]).result = .error .illegalInstruction := by rfl

theorem test_decode_refuses_limm_before_add : (decode [0xFA000000, 0x10030405]).result = .error .illegalInstruction := by rfl

theorem test_decode_refuses_rep_before_barrier : (decode [0xF8095000, 0xBF038200]).result = .error .illegalInstruction := by rfl

theorem test_decode_refuses_ext_before_terminator : (decode [0xF9000000, 0x05000000]).result = .error .illegalInstruction := by rfl

theorem test_decode_refuses_reserved_bit_of_br : (decode [0x01010005]).result = .error .illegalOperand := by rfl

theorem test_decode_refuses_words_run_out : (decode [0xF9000000]).result = .error .illegalInstruction := by rfl

theorem test_decode_refuses_str_block_63 : (decode [0xFBFC0000]).result = .error .illegalInstruction := by rfl

/-! ### Well-formedness refuses an ill-formed term for each check -/

theorem wf_accepts : (Instr.add 3 4 5 bare).wf = true ∧ (Instr.movi 5 0 { bare with limm := some 1 }).wf = true ∧
    (Instr.setshape 4 0 0x94 0xBD bare).wf = true := by decide +kernel

theorem wf_refuses_blocks_and_prefix_words :
    (Instr.str 63 0).encodable = false ∧ (Instr.ill [0x10030405] 0).encodable = false ∧
      (Instr.illFf (List.replicate 5 0xF9000000) 0).encodable = false ∧ (Instr.unassignedOpcode [] 0x10000000).encodable = false := by
  decide +kernel

theorem wf_refuses_prefixes : (Instr.add 3 4 5 { bare with limm := some 0 }).encodable = false ∧
    (Instr.baraw 3 0x82 { bare with rep := some { cnt := 1, dStep := 0, aStep := 0, bStep := 0 } }).encodable = false := by
  decide +kernel

theorem wf_refuses_steps_of_other_agents : (Instr.engineRun { core := 0, errors := [] }).encodable = false ∧ (Instr.bootRetry
    { version := 0, ecdsaOk := true, lmsOk := true, measure := 0, loaderMeasure := 0 }).encodable = false := by decide +kernel

theorem wf_refuses_types : (Instr.add 3 4 5 (typed 16)).wf = false ∧ (Instr.fadd 3 4 5 (typed 6)).wf = false ∧
    (Instr.setshape 4 0 0xD0 0xD0 (typed 16)).wf = false := by decide +kernel

theorem wf_refuses_modifiers :
    (Instr.add 3 4 5 { bare with ext := some { Ext.zero with scope := 1 } }).wf = false ∧
    (Instr.add 3 4 5 { bare with ext := some { Ext.zero with vol := true } }).wf = false ∧
    (Instr.add 3 4 5 { bare with ext := some { Ext.zero with rnd := 1 } }).wf = false ∧
    (Instr.fadd 3 4 5 { bare with ext := some { Ext.zero with rnd := 5 } }).wf = false ∧
    (Instr.and 3 4 5 { bare with ext := some { Ext.zero with sat := true } }).wf = false ∧
    (Instr.add 3 4 5 (moded 0 1)).wf = false := by decide +kernel

theorem wf_refuses_guards : (Instr.sel 3 4 5 { bare with ext := some { Ext.zero with gn := true } }).wf = false ∧
    (Instr.uadd 3 0x81 0x82 (guarded 8 false)).wf = false := by decide +kernel

theorem wf_refuses_destinations : (Instr.add 0x81 4 5 bare).wf = false ∧ (Instr.add 3 4 6 (typed 7)).wf = false ∧
    (Instr.ld 0x80 3 0xD2 bare).wf = false ∧ (Instr.hcmp2Eq 0 5 1 2 bare).wf = false ∧ (Instr.uadd 48 0x81 0x82 bare).wf = false ∧
    (Instr.pref 3 4 0xD2 bare).wf = false ∧ (Instr.ucmpEq 0 8 0x81 0x82 bare).wf = false := by decide +kernel

theorem wf_refuses_operands : (Instr.add 3 0xCC 5 bare).wf = false ∧ (Instr.uadd 3 5 0x82 bare).wf = false ∧
    (Instr.gstat 3 5 bare).wf = false ∧ (Instr.cpy 0xD0 0x85 0xD3 bare).wf = false ∧ (Instr.sysrd 3 0x30 bare).wf = false ∧
    (Instr.tlbinv 0 0xD1 bare).wf = false ∧ (Instr.add 4 5 6 (typed 7)).wf = false := by decide +kernel

theorem wf_refuses_immediates : (Instr.movi 5 0 { typed 16 with limm := some 0x10000 }).wf = false ∧
    (Instr.movi 5 0 { typed 18 with limm := some 0 }).wf = false := by decide +kernel

theorem wf_refuses_repeats :
    (Instr.add 0x7F 4 5 { bare with rep := some { cnt := 1, dStep := 1, aStep := 0, bStep := 0 } }).wf = false ∧
    (Instr.add 3 0x7E 5 { bare with rep := some { cnt := 1, dStep := 1, aStep := 3, bStep := 0 } }).wf = false := by decide +kernel

theorem wf_refuses_single_instructions : (Instr.br 63).wf = false ∧ (Instr.win 33 bare).wf = false ∧ (Instr.uwin 49 bare).wf = false ∧
    (Instr.bara 8 0x82 { bare with ext := some { Ext.zero with scope := 2 } }).wf = false ∧
    (Instr.setshape 0 0 0xD0 0xD0 bare).wf = false ∧ (Instr.rtrap 3 0 bare).wf = false ∧ (Instr.brc 1 63 2).wf = false := by decide +kernel

/-! ### A small machine -/

/-- A resource entry: base, kind, format, `BND`, first dimension, and the rest as bits. -/
def entryBits (kind : Nat) (fmt : BitVec 5) (bnd dim0 base rest : Nat) : BitVec 512 :=
  BitVec.ofNat 512 (base * 2 ^ 64 + kind * 2 ^ 60 + fmt.toNat * 2 ^ 55 + bnd * 2 ^ 53 + dim0 * 2 ^ 128 + rest)

/-- The entries of the small machine. 0: linear `.f32`; 1: the same of one element, `BND` 1; 2: a tensor of 16 by 16; 3: a
work list; 4: linear `.n32`; 5: none; 6: read-only bytes; 7: one element, `BND` 0; 8: one element, `BND` 2; 9: 4,096 `.n32`; 10: one `.n32`;
11: a layer of one element over it; 12: none; 13: a handle of entry 2 with that layer. -/
def entries : List (BitVec 512) :=
  [entryBits 1 16 0 256 0x2000 0, entryBits 1 16 1 1 0x2000 0, entryBits 2 16 0 16 0x2000 (16 * 2 ^ 160 + 64 * 2 ^ 256 + 2 ^ 42),
   entryBits 6 6 0 2048 0x4000 (0x3000 * 2 ^ 448), entryBits 1 6 0 64 0x2800 0, 0, entryBits 1 10 0 4096 0x2000 (2 ^ 52),
   entryBits 1 16 0 1 0x2000 0, entryBits 1 16 2 1 0x2000 0, entryBits 1 6 0 4096 0x8000 0, entryBits 1 6 0 1 0x2C00 0,
   entryBits 4 16 0 1 0x2D00 (10 * 2 ^ 448), 0,
   entryBits 3 16 0 16 0x200002000 (16 * 2 ^ 160 + 64 * 2 ^ 256 + 2 ^ 42 + 2 ^ 52 + 0x3940 * 2 ^ 448)]

/-- Memory: the tables of page 0 of partition 0, the resource table at 0x1000, the record of the handle at 0x3940. -/
def memory : List Host.Cell :=
  [(2097152, 2), (2097159, 128), (4194304, 3), (4194311, 128), (6291456, 4), (6291463, 128), (8388608, 5), (8388615, 192),
   (10489863, 24), (10489865, 32), (10489873, 1), (10489926, 32), (10489927, 24), (10489929, 32), (10489936, 1), (10489989, 4),
   (10489991, 40), (10489993, 32), (10490000, 16), (10490004, 16), (10490016, 64), (10490055, 99), (10490057, 64), (10490065, 8),
   (10490105, 48), (10490119, 19), (10490121, 40), (10490128, 64), (10490246, 16), (10490247, 21), (10490249, 32), (10490257, 16),
   (10490311, 24), (10490313, 32), (10490320, 1), (10490374, 64), (10490375, 24), (10490377, 32), (10490384, 1), (10490439, 19),
   (10490441, 128), (10490449, 16), (10490503, 19), (10490505, 44), (10490512, 1), (10490567, 72), (10490569, 45), (10490576, 1),
   (10490616, 10), (10490693, 4), (10490694, 16), (10490695, 56), (10490697, 32), (10490700, 2), (10490704, 16), (10490708, 16),
   (10490720, 64), (10490744, 64), (10490745, 57), (10500448, 1), (10500452, 11), (10500468, 2), (10500470, 13), (10500473, 32),
   (10500476, 2)]

/-- A kernel of four blocks that do nothing. -/
def kern : Kernel :=
  { modId := 1, gateTable := 0x7000, codeBase := 0x6000, entry := 0, nreg := 128, nureg := 384, nacc := 8, crew := 1
    scratch := 4096, canon := List.replicate 4 [0x05000000] }

/-- The partition. -/
def part : Partition :=
  { fetchPartition with
    regs := { fetchPartition.regs with rtbase := 0x1000, rtcnt := 14, hbase := 0x3900, vwbase := 0x200000000, fzbase := 0x3800, fqbase := 0x100000 }
    kernels := [(1, kern)], modules := [(1, { name := 5, version := 1, dropped := [], spans := [] })], highest := [(5, 1)] }

/-- The walk, inside a strand run of block 0. -/
def walk0 : Run :=
  { kern := 1, mask := 1, base := 0x6000, len := 7, pos := 1, strand := some { blk := 0, left := 5 }, offs := [], rpt := 0
    replay := none }

/-- The shape of `z1`: `.bf16`, 16 by 16 by 32. -/
def shape1 : BitVec 128 := shapeBits (granted 18 16 16 32)

/-- Uniform registers: slots 0 to 15 hold their numbers; behind them the descriptors of the instructions that take one. -/
def uregs : SMap Word :=
  (List.range 15).map (fun j => (j + 1, BitVec.ofNat 32 (j + 1))) ++
    [(16, 0x01000000), (17, 128), (18, 128), (22, 4), (23, 0x400004), (25, 64), (26, 1), (27, 0x50201)]

/-- A group of 32 lanes in block 0: registers of zero, latches that hold 1. -/
def grp : Group :=
  { fetchGroup 0 with
    nreg := 128, nacc := 8, crew := 7, uregs := uregs, shapes := [(1, shape1)], rowm := [(1, 0xFFFF)], colm := [(1, 0xFFFF)]
    lanes := laneIxs.map fun _ => { laneInit 0 with lat0 := some 1, lat1 := some 1, lat2 := some 1, lat3 := some 1 }
    ctl := .run walk0 }

/-- Its crew. -/
def crew7 : Crew :=
  { launch := 3, index := 0, part := 0, core := some 0, slots := [0], die := 0, size := 1, live := 1, set := 0, stamp := 0, bars := []
    scratch := [], saved := [], areas := [] }

/-- The state in which the group issues an instruction. -/
def st : State :=
  { State.reset with cur := some 0, groups := [(0, grp)], parts := [(0, part)], crews := [(7, crew7)], mem := memory }

theorem witness_issues : Issues st 0 grp walk0 := ⟨by rfl, by decide +kernel⟩

/-! ### Lane instructions meet their hypotheses -/

/-- The hypotheses of a lane instruction hold in `st`, with every lane in E. -/
def laneMeets (i : Instr) (ok : Ctx → Bool) : Bool :=
  legal i && setE grp i == 0xFFFFFFFF && laneIxs.all fun l => namesInside (ctx st 0 grp walk0 i l) && ok (ctx st 0 grp walk0 i l)

/-- The same for an instruction with a result. -/
def resultMeets (i : Instr) (rt : BitVec 5) (value : Ctx → Option Nat) : Bool :=
  laneMeets i fun c => destInside c c.d rt && (value c).isSome

theorem witness_integer_arithmetic :
    resultMeets (.add 3 4 5 bare) 5 (ofInts true fun _ x y => x + y) = true ∧
    resultMeets (.sub 3 4 0xC0 (typed 7)) 7 (ofInts true fun _ x y => x - y) = false ∧
    resultMeets (.sub 4 2 0xC0 (typed 7)) 7 (ofInts true fun _ x y => x - y) = true ∧
    resultMeets (.mulh 0x80 4 0xD1 (typed 6)) 6 (ofInts false fun c x y => x * y / 2 ^ tyBits c.ty) = true ∧
    resultMeets (.mad 3 4 5 bare) 5 (fun c => do
      let x ← intOf c c.a
      let y ← intOf c c.b
      let z ← addend c (tyBits c.ty)
      some (fitted c.ty (extOf c.i).sat (x * y + intVal c.ty z))) = true ∧
    resultMeets (.abs 3 4 (typed 1)) 1 (ofInt fun x => max x (-x)) = true := by decide +kernel

theorem witness_logic_and_shifts :
    resultMeets (.and 3 4 5 bare) 5 (ofPatterns fun _ x y => x &&& y) = true ∧
    resultMeets (.not 3 4 bare) 5 (ofPattern fun w x => 2 ^ w - 1 - x) = true ∧
    resultMeets (.sar 3 4 0x9F bare) 5 (ofShift fun w x n => arithShift w x (min n (w - 1))) = true ∧
    resultMeets (.clz 3 4 bare) 6 (ofPattern fun w x => w - bitLen x) = true ∧
    resultMeets (.addw 4 6 5 bare) (doubleType 5) (atDouble fun x y => x + y) = true := by decide +kernel

theorem witness_moves_and_selection :
    resultMeets (.mov 3 0xC3 bare) 5 (fun c => val c c.a c.ty) = true ∧
    resultMeets (.movi 3 7 bare) 5 (fun c => some (immediate c.i 7)) = true ∧
    resultMeets (.sel 3 4 5 bare) 5 (fun c => val c (if selects c then c.a else c.b) c.ty) = true ∧
    resultMeets (.rget 3 0x9F bare) 5 (fun c => if numbered c then some (regAt c.ln (readUniN32 c c.a) (tyBits c.ty)) else none) = true ∧
    laneMeets (.rput 0x85 4 bare) (fun c => numbered c && (val c c.b c.ty).isSome) = true := by decide +kernel

theorem witness_compares :
    laneMeets (.icmpLt 1 14 4 5 bare) (fun c => (onInts (fun x y => decide (x < y)) c).isSome) = true ∧
    laneMeets (.fcmpNe 6 0 4 5 bare) (fun c => (onFloats (fun o => o != some .eq) c).isSome) = true ∧
    laneMeets (.hcmp2Ge 7 12 4 5 bare) (fun c => (onHalves (fun o => o == some .gt || o == some .eq) c).isSome) = true := by decide +kernel

theorem witness_float_arithmetic :
    resultMeets (.fadd 3 4 5 bare) 16 (ofFloats fun r x y => fAdd r x y) = true ∧
    resultMeets (.ffma 0x80 4 5 bare) 16 (fun c => do
      let x ← fltOf c c.a
      let y ← fltOf c c.b
      let z ← addend c (tyBits c.ty)
      some (rounded c c.ty (fused (mode c) x y (fval (formatOf c.ty) z)))) = true ∧
    resultMeets (.fmin 3 4 5 bare) 16 (lesserOf false) = true ∧
    resultMeets (.fneg 3 4 bare) 16 (ofPattern fun w x => x ^^^ 2 ^ (w - 1)) = true ∧
    resultMeets (.hadd2 3 4 5 bare) 6 (ofHalves fun r x y => fAdd r x y) = true := by decide +kernel

theorem witness_special_functions : resultMeets (.frcp 3 4 bare) 16 (fun c => val c c.a c.ty) = true ∧
    resultMeets (.ftanh 3 4 (typed 17)) 17 (fun c => val c c.a c.ty) = true ∧
    tyIsBlock (typeOf (.fcvt 3 4 (moded 17 16))) = false ∧
    resultMeets (.fcvt 3 4 (moded 17 16)) 17 (fun c => (converted c).map (convertTo c.ty (mode c) (extOf c.i).sat)) = true := by
  decide +kernel

theorem witness_bits :
    resultMeets (.bmm8 6 2 4 bare) 8 (fun c => do
      let x ← val c c.a 8
      let y ← val c c.b 8
      some (bitProduct (fun p q => p ^^^ q) x y)) = true ∧
    resultMeets (.bsprd 6 2 4 bare) 6 (fun c => do
      let x ← val c c.a 6
      let y ← val c c.b 6
      some (bitSpread x y)) = true ∧
    resultMeets (.bperm 4 2 3 bare) 8 (fun c => do
      let x ← val c c.a 8
      some (bitPermute (smGet identityTable c.g.pms c.b) x)) = true := by decide +kernel

/-- The hypotheses of a cross-lane instruction hold in `st`, with every lane in E. -/
def crossMeets {α β : Type} (i : Instr) (rt : BitVec 5) (lead : Ctx → Option β) (read : Ctx → Option α) : Bool :=
  legal i && setE grp i == 0xFFFFFFFF && (lead (ctx st 0 grp walk0 i 0)).isSome
    && laneIxs.all fun l => destInside (ctx st 0 grp walk0 i l) (ctx st 0 grp walk0 i l).d rt && (read (ctx st 0 grp walk0 i l)).isSome

theorem witness_cross_lane :
    crossMeets (.shfl 3 4 5 bare) 5 noOperand valueAndN32 = true ∧ crossMeets (.vote 3 4 bare) 6 noOperand valueA = true ∧
    crossMeets (.rdlane 3 4 0x9F bare) 6 (fun c => (val c c.b 6).bind fun j => if j < 32 then some j else none) valueA = true ∧
    crossMeets (.redadd 3 4 bare) 5 noOperand valueA = true ∧
    crossMeets (.sample 3 4 5 (typed 16)) 6 (fun c => val c c.b c.ty) valueA = true ∧
    crossMeets (.segsum 3 4 5 bare) 5 noOperand (fun c => do
      let x ← val c c.a c.ty
      let key ← val c c.b 6
      some (x, key)) = true ∧
    tyIsBlock (typeOf (.fcvt 3 4 (moded 21 16))) = true ∧
    crossMeets (.fcvt 3 4 (moded 21 16)) 6 noOperand converted = true := by decide +kernel

/-! ### Uniform and control instructions meet theirs -/

theorem witness_uniform : selectedMask grp = 0xFFFFFFFF ∧ legal (.uadd 5 0xD1 0x82 bare) = true ∧ uniGuard grp Ext.zero = true ∧
    legal (.ucmpLt 0 1 0xD1 0x82 bare) = true ∧ legal (.bpld 1 0xD0 bare) = true ∧
    uniGuard grp (guardOf (.uadd 5 0xD1 0x82 (guarded 1 false))) = false := by decide +kernel

theorem witness_terminators : blockCount st grp walk0 = 4 ∧ legal (.br 3) = true ∧ legal (.brc 1 3 0) = true ∧
    legal (.brl 7 3 2) = true ∧ laneMeets (.brl 7 3 2) (fun c => destInside c c.d 6) = true ∧
    laneMeets (.brx 4) (fun c => match val c c.a 6 with | some j => decide (j = 63) || decide (j < 4) | none => false) = true := by
  decide +kernel

theorem witness_windows_and_hints : laneMeets (.win 96 bare) (fun c => decide ((96 : Nat) < c.g.nreg)) = true ∧
    laneMeets (.winOperand 0xBD bare)
      (fun c => match val c c.b 6 with | some x => decide (x % 32 = 0) && decide (x < c.g.nreg) | none => false) = true ∧
    legal (.uwin 336 bare) = true ∧ legal (.yield bare) = true ∧ readUni (uctx st 0 grp walk0 (.uwinOperand 0x80 bare)) 0x80 6 = 0 ∧
    legal (.uwinOperand 0x80 bare) = true := by decide +kernel

theorem witness_stops : grp.pass = none ∧ legal (.brk 7 bare) = true ∧ legal (.trap 0xFFFF bare) = true := by decide +kernel

/-! ### Instructions of the group as a whole meet theirs -/

/-- The hypotheses of an instruction of the group as a whole hold in a state whose slot 0 holds a group at `walk0`. -/
def Meets (s : State) (g : Group) (i : Instr) (uni : Bool) (ok : Ctx → Prop) : Prop :=
  Issues s 0 g walk0 ∧ legal i = true ∧ groupE g i uni ≠ 0 ∧ ok (gctx s 0 g walk0 i uni)

theorem ok_of {ε α : Type} {x : Except ε α} {v : α} (h : x.toOption = some v) : x = .ok v := by
  cases x with
  | ok a => exact congrArg Except.ok (Option.some.inj h)
  | error e => cases h

theorem error_of {ε α : Type} {x : Except ε α} {e : ε} (h : (match x with | .error c => some c | .ok _ => none) = some e) :
    x = .error e := by
  cases x with
  | ok a => cases h
  | error c => exact congrArg Except.error (Option.some.inj h)

/-- The entry of an index. -/
def raw (n : Nat) : BitVec 512 := entries.getD n 0

theorem witness_guards : selectedMask { grp with ctl := .run { walk0 with strand := some { blk := 1, left := 5 } } } = 0 ∧
    legal (.ld 4 3 0xD0 (guarded 1 false)) = true ∧ groupE grp (.ld 4 3 0xD0 (guarded 1 false)) false = 0 ∧
    groupE grp (.batch 5 (guarded 1 false)) true = 0 ∧ legal (.batch 5 (guarded 1 false)) = true := by and_intros <;> decide +kernel

theorem witness_prefetch_and_fence :
    Meets st grp (.pref 2 3 0xD0 bare) false (fun c => everyLane c fun x => (val x x.a 6).isSome) ∧
    Meets st grp (.fence bare) false (fun _ => True) := by unfold Meets Issues everyLane; dsimp only; and_intros <;> decide +kernel

/-- The access of a lane to an element of entry 0. -/
def accessOf (op : AccOp) (l : Nat) : Acc := accessTo l (namedFlat (entryOf (raw 0)) 0) op

/-- The hypotheses of an access of lanes hold. -/
def accessMeets (i : Instr) (kinds : List Nat) (write : Bool) (e : Nat) (named : Ctx → Entry → Option Named) (op : Ctx → Option AccOp) :
    Prop :=
  Meets st grp i false fun c => Checked c kinds (raw e) ∧ (entryOf (raw e)).gwe = false ∧ (write = true → Writable c (raw e)) ∧
    ∀ l < 32, (named (laneOf c l) (entryOf (raw e))).any (fun x => x.inside) = true ∧ (op (laneOf c l)).isSome = true

theorem witness_accesses_issue :
    accessMeets (.ld 4 3 0xD0 (typed 16)) [1, 2, 3] false 0 flatly (loading .load) ∧
    accessMeets (.st 4 3 0xD0 (typed 16)) [1, 2] true 0 flatly (storing .store) ∧
    accessMeets (.ldt 4 3 0xD2 (typed 16)) [2, 3] false 2 byCoords (loading .load) ∧
    accessMeets (.stt 4 3 0xD2 (typed 16)) [2] true 2 byCoords (storing .store) ∧
    accessMeets (.atom 4 3 0xD4 (moded 6 7)) [1, 2] true 4 (fun c e => (val c c.a 6).bind (atomNamed c e)) atomicOf ∧
    accessMeets (.gath 4 3 0xD0 (typed 16)) [1, 2, 3] false 0 flatly (loading .gather) ∧
    accessMeets (.scatadd 4 3 0xD4 (typed 6)) [1, 2] true 4 flatly (storing .addTo) := by
  unfold accessMeets Meets Issues Checked Writable; dsimp only; and_intros <;> first | decide +kernel | exact ok_of (by decide +kernel)

theorem witness_uniform_accesses :
    (Meets st grp (.uld 5 0x80 0xD0 (typed 16)) true fun c => Checked c [1, 2, 3] (raw 0) ∧
      (namedFlat (entryOf (raw 0)) (readUni c c.a 6)).inside = true) ∧
    (Meets st grp (.ust 5 0xB0 0xD9 bare) true fun c => resourceIndex c c.b = 9 ∧ resourceEntry st 0 9 = .ok (raw 9)) ∧
    (Meets st grp (.uatom 5 0x80 0xD4 (moded 6 10)) true fun c => Checked c [1, 2] (raw 4) ∧ Writable c (raw 4) ∧
      (atomNamed c (entryOf (raw 4)) (readUni c c.a 6)).any (fun x => x.inside) = true) := by
  unfold Meets Issues Checked Writable; dsimp only; and_intros <;> first | decide +kernel | exact ok_of (by decide +kernel)

/-- A lane access names an element out of bounds. -/
def outside (e : Nat) (c : Ctx) : Prop := Checked c [1, 2, 3] (raw e) ∧ (entryOf (raw e)).gwe = false ∧
  ∀ l < 32, (flatly (laneOf c l) (entryOf (raw e))).any (fun x => !x.inside) = true ∧ (loading .load (laneOf c l)).isSome = true

theorem witness_faulty_accesses :
    (Meets st grp (.ld 4 0x81 0xD7 (typed 16)) false fun c => outside 7 c ∧ (entryOf (raw 7)).bnd = 0) ∧
    (Meets st grp (.ld 4 0x81 0xD1 (typed 16)) false fun c => outside 1 c ∧ (entryOf (raw 1)).bnd = 1) ∧
    (Meets st grp (.ld 4 0x81 0xD8 (typed 16)) false fun c => outside 8 c ∧ (entryOf (raw 8)).bnd = 2) ∧
    (Meets st grp (.ld 4 3 0xD5 (typed 16)) false fun c => namedEntry st 0 (resourceIndex c c.b) [1, 2, 3] (some c.ty) = .error 0x87) ∧
    (Meets st grp (.ld 4 3 0xD3 (typed 16)) false fun c => namedEntry st 0 (resourceIndex c c.b) [1, 2, 3] (some c.ty) = .error 0x86) ∧
    (Meets st grp (.ld 4 3 0xD0 (typed 17)) false fun c => namedEntry st 0 (resourceIndex c c.b) [1, 2, 3] (some c.ty) = .error 0x88) ∧
    (Meets st grp (.ld 4 3 0xDE (typed 16)) false fun c => namedEntry st 0 (resourceIndex c c.b) [1, 2, 3] (some c.ty) = .error 0x84) := by
  unfold Meets Issues outside Checked; dsimp only; and_intros <;> first | decide +kernel | exact ok_of (by decide +kernel) | exact error_of (by decide +kernel)

/-! ### Open accesses -/

/-- A request of the group of slot 0, on an entry, with the accesses of its first two lanes. -/
def request (e : Nat) (op : AccOp) : Req :=
  { group := 0, part := 0, entry := raw e, res := BitVec.ofNat 32 e, ty := 16, trec := mkRec grp walk0 [] 0 0 0 {}, uniform := false
    sel := 0xFFFFFFFF, accs := [accessOf op 0, { accessOf op 1 with done := true }], orphan := false }

/-- The state with an open request. -/
def open_ (e : Nat) (op : AccOp) : State :=
  { st with cur := none, reqs := [(0, request e op)], nextReq := 1, groups := [(0, { grp with wait := .req 0 })] }

theorem witness_elements : peerWindowOf part 0x2000 = none ∧ writablePlace st 0 0x2000 = .ok (physKey 0 5 0x2000) ∧
    8 ≤ tyBits (entryOf (raw 0)).fmt ∧ tyBits 9 = 4 ∧ rawElement st 0 (entryOf (raw 4)) (coordsOf (entryOf (raw 4)) 3) = .ok 0 ∧
    (atomApply 7 6 0 1 2).2 = false ∧ (atomApply 0 6 0 1 2).2 = true ∧ tyIsInt 5 = true := by and_intros <;> first | decide +kernel | exact ok_of (by decide +kernel)

/-! ### Copies, lists, batches, work lists, barriers -/

/-- A pending copy of the group, a batch that holds it, complete or not. -/
def copyItem (d : CopyDesc) (x : ItemState) : Item :=
  { owner := 0, launch := 0, part := 0, core := 0, kind := .copy d, istate := x, trec := mkRec grp walk0 [] 0 0 0 {} }

/-- A copy of 2 by 2 elements of entry 0 into cluster scratch. -/
def copy4 (store : Bool) : CopyDesc :=
  { store := store, lin := true, entry := raw 0, res := 0, core := false, place := 0, off := 0, len := 24, rp := 16, mp := 16
    rows := 2, cols := 2, origin := [0], next := 0, drops := 0, dropElem := 0, reached := 0 }

/-- A list instruction with one entry. -/
def list1 : ListDesc :=
  { scatter := false, list := raw 4, data := raw 0, res := 0, core := false, place := 0, off := 0, len := 16, first := 0, width := 4
    rp := 64, todo := [0], drops := 0, dropElem := 0, reached := 0 }

/-- The state with an item. -/
def withOne (x : Item) : State := { st with items := [(0, x)], nextItem := 1 }

/-- The group with a closed batch. -/
def batched (complete : Bool) : Group :=
  { grp with bclose := 1, batches := [{ num := 1, items := [0], complete := complete, shown := false }] }

/-- The state of a group. -/
def ofGroup (g : Group) : State := { st with groups := [(0, g)] }

theorem witness_batches :
    (Meets st grp (.batch 5 bare) true fun c => c.g.bclose + 1 < 2 ^ 32 ∧ openBatches c.g < 16) ∧
    (Meets (ofGroup (batched true)) (batched true) (.waitb 0x81 bare) true fun c => c.r.replay = none ∧ waitNumber c ≤ c.g.bclose ∧
      ∀ b ∈ c.g.batches, b.num ≤ waitNumber c → batchClean c.s b = true) ∧
    (Meets (ofGroup (batched false)) (batched false) (.waitb 0x81 bare) true fun c => waitNumber c = 1 ∧
      (c.g.batches.filter fun b => b.num ≤ waitNumber c).any (fun b => !b.complete) = true) ∧
    batchFault (withOne (copyItem (copy4 false) (.stopped (mkRec grp walk0 [] 0 0x83 0 {}))))
      { num := 1, items := [0], complete := true, shown := false } ≠ none ∧
    groupOfUid (ofGroup (batched false)) 0 = some (0, batched false) := by
  unfold Meets Issues; dsimp only; and_intros <;> decide +kernel

/-- The list of entry 3, empty. -/
def emptyList : WList :=
  { hdr := 0x3000, base := 0x4000, cap := 2048, size := 4, head := 0, tail := 0, bmap := 0, bmapn := 0, bound := false, raw := 0 }

theorem witness_barriers : (Meets st grp (.baraw 3 0x81 bare) true barrierOk) ∧ (Meets st grp (.bara 15 0x81 bare) true barrierOk) ∧
    (Meets st grp (.barw 7 0x81 { bare with ext := some { Ext.zero with scope := 2 } }) true barrierOk) := by
  unfold Meets Issues barrierOk; dsimp only; and_intros <;> decide +kernel

/-! ### The matrix engine -/

/-- A dense product on tile 0 with fragments of zeros, its operands taken, at run `r`. -/
def product (r : Nat) : EngOp :=
  { group := 0, sel := 0xFFFFFFFF, kern := 1, cycle := 7, cls := 3
    kind := .mma false 18 0 16 16 32 (.frag (List.replicate 1024 0)) (.frag (List.replicate 1024 0)), rowm := 0xFFFF, colm := 0xFFFF
    run := r, extents := [], frags := [], since := 0, owned := some (List.replicate 1024 0, List.replicate 1024 0), lost := [], trec := mkRec grp walk0 [] 0 0 0 {} }

/-- The state with the product in the queue of core 0. -/
def engine (r : Nat) : State := { st with cur := none, engines := [(0, [product r])] }

theorem witness_shapes : (Meets st grp (.setshape 4 1 0x90 0xD4 bare) true fun c => readUni c c.a 6 ≠ 0 ∧ readUni c c.b 6 ≠ 0) ∧
    (Meets st grp (.getshape 5 1 0 bare) true fun _ => True) := by unfold Meets Issues; dsimp only; and_intros <;> decide +kernel

/-- A group whose `z1` is of a block format and whose tile 4 holds a partial result of it. -/
def blocks : Group :=
  { grp with shapes := [(1, shapeBits (granted 21 16 16 32))], tiles := [(4, { Tile.zero with xfmt := 21 })] }

theorem witness_matrix_instructions :
    (Meets st grp (.mma 1 7 8 0xE8 bare) true fun c => shapeFits c 1 ∧ tilesBusy c.s c.k (2 ^ 7) = false ∧
      (captureOperand c c.a (shapeA false c.ty 16 32)).isSome = true ∧ (captureOperand c c.b (shapeB c.ty 16 32)).isSome = true) ∧
    (Meets st grp (.accz 7 bare) true fun c => (7 : Nat) < c.g.nacc ∧ tilesBusy c.s c.k (2 ^ 7) = false) ∧
    (Meets (ofGroup blocks) blocks (.mmabx 1 4 8 0xE8 (typed 21)) true fun c => shapeFits c 1 ∧ (4 + 3 : Nat) < c.g.nacc ∧
      (captureOperand c c.a (shapeBlocks c.ty 16)).isSome = true ∧ (captureOperand c c.b (shapeBlocks c.ty 16)).isSome = true) ∧
    (Meets (ofGroup blocks) blocks (.scacc 1 0 4 bare) true fun c => (shapeReg c.g 1).v = true ∧ (4 + 3 : Nat) < c.g.nacc ∧
      tilesBusy c.s c.k (2 ^ 0 ||| 15 * 2 ^ 4) = false ∧ tyIsBlock (tileOf c.g 4).xfmt = true) := by
  unfold Meets Issues shapeFits; dsimp only; and_intros <;> decide +kernel

theorem witness_engine : (∀ r ∈ [0, 3], engineChoice (engine r) (smGet [] (engine r).engines 0) = some (0, product r)) ∧
    smFind (engine 0).groups (product 0).group = some grp ∧ (List.replicate 1024 (0 : Byte)).length = 16 * rowBytes 18 32 ∧
    smWf 0 (tileOf grp 0).elems = true := by and_intros <;> decide +kernel

/-! ### Groomers and handles -/

/-- The state in which 0x8000 holds a descriptor of one row and one phase: slot 0, stream entry 0, no output. -/
def described : State := { st with mem := memSet memory (physKey 0 5 0x8008) 1 }

/-- The phase of that descriptor. -/
def phase0 : Phase := { slot := 0, s0 := raw 0, s0ix := 0, s1 := none, s1ix := 0, out := none, outIx := 0 }

/-- A running job of two rows at channel 0, a fold of the handle when `fold`. -/
def job2 (fold : Bool) : Item :=
  { owner := 0, launch := 0, part := 0, core := 0, istate := .running, trec := mkRec grp walk0 [] 0 0 0 {}
    kind := .job { newJob [if fold then { phase0 with s0 := raw 13, s0ix := 13, out := some (raw 2), outIx := 2 } else phase0] 0 2
        (if fold then some (raw 13) else none) with
      chans := [(0, { rows := [0, 1], phase := 0, acc := [], prev := [], images := [0], suspended := false, stopped := false, counted := false })] } }

/-! ### System instructions, handlers, launches -/

/-- What a handler pass holds for a lane. -/
def passLane (l : Nat) : PassLane :=
  { trec := mkRec grp walk0 [0x10030405] l 0x02 0 {}, orig := mkRec grp walk0 [0x10030405] l 0x02 0 {}, disp := .finish, edited := false, blk := 0, off := 0, rpt := 0 }

/-- A group in a handler pass of all its lanes. -/
def passing (fault : Bool) : Group :=
  { grp with pass := some { fault := fault, mask := 0xFFFFFFFF, handler := 1, waits := [], uwin := 0, qpreds := 1
                            lanes := laneIxs.map fun l => (l, passLane l) } }

/-- A group of which lane 0 alone stands in block 0. -/
def lone : Group := { passing true with lanes := laneIxs.map fun l => laneInit (if l = 0 then 0 else 63) }

theorem witness_system_registers : resultMeets (.sysrd 4 0x06 bare) 6 (fun c => sysValue c 0x06) = true ∧
    resultMeets (.sysrd 4 0x14 bare) (sysType 0x14) (fun c => sysValue c 0x14) = true ∧
    laneMeets (.syswr 0 4 bare) (fun c => (val c 4 (sysType 0)).isSome) = true := by decide +kernel

theorem witness_handlers : issuing (ofGroup (passing true)) = some (0, passing true, walk0) ∧ passTrapped (passing true) = 0 ∧
    (∀ x ∈ ((passing true).pass.map fun p => p.lanes).getD [], endsBlock x.2.trec = false ∧ x.2.edited = false) ∧
    legal (.rtrap 1 0 bare) = true ∧ legal (.rtrap 2 0x82 bare) = true ∧ legal (.rflt bare) = true ∧ legal (.park 9 bare) = true ∧
    faultedBlocks (ctx (ofGroup (passing true)) 0 (passing true) walk0 (.rtrap 2 0x82 bare) 0) (mkRec grp walk0 [0x10030405] 0 2 0 {}) = 4 := by
  and_intros <;> decide +kernel

theorem witness_mapped (c : Ctx) (h : lanesOf c.e = [0]) : ∃ x got, mapsPages c 0 x got := by
  obtain ⟨s, hs⟩ : ∃ s, s = atHome c (mapTouches c 0) := ⟨_, rfl⟩
  refine ⟨fun j => if j = 0 then s else (mapPage s c.g.part (coreOfKey c.k) (regValue (getLane c.g 0) c.a 64) false false false).1,
    fun _ => (mapPage s c.g.part (coreOfKey c.k) (regValue (getLane c.g 0) c.a 64) false false false).2, hs, fun j l hl => ?_⟩
  rw [h] at hl
  match j, hl with
  | 0, hl => cases hl; rfl

/-- A valid record: kernel 1, one crew. -/
def record1 : BitVec 1024 := BitVec.ofNat 1024 (2 ^ 64 + 2 ^ 128)

/-- A launch of it. -/
def launch1 (x : LaunchState) : Launch := { newLaunch 0 64 record1 with lstate := x }

/-- The state with a launch of the device pool, and no crew. -/
def launching (x : LaunchState) : State :=
  { st with groups := [], crews := [], launches := [(3, launch1 x)], parts := [(0, { part with pool := [3] })] }

/-- A bound chair of the list of entry 3. -/
def chair1 : Chair :=
  { entry := raw 3, header := 0x3000, period := 5, limit := 2, cid := 0, expired := true, resident := 0, started := 0, bound := true }

theorem witness_chairs : chairDue chair1 1 = true ∧ chairDue { chair1 with expired := false } 1 = false ∧
    chairDue { chair1 with expired := false } 32 = true := by decide +kernel

/-- A group between gates whose lane 3 awaits its replay. -/
def replaying : Group :=
  { grp with ctl := .between, lanes := laneIxs.map fun l => { laneInit 0 with off := if l = 3 then 1 else 0, hold := if l = 3 then .replay else .free } }

/-- A group between gates whose lane 3 holds a record: of a fault, or of a trap. -/
def recorded (fault : Bool) : Group :=
  { grp with ctl := .between, trapvec := 2, lanes := laneIxs.map fun l => { laneInit 0 with
      hold := if l = 3 then .pending (mkRec grp walk0 [0x10030405] 3 (if fault then 0x83 else 0x02) 0 {}) else .free } }

theorem witness_traps : replayBlock (recorded true) = none ∧ faultLanes (recorded true) = 8 ∧ faultLanes (recorded false) = 0 ∧
    trapLanes (recorded false) = 8 ∧ (recorded false).trapvec ≠ 0 ∧ (recorded false).pass = none := by and_intros <;> decide +kernel

theorem witness_gate_walks : maskOf (laneSelected grp { walk0 with strand := none } 0) = 0xFFFFFFFF ∧
    maskOf (laneSelected grp { walk0 with strand := none } 1) = 0 ∧ unfinishedLanes grp { walk0 with strand := none } = 0xFFFFFFFF ∧
    unfinishedLanes { grp with lanes := laneIxs.map fun _ => { laneInit 0 with nb := some 1 } } { walk0 with strand := none } = 0 := by
  and_intros <;> decide +kernel
/-! ### The loader and the device -/

/-- The device running. -/
def run_ : State := { st with dev := { st.dev with boot := .running } }

/-- The partition with a key of its tenant, a queue, a page being moved, a page being restriped, a peer window. -/
def partB : Partition :=
  { part with
    regs := { part.regs with fpool := 3, hbase := 0x1200000, erbase := 0x1000000, mrbase := 0x1100000, fzbase := 0x1300000 }
    tenantKey := some 1, queues := [(2, { cls := 1, items := [] }), (3, { cls := 1, items := [3] })], moving := [0x100]
    restripe := [(0, false)], peers := [{ base := 1, size := 1, device := 0, peerPart := 0, live := false },
      { base := 3, size := 1, device := 0, peerPart := 0, live := true }] }

/-- The device running, with that partition. -/
def runB : State :=
  { run_ with
    parts := [(0, partB)], groups := [], crews := []
    mem := memPut (memPut memory (physKey 0 5 0x3008) [1]) (physKey 0 5 0x4000) [22] }

/-- A message of the tenant of partition 0, or of the operator. -/
def msg (fn : Nat) (rsvd : Bool) : Msg := { fn := fn, slot := 4, tag := 9, rsvd := rsvd }

/-- A kernel of one block that ends, and a module of it. -/
def kimg : KernelImage :=
  { entry := 0, regs := 64, uregs := 48, acc := 0, scratch := 4096, crew := 1, blocks := [[0x05000000]], hints := [] }

/-- A module of that kernel. -/
def mimg (v : Nat) : ModuleImage := { name := 5, version := v, kernels := [kimg], resSyms := 0, items := [], relocs := [] }

/-- Its kernel as loaded: gate table at 0x10000, the code of its one gate at 0x20000. -/
def kplan : KernelPlan :=
  { handle := 2, gateTable := 0x10000, codeBase := 0x20000, gates := [{ slot := 0, mask := 1, off := 0, code := [0xFB000000, 0x05000000, 0x06000000] }] }

/-- Its pages: the gate table and the code. -/
def lplan : LoadPlan :=
  { modId := 7, pages := [{ va := 0x10000, fset := 20, w := false, pin := true, big := false }, { va := 0x20000, fset := 21, w := false, pin := true, big := false }]
    tables := [], kernels := [kplan], syms := [], items := [], buffer := 0x9000 }

/-- The loader's choices for partition 1: one page of 2 MiB that holds its rings, tables, pool and supervisor kernel. -/
def cplan : CreatePlan :=
  { pages := [{ va := 0x200000, fset := 32, w := true, pin := true, big := true }], tables := [2, 3], ptbase := 1, rtbase := 0x2F0000
    rtcnt := 16, hotbase := 0x2E0000, fpool := 1, poolHdr := 0x2E1000, poolRing := 0x2E2000, poolCap := 2048, poolFrames := [50]
    hbase := 0x340000, vwbase := 2 ^ 44, fzbase := 0x390000, svbase := 0x3A0000, erbase := 0x200000, mrbase := 0x230000
    fqbase := 0x280000, fltKernel := some 0
    load := { lplan with pages := [], kernels := [{ kplan with gateTable := 0x300000, codeBase := 0x310000 }] } }

/-- The body of a `CREATE`: partition 1 and function 2, with cluster 1, slice 1, group 1. -/
def body1 : BitVec 1984 := BitVec.ofNat 1984 (1 + 2 * 256 + 2 ^ 17 + 2 ^ 65 + 2 ^ 193 + 2 ^ 384)

/-- The device running, with no partition. -/
def fresh : State := { State.reset with dev := { State.reset.dev with boot := .running } }


theorem witness_modules : imageOk (mimg 3) = true ∧ symbolsFit partB lplan = true ∧ smGet 0 partB.highest 5 ≤ 3 + 4 ∧
    (∀ m ∈ partB.modules, m.2.name = 5 → m.2.version ≠ 3) ∧ (loadModule runB 0 (mimg 3) lplan).isSome = true ∧
    moduleBusy runB 0 1 = false ∧ moduleBusy { st with launches := [(3, launch1 .queued)] } 0 1 = true ∧
    smFind partB.modules 1 = some { name := 5, version := 1, dropped := [], spans := [] } := by and_intros <;> decide +kernel

theorem witness_queues : smFind partB.queues 1 = none ∧ smFind partB.queues 2 = some { cls := 1, items := [] } ∧
    smFind partB.queues 3 = some { cls := 1, items := [3] } ∧ recordValid runB 0 (recWithClass record1 1) = true ∧
    recordValid runB 0 (recWithClass 0 1) = false := by and_intros <;> decide +kernel

theorem witness_operator : (getStack runB 3).takeover = false ∧ (getStack (putStack runB 3 { held := false, takeover := true }) 3).takeover = true ∧
    smFind (putChannel runB 5 { failed := false, ratio := 0, quiesce := some 2 }).dev.chans 5 = some { failed := false, ratio := 0, quiesce := some 2 } ∧
    (getChannel runB 5).failed = false ∧ (getStack (putStack runB 3 { held := true, takeover := false }) 3).held = true := by
  and_intros <;> decide +kernel

/-- The state in which the first instruction is an `ADD`. -/
def first_ : State := State.reset.withFetchWord 32 0x10030405

theorem test_decode_setshape : (decode [0xC62094BD]).result = .ok (.setshape 4 0 0x94 0xBD bare) := by rfl
/-! ### Single instructions: words and values of the spec's examples, or worked out by hand from its rules -/

/-- The group, each lane with its registers. -/
def withRegs (regs : Nat → SMap Word) : Group :=
  { grp with lanes := laneIxs.map fun l => { laneInit 0 with regs := regs l } }

/-- The group after the instruction of some words. -/
def ran (ws : List Word) (g : Group) : Option Group :=
  match (decode ws).result with
  | .ok i => match exec i (ofGroup g) with
    | .next t => smFind t.groups 0
    | _ => none
  | .error _ => none

/-- Register `v2` of lane 0 after an instruction, when `v1` and `v3` hold two words in every lane. -/
def v2 (ws : List Word) (x y : Word) : Option Word :=
  (ran ws (withRegs fun _ => [(1, x), (3, y)])).map fun g => smGet 0 (getLane g 0).regs 2

/-- R139: addition wraps, and saturates with `.sat` (`TYPE` 5, `SAT`). -/
theorem test_add : v2 [0x10020103] 0x7FFFFFFF 1 = some 0x80000000 ∧ v2 [0xF90004A0, 0x10020103] 0x7FFFFFFF 1 = some 0x7FFFFFFF := by
  decide +kernel

/-- R139: the order of the operands of `SUB`, the high half of an unsigned product. -/
theorem test_sub_mulh : v2 [0x11020103] 5 7 = some 0xFFFFFFFE ∧ v2 [0xF90000C0, 0x13020103] 0x80000000 6 = some 3 := by decide +kernel

/-- The examples of `FCVT` in spec/09: rounding to integers, reduction modulo 2^32, saturation, `.e4m3`, `.bf16`. -/
theorem test_fcvt : v2 [0xF90020A0, 0x56020100] 0xC0200000 0 = some 0xFFFFFFFD ∧ v2 [0xF90000A0, 0x56020100] 0x4F32D05E 0 = some 0xB2D05E00 ∧
    v2 [0xF9000CA0, 0x56020100] 0x4F32D05E 0 = some 0x7FFFFFFF ∧ v2 [0xF9000CA0, 0x56020100] 0x7FC00000 0 = some 0 ∧
    v2 [0xF9000260, 0x56020100] 0x43FA0000 0 = some 0x7F ∧ v2 [0xF9000660, 0x56020100] 0x43FA0000 0 = some 0x7E ∧
    v2 [0xF9000212, 0x56020100] 0x3FC0 0 = some 0x3FC00000 := by decide +kernel

/-- The example of `fcvt.bx4.f32` in spec/09: lanes 0 to 3 hold 3.0, 0.25, −1.0 and a NaN. -/
theorem test_fcvt_block :
    (ran [0xF90002C0, 0x56080300] (withRegs fun l => [(3, [0x40400000, 0x3E800000, 0xBF800000, 0x7FC00000].getD l 0)])).map
        (fun g => [0, 1, 2, 3, 4].map fun l => smGet 0 (getLane g l).regs 8)
      = some [0x00807E07, 0x00807E01, 0x00807E0D, 0x00807E00, 0x00807E00] := by decide +kernel

/-- The example of a `bx8` block in spec/04: 26/32 × 2 = 13/8, and −3/32 × 2^−3 = −3/256. -/
theorem test_block_values : roundVal (formatOf 16) .rne false (blockVal 21 124 128 0x5A) = 0x3FD00000 ∧
    roundVal (formatOf 16) .rne false (blockVal 21 124 128 0x83) = 0xBC400000 := by decide +kernel

/-- The example of the run rule in spec/04: 2^12 × 2^12 and seven products of 1 round to 16,777,224. -/
theorem test_run_rule : runElement 18 0 ((some 0x4580) :: List.replicate 7 (some 0x3F80)) (0x4580 :: List.replicate 7 0x3F80) = 0x4B800004 := by
  decide +kernel

/-- R142: an arithmetic shift of a negative number by more than its width, and a logical one. -/
theorem test_shifts : v2 [0xF90000A0, 0x20020103] 0x80000000 40 = some 0xFFFFFFFF ∧ v2 [0xF90000A0, 0x1F020103] 0x80000000 31 = some 1 := by
  decide +kernel

/-- R160: 2^24 + 1 and 2^24 + 3 lie halfway: to even. `FFMA` rounds once. -/
theorem test_float_arithmetic : v2 [0x40020103] 0x4B800000 0x3F800000 = some 0x4B800000 ∧ v2 [0x40020103] 0x4B800001 0x3F800000 = some 0x4B800002 := by
  decide +kernel
/-! ### Gate tables and context images -/

/-- Memory whose gate table at 0x7000 holds one gate: block 0, three words, in slot 0; and whose miss ring at 0x5000 holds a
record of block 1. -/
def gateMemory : List Host.Cell :=
  [(2097152, 2), (2097159, 128), (4194304, 3), (4194311, 128), (6291456, 4), (6291463, 128), (8388608, 5), (8388615, 192),
   (10506240, 1), (10506372, 1), (10506392, 2), (10514436, 48), (10514439, 128), (10514440, 1)]

/-- The partition with that miss ring. -/
def partG : Partition := { part with regs := { part.regs with mrbase := 0x5000 } }

/-- The state with that memory. -/
def withGate : State := { st with mem := gateMemory, parts := [(0, partG)] }

/-- That gate. -/
def gate0 : GateSlot := { index := 0, mask := 1, len := 3, off := 0 }

/-- The gate of block 1. -/
def gate1 : GateImage := { slot := 1, mask := 2, off := 16, code := [0xFB040000, 0x05000000, 0x06000000] }

/-- Above its last entry memory reads as an unwritten place. -/
theorem memGet_above {m : List Host.Cell} {a : Nat} (h : ∀ e ∈ m, e.1 < a) : memGet m a = 0 := by
  induction m with
  | nil => rfl
  | cons e rest ih =>
    have := h e List.mem_cons_self
    unfold memGet smGet
    rw [if_neg (by omega), if_neg (by omega)]
    exact ih fun x hx => h x (List.mem_cons_of_mem _ hx)

theorem gates_read : loadedGates (tableSlots withGate 0 kern) = [gate0] ∧ brokenSlots (tableSlots withGate 0 kern) = [] ∧
    ∀ i < 4095, (i + 1, SlotState.empty) ∈ tableSlots withGate 0 kern := by
  have lo : translate withGate 0 kern.gateTable = some (10514432, true) := by decide +kernel
  have hi : translate withGate 0 (kern.gateTable + 65535) = none := by decide +kernel
  have gone : lostIn withGate 0 kern.gateTable 65536 = [] := by decide +kernel
  have first : slotOf gateMemory 10514432 0 = .loaded gate0 := by decide +kernel
  have rest : ∀ k i, 10514448 ≤ k → slotOf gateMemory k i = .empty := by
    intro k i hk
    unfold slotOf
    rw [memGet_above (by simp [gateMemory]; omega)]
    rfl
  have e : tableSlots withGate 0 kern = (0, .loaded gate0) :: (List.range 4095).map fun i => (i + 1, SlotState.empty) := by
    have r : List.range 4096 = 0 :: (List.range 4095).map Nat.succ := List.range_succ_eq_map
    unfold tableSlots
    rw [lo, hi, gone, r, List.map_cons, List.map_map]
    refine List.cons_eq_cons.2 ⟨?_, ?_⟩
    · simp only [kern]
      simp only [Nat.mul_zero, Nat.add_zero, if_true, Option.map_some]
      rw [show withGate.mem = gateMemory from rfl, first]
      rfl
    · apply List.map_congr_left
      intro i _
      dsimp only [Function.comp]
      split
      · rename_i k hk
        split at hk
        · simp at hk; rw [show withGate.mem = gateMemory from rfl, rest _ _ (by omega), ite_self]
        · simp at hk
      · rfl
  rw [e]
  refine ⟨?_, ?_, fun i hi => List.mem_cons_of_mem _ (List.mem_map.2 ⟨i, List.mem_range.2 hi, rfl⟩)⟩
  · unfold loadedGates
    rw [List.filterMap_cons]
    simp
  · unfold brokenSlots
    rw [List.filterMap_cons]
    simp

theorem witness_gate_install : smFind withGate.parts 0 = some partG ∧ gateBuilt kern.canon gate1 = true ∧
    missRecorded withGate 0 partG 1 gate1.mask = true ∧ (gate1.slot, SlotState.empty) ∈ tableSlots withGate 0 kern ∧
    (∀ y ∈ [gate0], y.mask ≠ gate1.mask ∧ rangesMeet y.off y.len gate1.off gate1.code.length = false) ∧
    (bytesVa withGate 0 (kern.codeBase + 4 * gate1.off) (4 * gate1.code.length)).isSome = true :=
  ⟨rfl, by decide +kernel, by decide +kernel, gates_read.2.2 0 (by decide), by decide +kernel, by decide +kernel⟩

/-- A group of 64 registers with no tiles, and memory whose page holds a context image for it at 0x8000: format 1, kernel 1, two
times 32 registers, the rest zeros. -/
def loading_ : Group := { grp with nreg := 64, nacc := 0 }

theorem witness_contexts :
    Meets (ofGroup loading_) loading_ (.ctxsv 5 0xD0 0xD9 bare) false fun c => engineBusy c.s c.k = false ∧ imageAt c (raw 9) ∧
      (entryOf (raw 9)).ro = false ∧ (entryOf (raw 9)).gre = false ∧ c.g.pend = [] ∧ c.g.ctxReq = none := by
  unfold Meets Issues imageAt CheckedKinds; dsimp only
  and_intros <;> first | decide +kernel | exact ok_of (by decide +kernel)

/-- That memory. -/
def imageMemory : List Host.Cell :=
  [(2097152, 2), (2097159, 128), (4194304, 3), (4194311, 128), (6291456, 4), (6291463, 128), (8388608, 5), (8388615, 192),
   (10490439, 19), (10490441, 128), (10490449, 16), (10518638, 1), (10518640, 1), (10518645, 2)]

/-- The state with that memory. -/
def withImage : State := { st with mem := imageMemory, groups := [(0, loading_)] }

/-- Byte `i` of the image. -/
def imageByte (i : Nat) : Byte := memGet imageMemory (10518528 + i)

/-- In the first page every address is walked as address 0 is. -/
theorem walk_first_page (m : List Host.Cell) (p t level va fuel : Nat) (h : va < 2 ^ 16) :
    walkFrom m p t level va fuel = walkFrom m p t level 0 fuel := by
  have key : ∀ t level, pteKey p t level va = pteKey p t level 0 := by
    intro t level
    have z : ∀ lo n, 16 ≤ lo → bitsOf va lo n = bitsOf 0 lo n := by
      intro lo n hlo
      have : va / 2 ^ lo = 0 := Nat.div_eq_of_lt (Nat.lt_of_lt_of_le h (Nat.pow_le_pow_right (by omega) hlo))
      simp [bitsOf, this]
    unfold pteKey
    split <;> rw [z _ _ (by omega)]
  induction fuel generalizing t level with
  | zero => rfl
  | succ fuel ih =>
    unfold walkFrom
    rw [key]
    dsimp only
    split
    · rfl
    · split
      · rfl
      · split
        · rfl
        · split
          · rfl
          · split
            · rfl
            · exact ih _ _

/-! ### Witnesses of the statements about accesses, transfers, jobs, launches, messages -/

theorem plain_place (x : Partition) (s : State) (h : smFind s.parts 0 = some x) (p : ∀ w ∈ x.peers, w.live = false) (a : x.aliased = []) (va : Nat) :
    plainPlace s 0 va := by
  refine ⟨?_, ?_⟩
  · simp only [inPeerWindow, h, peerWindowOf, Option.isSome_eq_false_iff, Option.isNone_iff_eq_none, List.find?_eq_none]
    intro w hw; simp [p w hw]
  · simp only [aliasedAt, h]
    split
    · simp [openLine, a]
    · rfl

theorem witness_faulty_words : issuing st = some (0, grp, walk0) ∧ grp.pass = none ∧ selectedMask grp ≠ 0 ∧
    opcodeUnassigned ((0x0E000000 : Word).extractLsb' 24 8).toNat = true ∧
    (∀ i ∈ [Instr.add 0x81 4 5 bare, .fence (typed 6), .brc 1 63 2, .br 63],
      checkedByWords i = true ∧ legal i = false) ∧ checkedByWords (.add 3 4 5 { bare with limm := some 0 }) = false := by
  and_intros <;> first | rfl | decide +kernel

theorem witness_gate_words : st.cur = some 0 ∧ smFind st.groups 0 = some grp ∧ grp.ctl = .run walk0 ∧ grp.pass = none ∧ walk0.strand ≠ none ∧
    ({ walk0 with strand := none } : Run).strand = none ∧ ({ walk0 with strand := none } : Run).pos + 1 < ({ walk0 with strand := none } : Run).len := by
  and_intros <;> first | rfl | decide +kernel

theorem witness_scratch_accesses :
    (Meets st grp (.lds 4 3 0xD0 bare) false fun c =>
      (tierOf c false).isSome = true ∧ everyLane c (scratchOk false) ∧ bytesHeld c false false = false) ∧
    (Meets st grp (.ldc 4 0x9F 0xD4 bare) false fun c =>
      (tierOf c true).isSome = true ∧ everyLane c (scratchOk true) ∧ bytesHeld c true false = false) ∧
    (Meets st grp (.sts 4 3 0xD0 bare) false fun c =>
      everyLane c (scratchOk false) ∧ bytesHeld c false true = false ∧ tierOf c false = some ([], 0)) ∧
    (Meets st grp (.stc 4 3 0xD0 bare) false fun c => everyLane c (scratchOk true) ∧ scratchClaimed c = false ∧
      bytesHeld c true true = false ∧ (tierOf c true).isSome = true) ∧
    (Meets st grp (.sts 4 3 0xD0 (typed 9)) false fun c => tyBits c.ty = 4 ∧ everyLane c (scratchOk false) ∧
      bytesHeld c false true = false ∧ tierOf c false = some ([], 0)) := by
  unfold Meets Issues everyLane; dsimp only; and_intros <;> decide +kernel

/-- A copy of 24 bytes in flight into scratch: of the crew, or of the cluster. -/
def filling (core : Bool) : State :=
  withOne (copyItem { copy4 false with core := core, place := if core then 7 else 0 } .running)

theorem witness_scratch_waits :
    (∀ x ∈ [(Instr.lds 4 3 0xD0 bare, false), (.sts 4 3 0xD0 bare, true)],
      Meets (filling true) grp x.1 false fun c => (∀ l < 32, scratchOk false (laneOf c l) = true) ∧ bytesHeld c false x.2 = true) ∧
    (∀ x ∈ [(Instr.ldc 4 3 0xD0 bare, false), (.stc 4 3 0xD0 bare, true)],
      Meets (filling false) grp x.1 false fun c => (∀ l < 32, scratchOk true (laneOf c l) = true) ∧ scratchClaimed c = false ∧
        bytesHeld c true x.2 = true) := by
  unfold Meets Issues; dsimp only; and_intros <;> decide +kernel

/-- The first access of a request stands next: the other is done. -/
theorem stands (e : Nat) (op : AccOp) (whole : Bool) (h : injectedOk (open_ e op) (request e op) (accessOf op 0) = true)
    (k : accHeld (open_ e op) (request e op) (accessOf op 0) = false) (m : lineMates (request e op) (accessOf op 0) = [0]) :
    StandsNext (open_ e op) 0 0 (request e op) (accessOf op 0) whole := by
  refine ⟨rfl, rfl, rfl, rfl, h, k, fun _ => m, fun _ _ b hb hd hl => absurd hl (Nat.not_lt_zero _), fun j b hj hb => Or.inl ?_⟩
  match j, hj with
  | 1, _ => cases hb; rfl
  | n + 2, _ => cases hb

/-- The state in which the first access is performed. -/
def seen_ (e : Nat) (op : AccOp) : State := serveMates (open_ e op) 0 (request e op) (accessOf op 0)

theorem witness_accesses_performed :
    (∀ x ∈ [(0, AccOp.load 4), (0, .store 7), (0, .gather 4), (0, .scatter 7), (4, .atom 6 4 1 0), (4, .addTo 1)],
      injectedOk (open_ x.1 x.2) (request x.1 x.2) (accessOf x.2 0) = true ∧
      accHeld (open_ x.1 x.2) (request x.1 x.2) (accessOf x.2 0) = false ∧ lineMates (request x.1 x.2) (accessOf x.2 0) = [0]) ∧
    isOrdinary (accessOf (.load 4) 0) = true ∧ isGather (accessOf (.gather 4) 0) = true ∧ isAtomic (accessOf (.atom 6 4 1 0) 0) = true ∧
    passTrapped { grp with wait := .req 0 } = 0 ∧
    (∀ op ∈ [AccOp.load 4, .gather 4],
      (readElement (seen_ 0 op) 0 (entryOf (raw 0)) [0, 0, 0, 0]).toOption = some 0) ∧
    (∀ op ∈ [AccOp.store 7, .scatter 7], (writeElement (seen_ 0 op) 0 (entryOf (raw 0)) [0, 0, 0, 0] 7).toBool = true) ∧
    graphScatter (open_ 0 (.scatter 7)) (request 0 (.scatter 7)) (accessOf (.scatter 7) 0) = false ∧
    (atomStep (seen_ 4 (.atom 6 4 1 0)) 0 (entryOf (raw 4)) 16 0 6 1 0).toBool = true ∧
    (atomStep (seen_ 4 (.addTo 1)) 0 (entryOf (raw 4)) 16 0 0 1 0).toBool = true := by
  and_intros <;> first | decide +kernel | exact ok_of (by decide +kernel)

/-- A scatter of one lane through an entry with a graph of its own on the way to memory. -/
def graphed : Req := { request 0 (.scatter 7) with entry := raw 0 ||| BitVec.ofNat 512 (2 ^ 47) }

theorem witness_graph_scatter :
    let s : State := { open_ 0 (.scatter 7) with reqs := [(0, graphed)] }
    (entryOf graphed.entry).gwe = true ∧ graphScatter s graphed (accessOf (.scatter 7) 0) = true ∧
    lineMates graphed (accessOf (.scatter 7) 0) = [0] ∧
    (placedPattern s 0 (entryOf graphed.entry) [(0x2000, 7)] [0, 0, 0, 0] 7).toOption = some 0 ∧
    (writeElement (serveMates s 0 graphed (accessOf (.scatter 7) 0)) 0 { entryOf graphed.entry with gwe := false } [0, 0, 0, 0] 0).toBool
      = true := by
  dsimp only; and_intros <;> decide +kernel

/-- The partition with a limit of 8 GB/s, at which an empty bucket takes some cycles to hold two elements. -/
def limited : State := { open_ 0 (.load 4) with parts := [(0, { part with rate := 8 })] }

theorem witness_channels :
    smFind (open_ 0 (.load 4)).reqs 0 = some (request 0 (.load 4)) ∧ smFind (open_ 0 (.load 4)).parts 0 = some part ∧ part.rate = 0 ∧
    (∃ a ∈ (request 0 (.load 4)).accs, a.done = false ∧ a.injected = false) ∧
    smFind limited.parts 0 = some { part with rate := 8 } ∧
    ((min (((request 0 (.load 4)).accs.filter fun a => !a.done && !a.injected).length * Machine.sizeOf (entryOf (raw 0)).fmt) (2 ^ 16)) : Int)
      * 2 ^ 16 ≤ min (2 ^ 32 : Int) (2 ^ 32 + (limited.cycle - 0).toNat * 8 * 1000 * 2 ^ 16 / limited.dev.mhz) ∧
    (∀ op ∈ [AccOp.load 4, .store 7],
      openAcc (request 0 op) (fun a => accReady (open_ 0 op) (request 0 op) a && !a.translated && a.lane == 0) = some 0 ∧
      inPeerWindow (open_ 0 op) 0 0x2000 = false ∧
      (∀ y ∈ matePlaces (open_ 0 op) (request 0 op) (accessOf op 0), bankBusy (open_ 0 op) 0 y = false) ∧
      dataAddr (open_ 0 op) 0 (entryOf (raw 0)) (accessOf op 0).coords = 0x2000 ∧
      (channelTranslate (lineTraffic (open_ 0 op) (request 0 op) 0x2000) 0 0x2000).any
        (fun s1 => (writablePlace s1 0 0x2000).toBool && (serveLine s1 0 0x2000 0).toBool) = true) ∧
    channelTranslate (lineTraffic (open_ 0 (.load 4)) (request 0 (.load 4)) 0x20000) 0 0x20000 = none := by
  and_intros <;> decide +kernel

theorem witness_copies_and_lists_issue :
    (Meets st grp (.cpy 0xE0 0x00 0xD0 bare) false fun c => CheckedKinds c (resourceIndex c c.b) [1, 2, 3] (raw 0) ∧
      CopyFits c (entryOf (raw 0)) [0] ∧ flightCount c.s c.g isCopy < 256) ∧
    (Meets st grp (.cpys 0xE0 0x00 0xD0 bare) false fun c => CheckedKinds c (resourceIndex c c.b) [1, 2] (raw 0) ∧
      CopyFits c (entryOf (raw 0)) [0] ∧ flightCount c.s c.g isCopy < 256) ∧
    (Meets st grp (.lgath 0xE4 0xD4 0xD0 (typed 16)) false fun c => ListFits c [1, 2, 3] (raw 4) (raw 0) ∧
      flightCount c.s c.g isList < 16) ∧
    (Meets st grp (.lscat 0xE4 0xD4 0xD0 (typed 16)) false fun c => ListFits c [1, 2] (raw 4) (raw 0) ∧
      flightCount c.s c.g isList < 16) := by
  unfold Meets Issues CheckedKinds CopyFits ListFits Checked CheckedKinds; dsimp only
  and_intros <;> first | decide +kernel | exact ok_of (by decide +kernel)

/-- The partition with page 0 in the TLBs of the channels of two addresses. -/
def cached : Partition :=
  { part with tlb := [0x2000, 0x2800, 0x3800].foldl (fun t va => smPut t (tlbKey (channelOf part va) va false)
      { fset := 5, w := true, big := false, requests := 0, hot := 0 }) [] }

/-- An item in flight at its point, its lines served. -/
def atPoint (x : Item) : State := { withOne x with cur := none, parts := [(0, cached)] }

/-- A list instruction as an item. -/
def listItem (scatter : Bool) : Item := { copyItem (copy4 false) .running with kind := .list { list1 with scatter := scatter } }

theorem witness_transfers :
    (∀ store ∈ [true, false], CopyReaches (atPoint (copyItem (copy4 store) .running)) 0 (copyItem (copy4 store) .running) (copy4 store)) ∧
    (∀ scatter ∈ [true, false], ListReaches (atPoint (listItem scatter)) 0 (listItem scatter) { list1 with scatter := scatter }) ∧
    (∀ n < 4, (copyCoords (copy4 false) (entryOf (raw 0)) n).2.2 = true ∧
      (readElement (atPoint (copyItem (copy4 false) .running)) 0 (entryOf (raw 0)) (copyCoords (copy4 false) (entryOf (raw 0)) n).1).toOption
        = some 0) ∧
    (copy4 false).rows * copyPerRow (copy4 false) = 4 ∧
    listValue (atPoint (listItem false)) 0 list1 0 = .ok (some 0) ∧ rowInside (entryOf (raw 0)) 4 0 = true ∧
    (∀ w < 4, (readElement (atPoint (listItem false)) 0 (entryOf (raw 0)) (coordsOf (entryOf (raw 0)) (0 * 4 + w))).toOption = some 0) := by
  unfold CopyReaches ListReaches; and_intros <;> first | decide +kernel | exact ok_of (by decide +kernel)

theorem served_at (x : Item) (va : Nat)
    (h : (tlbLookup cached (lineOf va)).isSome = true ∧ lineBad State.reset cached (lineOf va) = false) : Served (atPoint x) 0 va :=
  ⟨cached, rfl, .inr h⟩

theorem witness_served :
    CopyServed (atPoint (copyItem (copy4 true) .running)) (copyItem (copy4 true) .running) (copy4 true) ∧
    ListServed (atPoint (listItem true)) (listItem true) { list1 with scatter := true } ∧
    Unlimited (atPoint (listItem true)) 0 ∧ MayWrite (atPoint (listItem true)) 0 0 (entryOf (raw 0)) := by
  have copies : ∀ a ∈ copyAddrs (atPoint (copyItem (copy4 true) .running)) 0 (copy4 true) 0 ((copy4 true).rows * copyPerRow (copy4 true)),
      ∀ va ∈ [a, a + unitBytes (entryOf (copy4 true).entry) - 1],
        (tlbLookup cached (lineOf va)).isSome = true ∧ lineBad State.reset cached (lineOf va) = false := by decide +kernel
  have lists : ∀ va ∈ indexAddrs list1 list1.todo ++ listAddrs (atPoint (listItem true)) 0 { list1 with scatter := true } list1.todo,
      (tlbLookup cached (lineOf va)).isSome = true ∧ lineBad State.reset cached (lineOf va) = false := by decide +kernel
  have names : ∀ (x : Item) (e : Entry), NamesServed (atPoint x) 0 0 e true :=
    fun x e => ⟨fun _ => ⟨cached, rfl, .inr (by
      change (tlbLookup cached 0x3800).isSome = true ∧ lineBad State.reset cached 0x3800 = false ∧ lineOf 0x3800 ∉ cached.lost
      decide +kernel)⟩, fun h => Bool.noConfusion h⟩
  exact ⟨⟨names _ _, fun a ha => ⟨served_at _ _ (copies a ha _ (by simp)), served_at _ _ (copies a ha _ (by simp))⟩⟩,
    ⟨names _ _, fun a ha => served_at _ _ (lists a ha)⟩, ⟨cached, rfl, rfl⟩, by unfold MayWrite; decide +kernel⟩

/-- The states that stores of elements leave, one after another. -/
def chain (s : State) (write : State → Nat → Except MemFault State) : Nat → State
  | 0 => s
  | n + 1 => match write (chain s write n) n with
    | .ok t => t
    | .error _ => chain s write n

theorem chain_step {s : State} {write : State → Nat → Except MemFault State} {n : Nat}
    (h : (write (chain s write n) n).toBool = true) : write (chain s write n) n = .ok (chain s write (n + 1)) := by
  rw [chain]
  cases e : write (chain s write n) n with
  | ok t => rfl
  | error c => rw [e] at h; cases h

/-- The stores of the copy. -/
def copyWrites (t : State) (n : Nat) : Except MemFault State :=
  writeElement t 0 (entryOf (raw 0)) (copyCoords (copy4 true) (entryOf (raw 0)) n).1
    (copySource (atPoint (copyItem (copy4 true) .running)) (copy4 true) (entryOf (raw 0)) n)

theorem witness_copies_store : ∀ n < 4, (copyCoords (copy4 true) (entryOf (raw 0)) n).2.2 = true ∧
    MayWrite (chain (atPoint (copyItem (copy4 true) .running)) copyWrites n) 0 0 (entryOf (raw 0)) ∧
    copyWrites (chain (atPoint (copyItem (copy4 true) .running)) copyWrites n) n
      = .ok (chain (atPoint (copyItem (copy4 true) .running)) copyWrites (n + 1)) := by
  have h : ∀ n < 4, (copyCoords (copy4 true) (entryOf (raw 0)) n).2.2 = true ∧
      freezeCount (chain (atPoint (copyItem (copy4 true) .running)) copyWrites n) 0 0 = 0 ∧
      (copyWrites (chain (atPoint (copyItem (copy4 true) .running)) copyWrites n) n).toBool = true := by decide +kernel
  exact fun n hn => ⟨(h n hn).1, ⟨by decide +kernel, by decide +kernel, (h n hn).2.1⟩, chain_step (h n hn).2.2⟩

/-- The stores of the list instruction. -/
def listWrites (t : State) (n : Nat) : Except MemFault State :=
  writeElement t 0 (entryOf (raw 0)) (coordsOf (entryOf (raw 0)) n) (listSource (atPoint (listItem true)) list1 (entryOf (raw 0)) 0 n)

theorem witness_lists_scatter : listPlaces list1 = [(0, 0), (0, 1), (0, 2), (0, 3)] ∧
    listValue (atPoint (listItem true)) 0 list1 0 = .ok (some 0) ∧
    ∀ n < 4, listWrites (chain (atPoint (listItem true)) listWrites n) n = .ok (chain (atPoint (listItem true)) listWrites (n + 1)) := by
  have h : ∀ n < 4, (listWrites (chain (atPoint (listItem true)) listWrites n) n).toBool = true := by decide +kernel
  exact ⟨by decide +kernel, ok_of (by decide +kernel), fun n hn => chain_step (h n hn)⟩

/-- The partition with item 0 of that list at its home. -/
def homed : State := { st with parts := [(0, { part with resident := [(0x3000, [(0, 9)])] })] }

theorem witness_work_lists :
    (Meets st grp (.wlpush 4 0xDF 0xD3 bare) false fun c =>
      let x := touchPush c.s c.g.part (lanesOf c.e).length (entryOf (raw 3))
      ListChecked c (resourceIndex c c.b) (raw 3) ∧ homeFree c x ∧
      (∀ l < 32, regInside c.g (laneOf c l).ln 4 32 = true) ∧ readList (atHome c x) c.g.part (entryOf (raw 3)) = .ok emptyList ∧
      (do let y ← appendItems (atHome c x) 0 emptyList ((pushed c).take 2048)
          writeCounts y.1 0 y.2).toBool = true) ∧
    (Meets homed grp (.wlpop 4 0xDF 0xD3 bare) false fun c =>
      let x := touchPop c.s c.g.part (lanesOf c.e).length (entryOf (raw 3))
      homeFree c x ∧ (takeItems (atHome c x) c.g.part { emptyList with tail := 1 } 1).toOption.map (fun y => (y.2.1, y.2.2))
        = some ([9], { emptyList with head := 1, tail := 1 }) ∧ ListChecked c (resourceIndex c c.b) (raw 3)) ∧
    (Meets st grp (.wlcnt 4 0xD3 bare) true fun c => CheckedKinds c (resourceIndex c c.a) [6] (raw 3) ∧
      homeFree c (touchHeader (entryOf (raw 3)) 0) ∧
      readList (atHome c (touchHeader (entryOf (raw 3)) 0)) c.g.part (entryOf (raw 3)) = .ok emptyList) ∧
    (Meets st grp (.wlins 4 0xDF 0xD3 bare) false fun c =>
      let x := touchInsert c.s c.g.part ((lanesOf c.e).map fun j => regValue (getLane c.g j) c.d 32) (entryOf (raw 3))
      ListChecked c (resourceIndex c c.b) (raw 3) ∧ homeFree c x ∧
      (∀ l < 32, regInside c.g (laneOf c l).ln 4 32 = true) ∧
      insertKey c.s c.g.part { emptyList with bmap := 0x3400, bmapn := 64, cap := 0 } 3
        = .ok (c.s, { emptyList with bmap := 0x3400, bmapn := 64, cap := 0 }, false) ∧
      (insertKey (atHome c x) c.g.part { emptyList with bmap := 0x3400, bmapn := 64 } 3).toOption.map (fun y => y.2.2) = some true) ∧
    (Meets st grp (.wlbind 4 0xEA 0xD3 bare) true fun c =>
      let x : Touched := { touchHeader (entryOf (raw 3)) 0 with writes := [0x3000] }
      CheckedKinds c (resourceIndex c c.b) [6] (raw 3) ∧ homeFree c x ∧
      (bindSlots c.g c.a).reserved = false ∧ (bindSlots c.g c.a).limit ≠ 0 ∧ (bindSlots c.g c.a).period ≠ 0 ∧
      (launchableKernel (atHome c x) c.g.part (bindSlots c.g c.a).kernel).isSome = true) ∧
    (Meets st grp (.wlbind 4 0xE4 0xD3 bare) true fun c => (bindSlots c.g c.a).limit = 0) := by
  unfold Meets Issues ListChecked CheckedKinds homeFree; dsimp only
  and_intros <;> first | decide +kernel | exact ok_of (by decide +kernel)

theorem witness_segments : smFind st.parts 0 = some part ∧ (writeBytes st 0 (ringSlot emptyList 0) 4 7).toBool = true ∧
    residentOf st 0 0x3000 = [] ∧ smFind (residentOf homed 0 0x3000) 0 = some 9 ∧
    (∀ y ∈ residentOf homed 0 0x3000, 0 ≤ y.1 ∧ y.1 < 1 ∧ segmentOf emptyList y.1 = segmentOf emptyList 0) := by
  and_intros <;> decide +kernel

/-- The group with masks of one element. -/
def single : Group := { grp with rowm := [(1, 1)], colm := [(1, 1)] }

/-- A group whose only open work is a move of that element between tile 7 and entry 9. -/
def moving_ (kind : EngKind) : State :=
  { ofGroup single with engines := [(0, [{ product 0 with kind := kind, rowm := 1, colm := 1, owned := none }])] }

theorem witness_tile_moves :
    (Meets st grp (.accld 1 7 0xE8 1 (typed 16)) true fun c => tileFree c 1 7 false ∧
      scratchSlotsOk (scratchSlots c.g c.a) (tileExtent c 1) = true) ∧
    (Meets st grp (.accst 1 7 0xE8 1 (typed 16)) true fun c => tileFree c 1 7 true ∧
      scratchSlotsOk (scratchSlots c.g c.a) (tileExtent c 1) = true) ∧
    (Meets st grp (.accrd 8 7 1 (typed 16)) true fun c => tileFree c 1 7 true ∧ c.d + 8 ≤ 128 ∧
      ∀ l < 32, (getLane c.g l).win.toNat + c.d + 8 ≤ c.g.nreg) ∧
    (Meets (ofGroup single) single (.accld 1 7 0xD9 0 (typed 6)) true fun c => tileFree c 1 7 false ∧ tileResource c (raw 9) ∧
      selectedElements c 1 = [(0, 0)] ∧ indexIn c (0, 0) < elementCount (entryOf (raw 9)) ∧
      (readElement c.s c.g.part (entryOf (raw 9)) (coordsOf (entryOf (raw 9)) (indexIn c (0, 0)))).toOption = some 0) ∧
    (Meets (ofGroup single) single (.accst 1 7 0xD9 0 (typed 6)) true fun c => tileFree c 1 7 true ∧
      Writable { c with b := c.a } (raw 9) ∧ (entryOf (raw 9)).gwe = false ∧ selectedElements c 1 = [(0, 0)] ∧
      indexIn c (0, 0) < elementCount (entryOf (raw 9)) ∧ freezeCount c.s c.g.part (resourceIndex c c.a) = 0 ∧
      (writeElement c.s c.g.part (entryOf (raw 9)) (coordsOf (entryOf (raw 9)) (indexIn c (0, 0))) 0).toBool = true ∧
      leaveTile c.ty (extOf c.i) 0 = 0) := by
  unfold Meets Issues tileFree tileResource Writable; dsimp only
  and_intros <;> first | decide +kernel | exact ok_of (by decide +kernel)

/-- Moves of one element between tile 7 and memory, cluster scratch, or lane registers. -/
def moves : List EngKind :=
  [.accld 16 7 16 16 (.mem (raw 0) 0 0 16), .accst 16 Ext.zero 7 16 16 (.mem (raw 0) 0 0 16), .accld 16 7 16 16 (.scratch 0 0 64),
   .accst 16 Ext.zero 7 16 16 (.scratch 0 0 64), .accrd 16 Ext.zero 7 16 16 (List.replicate 32 8)]

theorem witness_queued_moves :
    ∀ kind ∈ moves,
      engineChoice (moving_ kind) (smGet [] (moving_ kind).engines 0)
        = some (0, { product 0 with kind := kind, rowm := 1, colm := 1, owned := none }) ∧
      engineWaits (moving_ kind) single { product 0 with kind := kind, rowm := 1, colm := 1, owned := none } = false := by
  decide +kernel

theorem witness_moves_in_memory :
    let els := [((0 : Nat), (0 : Nat))]
    let y : MoveArgs :=
      { part := 0, launch := single.launch, core := 0, store := false, ty := 16, ext := Ext.zero, entry := entryOf (raw 0), res := 0, first := 0, pitch := 16 }
    opElements { product 0 with kind := .accld 16 7 16 16 (.mem (raw 0) 0 0 16), rowm := 1, colm := 1 } = els ∧
    opMove single { product 0 with kind := .accld 16 7 16 16 (.mem (raw 0) 0 0 16) } = some y ∧
    opMove single { product 0 with kind := .accst 16 Ext.zero 7 16 16 (.mem (raw 0) 0 0 16) } = some { y with store := true } ∧
    moveIndex y (0, 0) < elementCount y.entry ∧
    (readElement (accessMade (ofGroup single) 0 0 (moveAddrs y els) (moveBytes y els)) 0 y.entry (coordsOf y.entry 0)).toOption = some 0 ∧
    freezeCount (accessMade (ofGroup single) 0 0 [] (moveBytes y els)) 0 0 = 0 ∧
    (writeElement (accessMade (ofGroup single) 0 0 [] (moveBytes y els)) 0 y.entry (coordsOf y.entry 0) 0).toBool = true ∧
    y.entry.gwe = false ∧ y.entry.ro = false ∧ y.entry.gre = false := by
  dsimp only; and_intros <;> decide +kernel

theorem witness_nothing_held (va : Nat) : inPeerWindow st 0 va = false ∧ addressHeld st 0 va = false := ⟨rfl, rfl⟩

theorem witness_graph_images :
    (Meets st grp (.gload 2 0x80 0xD0 bare) true fun c => CheckedKinds c (resourceIndex c c.b) [1] (raw 0) ∧ readUni c c.a 6 % 64 = 0 ∧
      readUni c c.a 6 + 192 ≤ linearBytes (entryOf (raw 0)) ∧ readsFree c (imageLines c (raw 0)) 192 ∧
      entryBytes (imageSeen c (raw 0)).s c.g.part (entryOf (raw 0)) 0 192 = .ok (List.replicate 192 0) ∧
      imageValid (imageOfBytes (List.replicate 192 0)) = true ∧ slotJobs c.s c.g.part 2 = [] ∧ c.s.defer = false ∧
      plainPlace (imageSeen c (raw 0)).s 0 0x2000) ∧
    slotJobs (withOne (job2 false)) 0 0 = [0] := by
  unfold Meets Issues CheckedKinds readsFree plainPlace; dsimp only
  and_intros <;> first | decide +kernel | exact ok_of (by decide +kernel)

theorem witness_jobs_and_handles :
    (Meets described grp (.gjob 5 0x80 0xD9 bare) true fun c => CheckedKinds c (resourceIndex c c.b) [1] (raw 9) ∧
      readsFree c (jobLines c (raw 9)) (jobBytes c (raw 9)) ∧
      entryBytes (jobSeen c (raw 9)).s c.g.part (entryOf (raw 9)) 0 32 = .ok (leBytes 32 (2 ^ 64)) ∧
      entryBytes (jobSeen c (raw 9)).s c.g.part (entryOf (raw 9)) 32 16 = .ok (List.replicate 16 0) ∧
      (phaseFields 0).reserved = false ∧ readPhases (jobSeen c (raw 9)).s c.g.part [phaseFields 0] = .ok [phase0] ∧
      phaseOk (entryOf (raw 0)) phase0 = true ∧ plainPlace (jobSeen c (raw 9)).s c.g.part 0x8000 ∧
      flightCount c.s c.g isJob < 16 ∧ c.g.njobs + 1 < 2 ^ 32) ∧
    (Meets st grp (.gstat 5 0xD1 bare) true fun _ => True) ∧
    (Meets st grp (.gfold 2 0xDD bare) true fun c =>
      let h := { c with s := handleEvent c.s c.g.part (coreOfKey c.k) (entryOf (raw 13)) }
      CheckedKinds c (resourceIndex c c.b) [3] (raw 13) ∧ CheckedKinds h 2 anyKind (raw 2) ∧
      handleRecord h.s c.g.part (entryOf (raw 13)) = some { vbase := 0x200002000, ent := 13, base := 2, layers := [11] } ∧
      foldDest (entryOf (raw 2)) ((entryAt h.s c.g.part 2).getD Entry.none) = true ∧ freezeCount h.s c.g.part 2 = 0) ∧
    (Meets st grp (.lattach 5 0xD0 0xD2 bare) true fun c => attachRead c (raw 2) (raw 0) ∧ ¬ attachKinds c (raw 2) (raw 0)) ∧
    (Meets st grp (.lattach 5 0xDB 0xD2 bare) true fun c =>
      let s := (layerSeen c (raw 2) (raw 11)).s
      attachRead c (raw 2) (raw 11) ∧ attachKinds c (raw 2) (raw 11) ∧ attachFree c (raw 2) (raw 11) ∧
      layerFits s c.g.part (newBase c (raw 2) (raw 11)).2 (entryOf (raw 11)) = .ok true ∧
      ((smFind s.parts c.g.part).bind fun x => freeRecord s c.g.part x) = some 0x3900 ∧
      ((smFind s.parts c.g.part).bind fun x => viewRoom x.views (viewUnits (newBase c (raw 2) (raw 11)).2) 0) = some 0 ∧
      writersOf s c.g.part (frozenBy s c.g.part (newBase c (raw 2) (raw 11)).1 (newLayers c (raw 2) (raw 11))) = [] ∧ s.defer = false) ∧
    (Meets st grp (.lfree 0xDD bare) true fun c => resourceEntry c.s c.g.part (resourceIndex c c.b) = .ok (raw 13) ∧
      (entryOf (raw 13)).kind = 3 ∧ entryValid (entryOf (raw 13)) = true ∧ readersOf c.s c.g.part (raw 13) = [] ∧
      itemsOf c.s c.g.part (raw 13) = [] ∧ c.s.defer = false ∧
      releaseWaits (writeEntry c.s c.g.part (resourceIndex c c.b) 0) c.g.part (entryOf (raw 13)) = false) := by
  unfold Meets Issues attachRead attachKinds attachFree CheckedKinds readsFree plainPlace; dsimp only
  and_intros <;> first | decide +kernel | exact ok_of (by decide +kernel)

/-- A group with an open store to the base of the handle, or an open read of the handle's entry: `LATTACH` and `LFREE` wait. -/
theorem witness_waits_for_items :
    writersOf { st with reqs := [(0, request 2 (.store 7))] } 0 [2] = [0] ∧
    readersOf { st with reqs := [(0, request 13 (.load 4))] } 0 (raw 13) = [0] ∧
    smFind (withOne { copyItem (copy4 false) .running with kind := .lfree (raw 13) [0] [] }).items 0
      = some { copyItem (copy4 false) .running with kind := .lfree (raw 13) [0] [] } ∧
    smFind (withOne (job2 false)).reqs 0 = none := by and_intros <;> decide +kernel

theorem witness_jobs_step :
    (∀ fold ∈ [true, false],
      channelTurn (withOne (job2 fold)) 0 0 0 0 = true ∧ (jobAt (withOne (job2 fold)) 0 0).isSome = true) ∧
    rowReady (withOne (job2 false)) 0 (job2 false) 0 0 phase0 = true ∧
    rowReady (withOne (job2 true)) 0 (job2 true) 0 0 { phase0 with s0 := raw 13, s0ix := 13, out := some (raw 2), outIx := 2 } = true ∧
    Unlimited (withOne (job2 false)) 0 ∧
    rowFault (withOne (job2 false)) 0 0 (phaseUses phase0) = none ∧ rowSkip 0 (phaseUses phase0) = none ∧
    rowFault (withOne (job2 false)) 0 1000 (phaseUses phase0) ≠ none ∧
    rowSkip 1000 (phaseUses { phase0 with s0 := raw 1, s0ix := 1 }) ≠ none ∧
    (jobStep (withOne (job2 false)) 0 0 phase0 0 { acc := [], prev := [] }).toBool = true ∧
    foldFault (withOne (job2 true)) 0 0 (phaseUses { phase0 with s0 := raw 13, s0ix := 13, out := some (raw 2), outIx := 2 }) = none ∧
    (foldRowStep (withOne (job2 true)) 0 { phase0 with s0 := raw 13, s0ix := 13, out := some (raw 2), outIx := 2 } 0).toBool = true := by
  refine ⟨by decide +kernel, by decide +kernel, by decide +kernel, ⟨part, rfl, rfl⟩, ?_⟩
  and_intros <;> decide +kernel

/-- Memory whose frame pool, the list of entry 3, holds frame set 22. -/
def pooled_ : State :=
  { ofGroup lone with
    parts := [(0, { part with regs := { part.regs with fpool := 3 } })]
    mem := memPut (memPut memory (physKey 0 5 0x3008) [1]) (physKey 0 5 0x4000) [22] }

theorem witness_pages : inFaultPass lone = true ∧ issuing (ofGroup lone) = some (0, lone, walk0) ∧ passTrapped lone = 0 ∧
    legal (.mapf 5 4 0xD0 bare) = true ∧ setE lone (.mapf 5 4 0xD0 bare) = 1 ∧
    (mapPage (ofGroup lone) 0 0 0 false false false).2 = some 5 ∧ findLeaf st 0 1 1 0 3 = .table 4 ∧ leafEntry st 0 4 0 = some (5, false) ∧
    mapFree (gctx (ofGroup lone) 0 lone walk0 (.mapf 5 4 0xD0 bare) false) 0 ∧
    legal (.tlbinv 0 0xD2 bare) = true ∧ setE lone (.tlbinv 0 0xD2 bare) = 1 ∧ (ofGroup lone).reqs = [] ∧ part.aliased = [] ∧
    pagesBusy (ofGroup lone) 0 (some 0) false = false ∧ pagesBusy (ofGroup lone) 0 none false = false ∧
    findLeaf pooled_ 0 1 1 0x10000 3 = .table 4 ∧ leafEntry pooled_ 0 4 0x10000 = none ∧ (popFrame pooled_ 0).2 = some 22 ∧
    (popFrame st 0).2 = none := by
  have held : partHeld (ofGroup lone) part = false := by decide +kernel
  unfold mapFree homeFree
  and_intros <;> first | decide +kernel | (intro _ y hy; cases hy; exact held)

theorem witness_hotness : translate st 0 (0x1000 + 5) = some (physKey 0 5 0x1005, true) ∧ translate st 0 (2 ^ 40) = none := by
  and_intros <;> decide +kernel

/-- A record that waits for the word at 0x2000 to reach 5, and one whose signal is a word that is not mapped. -/
def record2 : BitVec 1024 := BitVec.ofNat 1024 (2 ^ 64 + 2 ^ 128 + 2 ^ 112 + 0x2000 * 2 ^ 384 + 5 * 2 ^ 448)

/-- R81. -/
def record3 : BitVec 1024 := BitVec.ofNat 1024 (2 ^ 64 + 2 ^ 128 + 0x50000 * 2 ^ 192)

theorem witness_launches :
    (Meets st grp (.launch 5 0xD4 0x80 bare) false fun c => resourceEntry c.s c.g.part (resourceIndex c c.a) = .ok (raw 4) ∧
      readUni c c.b 6 % 128 = 0 ∧ readsFree c (recordLine c (raw 4)) 128 ∧
      entryBytes (recordSeen c (raw 4)).s c.g.part (entryOf (raw 4)) 0 128 = .ok (List.replicate 128 0) ∧
      plainPlace (recordSeen c (raw 4)).s c.g.part 0x2800 ∧
      recordValid (recordSeen c (raw 4)).s c.g.part (recordOf (List.replicate 128 0)) = false ∧
      recordValid (recordSeen c (raw 4)).s c.g.part record1 = true) ∧
    (Meets st grp (.launch 5 0xD4 0x81 bare) false fun c => readUni c c.b 6 % 128 ≠ 0) ∧
    mayLeaveQueue (launching .queued) { part with pool := [3] } 3 (launch1 .queued) = true ∧
    recWaits record2 = 1 ∧ signalsToRead st { launch1 .waiting with lrec := record2 } ≠ [] ∧
    metAfter st { launch1 .waiting with lrec := record2 } 0 ∧
    recSignal (launch1 .completing).lrec = 0 ∧ (readBytes (launching .completing) 0 0 4).toOption = some 0 ∧
    (writeBytes (lineRequest 0 0 none true (launching .completing) 0) 0 0 4 0).toBool = true ∧
    recSignal record3 = 0x50000 ∧ addressHeld st 0 0x50000 = false ∧ readBytes st 0 0x50000 4 = .error 0x81 := by
  unfold Meets Issues readsFree plainPlace metAfter; dsimp only
  and_intros <;> first | decide +kernel | exact ok_of (by decide +kernel) | exact error_of (by decide +kernel)

/-- A crew of launch 3 that a pre-emption took off its core, with its saved group. -/
def crew8 : Crew := { crew7 with core := none, slots := [], size := 1, saved := [{ grp with launch := 3, crew := 8, ctl := .between }] }

/-- The launch with that crew. -/
def resuming : State := { launching .placing with launches := [(3, { launch1 .placing with placed := 1 })], crews := [(8, crew8)] }

/-- The kernel with sixteen groups to a crew and all the scratch of a core. -/
def wide : Kernel := { kern with crew := 16, scratch := 2 ^ 18, nreg := 256, nacc := 1 }

/-- A launch of class 2 that finds every core of the cluster taken by a crew of class 0. -/
def crowded : State :=
  { launching .placing with
    parts := [(0, { part with pool := [3], kernels := [(1, wide)] })]
    launches := [(3, { launch1 .placing with cls := 2 }), (4, { launch1 .running with queue := 0 })]
    crews := [0, 1, 2, 3].map fun j => (20 + j, { crew7 with launch := 4, core := some j, index := j, size := 16, set := j }) }

theorem witness_placement :
    launchKernel (launching .placing) (launch1 .placing) = some kern ∧
    launchNeed (launching .placing) (launch1 .placing) = some (needOf 1 kern) ∧ holdsCluster part 0 = true ∧ coresDistinct 0 [3] = true ∧
    nextSet (launching .placing) { part with pool := [3] } 3 (launch1 .placing) 0 = some { set := 0, count := 1, crews := [] } ∧
    higherWaits (launching .placing) 0 part 0 0 = false ∧ dieFits (launching .placing) noneGone part 0 1 (needOf 1 kern) = true ∧
    hasTurn (launching .placing) { part with pool := [3] } 3 (launch1 .placing) 0 = true ∧
    coreFits (launching .placing) noneGone 3 (needOf 1 kern) = true := by and_intros <;> decide +kernel

theorem witness_resumption :
    nextSet resuming { part with pool := [3] } 3 { launch1 .placing with placed := 1 } 0 = some { set := 0, count := 1, crews := [(8, crew8)] } ∧
    higherWaits resuming 0 part 0 0 = false ∧ dieFits resuming noneGone part 0 1 (needOf 1 kern) = true ∧
    hasTurn resuming { part with pool := [3] } 3 { launch1 .placing with placed := 1 } 0 = true ∧
    coreFits resuming noneGone 3 (needOf 1 kern) = true := by and_intros <;> decide +kernel

theorem witness_make_room :
    (nextSet crowded { part with pool := [3], kernels := [(1, wide)] } 3 { launch1 .placing with cls := 2 } 0).map (·.count) = some 1 ∧
    (launchNeed crowded { launch1 .placing with cls := 2 }).isSome = true ∧
    higherWaits crowded 0 part 0 2 = false ∧ dieFits crowded noneGone part 0 1 (needOf 16 wide) = false ∧
    dieFits crowded (lowerCrews crowded 0 2) part 0 1 (needOf 16 wide) = true ∧
    (victims crowded 0 part 0 2 1 (needOf 16 wide) (askedCrews crowded) 5).length ≠ (askedCrews crowded).length := by
  and_intros <;> decide +kernel

theorem witness_preemption : issuing (ofGroup { grp with preempt := true }) = some (0, { grp with preempt := true }, walk0) ∧
    (ofGroup { grp with preempt := true }).reqs = [] ∧ engineBusy st 0 = false ∧ smFind st.crews grp.crew = some crew7 ∧
    smFind st.parts grp.part = some part := by
  and_intros <;> first | rfl | decide +kernel

theorem witness_loader : replayLanes replaying = 8 ∧ (∀ l < 32, settleReplay (getLane replaying l) = getLane replaying l) ∧
    replayBlock (mapLanes replaying fun _ ln => ln) = some 0 ∧
    resourceEntry st 0 5 = .ok 0 ∧ (entryOf (raw 5)).kind = 0 ∧ (entryOf (raw 0)).kind ≠ 0 ∧
    groupsOnEntry (ofGroup { grp with lanes := laneIxs.map fun _ => { laneInit 0 with
      hold := .pending { mkRec grp walk0 [] 0 0x87 0 {} with res := 5 } } }) 0 5 ≠ [] := by
  and_intros <;> first | decide +kernel | exact ok_of (by decide +kernel)

/-- A pass whose lanes have left the handler: all of them disposed as `d`, with records at offset 1 of block 0. -/
def ending (d : Disp) : Group :=
  { passing true with
    lanes := laneIxs.map fun _ => laneInit 63
    pass := (passing true).pass.map fun p => { p with lanes := p.lanes.map fun x =>
      (x.1, { x.2 with trec := { x.2.trec with off := 1 }, disp := d }) } }

/-- Those lanes as the pass ends. -/
def ended (d : Disp) : Group :=
  { mapLanes (ending d) (fun l ln => settleReplay (leaves ln { passLane l with trec := { (passLane l).trec with off := 1 }, disp := d })) with
    waits := [], uwin := 0, qpreds := 1, pass := none, ctl := .between }

theorem witness_handlers_end :
    (∀ d ∈ [Disp.finish, .resume, .park 9], ((ending d).pass.map fun p => occupiedOf (ending d) p.mask) = some 0 ∧
      (∀ l < 32, (match (getLane (ended d) l).hold with | .pending _ => false | _ => true) = true)) ∧
    (ended .finish).preempt = false ∧ (ended .finish).ctxReq = none ∧
    replayBlock (ended .finish) = none ∧ occupiedOf (ended .finish) 0xFFFFFFFF = 0 ∧ (∀ l < 32, (getLane (ended .finish) l).hold = .free) ∧
    replayBlock (ended .resume) = some 0 ∧
    replayBlock (ended (.park 9)) = none ∧ occupiedOf (ended (.park 9)) 0xFFFFFFFF = 0 ∧ (getLane (ended (.park 9)) 0).hold ≠ .free := by
  and_intros <;> decide +kernel

theorem witness_votes : findKernel withGate grp.part 1 = some kern ∧ loadedGates (tableSlots withGate 0 kern) = [gate0] ∧
    brokenSlots (tableSlots withGate 0 kern) = [] ∧ smGet [] withGate.filters 0 = [] ∧
    [gate0].find? (fun x => x.mask == 1) = some gate0 ∧ (∀ x ∈ [gate0], x.mask ≠ 3) ∧
    sidestepGate [gate0] 3 (oldestBlock [] 3) = some gate0 ∧ singletonOf [gate0] 0 = some gate0 ∧ replayBlock replaying = some 0 :=
  ⟨by decide +kernel, gates_read.1, gates_read.2.1, by and_intros <;> decide +kernel⟩

theorem witness_messages :
    (∀ ty ∈ [(1 : BitVec 8), 2, 3, 4, 5, 6, 7, 8, 9], FromTenant runB (msg 1 false) ty 0 partB ∧ msgTaken runB (msg 1 true) ty = true ∧
      msgTaken runB (msg 0 false) ty = true ∧ msgTaken runB (msg 2 false) ty = true) ∧
    (∀ ty ∈ [(0x40 : BitVec 8), 0x41, 0x42, 0x43, 0x44, 0x45, 0x46, 0x47, 0x48], FromOperator runB (msg 0 false) ty ∧
      msgTaken runB (msg 0 true) ty = true ∧ msgTaken runB (msg 1 false) ty = true) ∧
    msgTaken runB (msg 1 false) 0x4A = true ∧ partOfFn runB 2 = none ∧ releaseHeld runB (msg 1 false) 3 9 true = true ∧
    bodyHeld runB (msg 0 false) body1 = true ∧ bodyHeld runB (msg 1 false) (BitVec.ofNat 1984 (releaseBody 3 9 true)) = true := by
  unfold FromTenant FromOperator; and_intros <;> decide +kernel

theorem witness_entries_and_pages : 5 < partB.regs.rtcnt.toNat ∧ entryValid (entryOf (raw 0)) = true ∧
    entryValid (entryOf (entryBits 1 31 0 1 0x2000 0)) = false ∧ framesFree runB 0 partB [20] 1 = true ∧
    mapState runB 0 partB 0 true = .blocked ∧ mapState runB 0 partB 0 false = .mapped ∧
    mapState runB 0 partB 0x10000 false = .clear ∧ (mapPage runB 0 0 0x10000 true false false).2 = some 22 := by
  and_intros <;> decide +kernel

/-- The device with the page of partition 0 not writable. -/
def sealed_ : State := { runB with mem := memSet runB.mem (pteKey 0 4 4 0 + 7) 0x80 }

theorem witness_signals : addressHeld run_ 0 0x2000 = false ∧ readBytes run_ 0 0x2000 4 = .ok 0 ∧
    (writeBytes (lineRequest 0 0 none true run_ 0x2000) 0 0x2000 4 7).toBool = true ∧
    (match writeBytes (lineRequest 0 0 none true sealed_ 0x2000) 0 0x2000 4 7 with | .error c => some c | .ok _ => none) = some 0x82 ∧
    (readBytes sealed_ 0 0x2000 4).toOption = some 0 ∧
    inPeerWindow runB 0 0x50000 = false ∧ channelWalk runB 0 0x50000 = .unmapped ∧
    channelWalk { runB with mem := memSet runB.mem (pteKey 0 4 4 0x50000 + 7) 0x81 } 0 0x50000 = .malformed ∧
    readBytes { runB with parts := [(0, { partB with lost := [0x2000] })] } 0 0x2000 4 = .error 0x8B := by
  and_intros <;> first | decide +kernel | exact ok_of (by decide +kernel) | exact error_of (by decide +kernel)

/-- Memory whose first page table holds 26 entries that name that table itself. -/
def loopMemory : List Host.Cell :=
  (List.range 26).flatMap fun i => [(2097152 + 8 * i, 1), (2097152 + 8 * i + 7, 128)]

/-- The rows that such a table gives at a level and below it. -/
def loopRows (level : Nat) : Nat → Nat
  | 0 => 0
  | fuel + 1 => if level = 4 then 26 else 26 * (1 + loopRows (level + 1) fuel)

theorem loop_rows (fuel : Nat) : ∀ level va, 1 ≤ level → level ≤ 4 →
    (mapRows loopMemory 0 1 level va fuel).length = loopRows level fuel := by
  have used : ∀ level, 1 ≤ level → level ≤ 4 → usedEntries loopMemory 0 1 level = List.range 26 := by
    intro level h1 h4
    obtain rfl | rfl | rfl | rfl : level = 1 ∨ level = 2 ∨ level = 3 ∨ level = 4 := by omega
    all_goals decide +kernel
  have entry : ∀ i ∈ List.range 26, memRead loopMemory (physKey 0 1 (8 * i)) 8 = 0x8000000000000001 := by decide +kernel
  induction fuel with
  | zero => intro level va _ _; rfl
  | succ fuel ih =>
    intro level va h1 h4
    unfold mapRows
    rw [used level h1 h4, List.length_flatMap]
    have sums : ∀ (f : Nat → Nat) n (l : List Nat), (∀ i ∈ l, f i = n) → (l.map f).sum = l.length * n := by
      intro f n l hf
      induction l with
      | nil => simp
      | cons i l ih =>
        rw [List.map_cons, List.sum_cons, hf i List.mem_cons_self, ih fun j hj => hf j (List.mem_cons_of_mem _ hj), List.length_cons,
          Nat.succ_mul, Nat.add_comm]
    have sum : ∀ (f : Nat → Nat) n, (∀ i ∈ List.range 26, f i = n) → ((List.range 26).map f).sum = 26 * n :=
      fun f n hf => by rw [sums f n _ hf, List.length_range]
    unfold loopRows
    by_cases h : level = 4
    · rw [if_pos h, sum _ 1]
      intro i hi
      simp [entry i hi, h, show bitsOf (0x8000000000000001) 63 1 = 1 by decide, show bitsOf (0x8000000000000001) 60 1 = 0 by decide,
        show pteOk (0x8000000000000001) = true by decide]
    · rw [if_neg h]
      refine sum _ _ fun i hi => ?_
      simp [entry i hi, h, show bitsOf (0x8000000000000001) 63 1 = 1 by decide, show bitsOf (0x8000000000000001) 60 1 = 0 by decide,
        show bitsOf (0x8000000000000001) 60 3 = 0 by decide, show bitsOf (0x8000000000000001) 0 32 = 1 by decide,
        show pteOk (0x8000000000000001) = true by decide, ih (level + 1) _ (by omega) (by omega), Nat.add_comm]

theorem rows_in_use (s : State) (p : Nat) (x : Partition) : 2 ^ 16 * (partRows s p x).length ≤ bytesInUse s p x := by
  unfold bytesInUse framesInUse framesListed
  simp only [List.length_cons, List.length_append, List.length_map]
  omega

/-- The device with that memory: more is mapped than one parity group holds. -/
def mappedOver : State := { runB with mem := loopMemory }

theorem witness_small_groups : FromOperator mappedOver (msg 0 false) 0x41 ∧ masksOk mappedOver 0 1 1 1 = true ∧
    strandsCrew mappedOver 0 1 = false ∧ groupBytes 1 < bytesInUse mappedOver 0 partB ∧ bytesInUse fresh 1 partB ≤ groupBytes 1 := by
  refine ⟨by unfold FromOperator; and_intros <;> decide +kernel, by decide +kernel, by decide +kernel, ?_, by decide +kernel⟩
  have rows : (partRows mappedOver 0 partB).length = 475254 := by
    have counted : loopRows 1 4 = 475254 := by decide +kernel
    unfold partRows
    rw [show mappedOver.mem = loopMemory from rfl, show partB.regs.ptbase.toNat = 1 from rfl, loop_rows 4 1 0 (by omega) (by omega), counted]
  have size : groupBytes 1 < 2 ^ 16 * 475254 := by decide +kernel
  exact Nat.lt_of_lt_of_le size (rows ▸ rows_in_use mappedOver 0 partB)

theorem witness_partitions : FromOperator fresh (msg 0 false) 0x40 ∧ createReserved body1 = false ∧ smFind fresh.parts 1 = none ∧
    partOfFn fresh 2 = none ∧ masksOk fresh 1 (body1.extractLsb' 64 128) (body1.extractLsb' 192 128) (body1.extractLsb' 16 16) = true ∧
    imageOk (mimg 1) = true ∧ symbolsFit (newPartition body1 cplan) cplan.load = true ∧ (createPartition fresh 1 body1 (mimg 1) cplan).isSome = true ∧
    strandsCrew runB 0 1 = false ∧ masksOk runB 0 1 1 1 = true ∧ 0x100 / 128 * 128 ∈ partB.moving ∧
    partB.restripe.find? (fun g => g.1 == 0) = some (0, false) := by
  unfold FromOperator; and_intros <;> decide +kernel

/-- The device with line 0x2000 lost. -/
def losing : State := { runB with parts := [(0, { partB with lost := [0x2000] })] }

theorem witness_peers_and_aperture : (∀ w ∈ partB.peers, w.base + w.size ≤ 7 ∨ 7 + 1 ≤ w.base) ∧
    (∃ w ∈ partB.peers, w.base = 1 ∧ w.live = false) ∧ (∃ w ∈ partB.peers, w.live = true) ∧ inPeerWindow runB 0 0x2000 = false ∧
    (∀ n ∈ [1, 128], 0x2000 % 128 + n ≤ 128 ∧ outsideWaits runB 0 0x2000 n = false) ∧
    (putBlockBytes runB 0 0x2000 [1, 2]).toBool = true ∧
    (∀ i < 2, channelWalk runB 0 (0x2000 + i) = .page 5 true false false ∧ lineLost runB partB (0x2000 + i) = false) ∧
    channelWalk losing 0 0x2000 = .page 5 true false false ∧ lineLost losing { partB with lost := [0x2000] } 0x2000 = true ∧
    channelWalk { runB with mem := memSet runB.mem (pteKey 0 4 4 0x50000 + 7) 0x81 } 0 0x50000 = .malformed ∧
    smFind partB.aliased 5 = none ∧ channelWalk runB 0 0x50000 = .unmapped ∧ (getFn runB 1).apbase = 0 ∧
    channelWalk sealed_ 0 0x2000 = .page 5 false false false ∧
    readBytes runB 0 0x2000 4 = .ok 0 ∧ (writeBytes (lineRequest 0 0 none true runB 0x2000) 0 0x2000 4 7).toBool = true := by
  and_intros <;> first | decide +kernel | exact ok_of (by decide +kernel)

/-- A microsecond's readings: one of each kind of unit. -/
def reading1 : EnergyReading :=
  { clusters := [(0, 5)], cores := [(0, 7)], engines := [(0, 3)], slices := [(0, 2)], channels := [(0, 11)], io := 4 }

/-- The state with ten slots of launch 3 counted at core 0, and a line of it at channel 0. -/
def metered_ : State :=
  { st with meters := { slots := [(0, [(3, 10)])], steps := [], traffic := [(0, [(4, 128)])] }
            launches := [(3, launch1 .running)] }

theorem witness_energy : readingOk 40 reading1 = true ∧ smFind metered_.parts 0 = some part ∧ partitionPays metered_ reading1 [(0, 100)] 0 part = 32 ∧
    paysAtCore metered_ reading1 3 0 = 10 ∧ launchPays metered_ reading1 3 = 21 ∧ smFind metered_.launches 3 ≠ none := by
  and_intros <;> decide +kernel

/-- The state of the first instruction with a queued `ACCRD` of the group that writes its destination. -/
def awaiting_ : State :=
  { first_ with engines := [(0, [{ product 0 with kind := .accrd 16 Ext.zero 7 16 16 (List.replicate 32 3) }])] }

/-- The group of the first instruction, and its run. -/
def firstGroup : Group := (smFind first_.groups 0).getD grp
/-- R93. -/
def firstRun : Run := match firstGroup.ctl with | .run r => r | .between => walk0

theorem witness_step_waits :
    awaitsQueue first_ 0 firstGroup firstRun (.add 3 4 5 bare) = false ∧ awaitsQueue awaiting_ 0 firstGroup firstRun (.add 3 4 5 bare) = true ∧
    entryPlaces first_ 0 firstGroup firstRun (.add 3 4 5 bare) = ([], []) ∧
    (let s := withOne (copyItem { copy4 true with entry := entryBits 1 16 0 256 0x1000 0 } (.stopped (mkRec grp walk0 [] 0 0x83 0 {})))
     entryPlaces s 0 grp walk0 (.ld 4 3 0xD0 bare) = ([0x1000], []) ∧ addressHeld s 0 0x1000 = true) ∧
    (decodeInside [0xF8095001, 0x10030405]).result = .error .illegalOperand ∧
    (decodeInside [0xF8095001, 0x10030405]).words.getLast? = some 0x10030405 ∧ (fetchGroup 0x10030405).pass = none := by
  and_intros <;> first | decide +kernel | rfl

/-- R197, R215: an instruction that names a register of a queued move waits for it, and one that accesses memory for a queued move
of memory, also while a copy of the group has stopped; `WAITB`, which restarts it, does not. -/
theorem test_awaits_the_queue :
    let stopped : State := { awaiting_ with items := [(0, copyItem (copy4 false) (.stopped (mkRec grp walk0 [] 0 0x83 0 {})))] }
    let memory : State := { stopped with engines := [(0, [{ product 0 with kind := .accst 16 Ext.zero 7 16 16 (.mem (raw 0) 0 0 16) }])] }
    awaitsQueue stopped 0 firstGroup firstRun (.add 3 4 5 bare) = true ∧ awaitsQueue stopped 0 firstGroup firstRun (.waitb 0xD5 bare) = false ∧
    awaitsQueue memory 0 firstGroup firstRun (.fence bare) = true ∧ awaitsQueue memory 0 firstGroup firstRun (.st 40 41 0xD0 bare) = true ∧
    awaitsQueue memory 0 firstGroup firstRun (.add 3 4 5 bare) = false := by
  dsimp only; and_intros <;> decide +kernel

theorem witness_steps : first_.agenda = [] ∧ defaultSequencer first_ = some 0 ∧ (seqOf first_ 0).last = none ∧
    (pickGroup { first_ with cycle := first_.cycle + 1, defer := false } 0 0).map (·.1) = some 0 ∧
    (smFind first_.groups 0).map (fun g => match g.ctl with
      | .run r => some (r.strand.isSome, r.replay.isNone) | _ => none) = some (some (true, true)) ∧
    fetchWords first_ 0 ((smFind first_.groups 0).elim 0 fun g => match g.ctl with | .run r => r.base + 4 * r.pos | _ => 0) 1
      = [0x10030405] ∧ (decodeInside [0x10030405]).result = .ok (.add 3 4 5 bare) ∧
    (∀ e ∈ State.reset.groups, groupReady State.reset e.1 e.2 = false) := by and_intros <;> first | decide +kernel | rfl

/-- In a state page 0 of partition 0 stands in frame set 5, in the table and in every TLB that holds a page, and no line is bad. -/
def readsPage (s : State) : Bool :=
  match smFind s.parts 0 with
  | some x => s.mem == imageMemory && x.regs.ptbase == 1 && x.peers.isEmpty && x.lost.isEmpty && x.bad.isEmpty && x.badParity.isEmpty
      && x.aliased.isEmpty && s.dev.chans.isEmpty && (x.tlb.all fun e => e.2.fset == 5 && e.2.w && !e.2.big)
      && x.stlb.all fun e => e.2.fset == 5 && e.2.w && !e.2.big
  | none => false

theorem page_found {α : Type} {m : SMap α} {n va : Nat} {e : α} (h : pageIn m n va = some e) : ∃ k, (k, e) ∈ m := by
  unfold pageIn at h
  split at h
  · rename_i x hx
    cases h
    exact ⟨_, mem_of_smFind hx⟩
  · exact ⟨_, mem_of_smFind h⟩

theorem byte_read (s : State) (h : readsPage s = true) (i : Nat) (hi : i < 0x8000) :
    readBytes s 0 (0x8000 + i) 1 = .ok (imageByte i).toNat := by
  unfold readsPage at h
  split at h
  · rename_i x hx
    simp only [Bool.and_eq_true, beq_iff_eq, List.isEmpty_iff, List.all_eq_true, Bool.not_eq_true'] at h
    obtain ⟨⟨⟨⟨⟨⟨⟨⟨⟨hm, hp⟩, peers⟩, hl⟩, hb⟩, hq⟩, ha⟩, hc⟩, ht⟩, hs⟩ := h
    have w : channelWalk s 0 (0x8000 + i) = .page 5 true false false := by
      unfold channelWalk
      rw [hx]
      dsimp only
      rw [if_neg (by omega)]
      split
      · rename_i e he
        obtain ⟨k, hk⟩ := page_found he
        obtain ⟨⟨a, b⟩, c⟩ := ht _ hk
        dsimp only at a b c
        rw [a, b, c]
      · split
        · rename_i e he
          obtain ⟨k, hk⟩ := page_found he
          obtain ⟨⟨a, b⟩, c⟩ := hs _ hk
          dsimp only at a b c
          rw [a, b, c]
        · unfold walk
          rw [hx]
          dsimp only
          rw [if_pos (by omega), walk_first_page _ _ _ _ _ _ (by omega), hm, hp]
          decide +kernel
    have l : lineLost s x (0x8000 + i) = false := by
      simp [lineLost, lineBad, parityBad, channelFailed, hl, hb, hc]
    have k : pageKey 0 (0x8000 + i) 5 false = 10518528 + i := by
      simp only [pageKey, physKey]
      rw [if_neg (by decide), Nat.mod_eq_of_lt (by omega)]
      omega
    have o : openLine x 5 (0x8000 + i) false = false := by simp [openLine, ha]
    unfold readBytes
    rw [hx]
    dsimp only
    rw [show peerWindowOf x (0x8000 + i) = none by simp [peerWindowOf, peers]]
    dsimp only
    rw [w]
    simp [l, o, k, hm, memRead, imageByte]
  · cases h

theorem image_read (s : State) (h : readsPage s = true) (n : Nat) : ∀ i, i + n ≤ 0x8000 →
    blockBytesAt s 0 (0x8000 + i) n = .ok ((List.range n).map fun j => imageByte (i + j)) := by
  induction n with
  | zero => intro i _; rfl
  | succ n ih =>
    intro i hi
    unfold blockBytesAt
    rw [byte_read s h i (by omega)]
    simp only [faultAt, bind, Except.bind]
    rw [show 0x8000 + i + 1 = 0x8000 + (i + 1) from by omega, ih (i + 1) (by omega), List.range_succ_eq_map]
    simp [List.map_map, Function.comp_def, Nat.add_comm, Nat.add_left_comm]

/-- What `CTXLD` sees of that state. -/
def imageCtx : Ctx := gctx withImage 0 loading_ walk0 (.ctxld 0xD0 0xD9 bare) false

/-- The state in which it has read its image. -/
def imageSeen_ : State := (withRead imageCtx (contextLines imageCtx (raw 9)) (imageSize imageCtx.g)).s

theorem witness_context_load :
    (Meets withImage loading_ (.ctxld 0xD0 0xD9 bare) false fun c => imageAt c (raw 9) ∧ c.g.ctxReq = none ∧
      (entryOf (raw 9)).base + resourceIndex c c.a = 0x8000 ∧ imageSize c.g = 12544 ∧ (entryOf (raw 9)).gre = false ∧
      readsFree c (contextLines c (raw 9)) (imageSize c.g)) ∧
    plainPlace imageSeen_ 0 0x8000 ∧
    entryBytes imageSeen_ 0 (entryOf (raw 9)) 0 12544 = .ok ((List.range 12544).map imageByte) ∧
    imageFits loading_ ((List.range 12544).map imageByte) = true ∧ imageGrants ((List.range 12544).map imageByte) = true := by
  refine ⟨?_, ?_, ?_, by decide +kernel, by decide +kernel⟩
  · unfold Meets Issues imageAt CheckedKinds readsFree
    dsimp only
    and_intros <;> first | decide +kernel | exact ok_of (by decide +kernel)
  · unfold plainPlace; and_intros <;> decide +kernel
  · have g : (entryOf (raw 9)).gre = false := by decide +kernel
    have b : (entryOf (raw 9)).base = 0x8000 := by decide +kernel
    have h := image_read imageSeen_ (by decide +kernel) 12544 0 (by decide)
    simp only [Nat.zero_add] at h
    unfold entryBytes
    rw [g, b]
    exact h

theorem witness_jobs_suspend :
    channelHeld (putStack (withOne (job2 false)) 0 { held := true, takeover := false }) 0 = true ∧
    ordinaryWaits { withOne (job2 false) with reqs := [(0, request 0 (.load 4))] } 0 (channelOf part 0x2000)
      (wouldHold (withOne (job2 false)) (job2 false) (newJob [phase0] 0 2 none) (channelOf part 0x2000)
        { rows := [0, 1], phase := 0, acc := [], prev := [], images := [0], suspended := false, stopped := false, counted := false }) = true := by
  and_intros <;> decide +kernel

theorem witness_containment : st.groups = [(0, grp)] ∧ smFind (launching .running).launches 3 = some (launch1 .running) := by
  and_intros <;> first | rfl | decide +kernel

/-- The engine with one instruction of another kind. -/
def engineOf (kind : EngKind) : State := { st with cur := none, engines := [(0, [{ product 0 with kind := kind, owned := none }])] }

theorem witness_engine_kinds :
    ∀ kind ∈ [EngKind.accz 2, .scacc 0 4 16 16,
      .mma true 18 0 16 16 48 (.frag (List.replicate 1600 0)) (.frag (List.replicate 1536 0))],
      engineChoice (engineOf kind) (smGet [] (engineOf kind).engines 0) = some (0, { product 0 with kind := kind, owned := none }) ∧
      ownershipWaits (engineOf kind) { product 0 with kind := kind, owned := none } = false := by decide +kernel

/-- A chair whose list holds one item, which its home has, and whose timer has expired. -/
def seated : State :=
  { launching .running with
    launches := [(3, { launch1 .running with chair := some chair1 })]
    parts := [(0, { part with resident := [(0x3000, [(0, 9)])] })]
    mem := memPut memory (physKey 0 5 0x3008) [1] }

theorem witness_chair_groups : launchKernel seated { launch1 .running with chair := some chair1 } = some kern ∧
    dieOfCore 3 = homeDie part 0x3000 ∧ holdsCluster part (clusterOfCore 3) = true ∧
    (readList seated 0 (entryOf (raw 3))).toOption.map (fun l => l.tail - l.head) = some 1 ∧ chairDue chair1 1 = true ∧
    higherWaits seated 0 part 0 0 = false ∧ coreFits seated noneGone 3 (needOf 1 kern) = true ∧
    (∀ va ∈ (touchPop seated 0 32 (entryOf (raw 3))).reads ++ (touchPop seated 0 32 (entryOf (raw 3))).writes,
      addressHeld seated 0 va = false) ∧
    (popList (linesRead seated 0 3 (touchPop seated 0 32 (entryOf (raw 3))).reads) 0 (entryOf (raw 3)) 32).toOption.map (fun x => x.2)
      = some [9] := by and_intros <;> decide +kernel

/-- A handler's kernel. -/
def handler : Kernel := { kern with nreg := 64, nureg := 48 }

theorem witness_handler_entry :
    let x := { part with regs := { part.regs with fltvec := 2 }, kernels := [(1, kern), (2, handler)] }
    let s := { st with parts := [(0, x)] }
    x.regs.fltvec ≠ 0 ∧ findKernel s 0 2 = some handler ∧ handler.nreg = 64 ∧ handler.nureg = 48 ∧
      passTrapped (passing false) = 0 ∧ setE (passing false) (.trap 1 bare) = 0xFFFFFFFF ∧
      issuing (ofGroup (passing false)) = some (0, passing false, walk0) ∧ { recorded false with trapvec := 0 }.trapvec = 0 := by
  dsimp only; and_intros <;> decide +kernel

theorem witness_gate_end : ({ walk0 with strand := none, pos := 6 } : Run).pos + 1 = ({ walk0 with strand := none } : Run).len := by decide

theorem witness_handle_answers :
    attachKinds (gctx st 0 grp walk0 (.lattach 5 0xDB 0xD0 bare) true) (raw 0) (raw 11) ∧
    (layerFits st 0 (entryOf (raw 0)) (entryOf (raw 11)) = .ok true) ∧
    layerFits st 0 (entryOf (raw 0)) (entryOf (raw 11 + BitVec.ofNat 512 (2 ^ 128))) = .ok false ∧
    viewRoom [(0, (2 ^ 23, 0x3900))] 1 0 = none := by
  unfold attachKinds; and_intros <;> first | decide +kernel | exact ok_of (by decide +kernel)

theorem witness_full_pool : 4096 ≤ ({ part with pool := List.replicate 4096 3 } : Partition).pool.length :=
  Nat.le_of_eq (List.length_replicate).symm

theorem witness_canonical : MemCanonical st ∧ TilesCanonical st ∧ (∃ t, step { st with cur := none } = .next t) := by
  refine ⟨?_, ?_, ?_⟩
  · unfold MemCanonical; and_intros <;> decide +kernel
  · unfold TilesCanonical Group.TilesCanonical; and_intros <;> decide +kernel
  · have h : (match step { st with cur := none } with | .next _ => true | _ => false) = true := by decide +kernel
    cases e : step { st with cur := none } with
    | next t => exact ⟨t, rfl⟩
    | fault f => rw [e] at h; cases h
    | refused r => rw [e] at h; cases h

theorem witness_round_trip : (Instr.add 3 4 5 bare).encodable = true ∧ (Instr.str 62 1023).encodable = true ∧
    (Instr.ill [0xF9000000] 0xFFFFFF).encodable = true := by decide +kernel

theorem witness_dram_error : (∀ va ∈ [(0x2000 : Nat), 0x207F], va / 128 * 128 ∉ part.bad) ∧ smFind st.parts 0 = some part := by
  and_intros <;> decide +kernel

/-! ### Witnesses of the statements about contexts, gates, the launch unit, bindings, the loader and the engine -/

/-- The group between gates, its latches stale, with a save or a load requested. -/
def atEnd (r : CtxReq) : Group :=
  { loading_ with ctl := .between, lanes := laneIxs.map fun _ => laneInit 0, ctxReq := some r }

/-- What a step writes, or its state when it cannot. -/
def orStays (s : State) (write : State → Nat → Except (BitVec 8) State) : Nat → State
  | 0 => s
  | n + 1 => match write (orStays s write n) n with
    | .ok t => t
    | .error _ => orStays s write n

theorem witness_contexts_take_effect :
    let g := atEnd (.save 5 0x8000 (raw 9))
    AtLastSteps (ofGroup g) 0 g ∧ (entryOf (raw 9)).gwe = false ∧ g.batches = [] ∧
    accessWaits (ofGroup g) 0 0 (linesFrom 0x8000 (imageSize g)) (imageSize g) = false ∧
    AtLastSteps (ofGroup (atEnd (.load []))) 0 (atEnd (.load [])) ∧
    (List.replicate (imageSize loading_) (0 : Byte)).length = imageSize loading_ ∧ occupiedOf g 0xFFFFFFFF ≠ 0 := by
  unfold AtLastSteps
  have free : ∀ r, ∀ l < 32, (getLane (atEnd r) l).hold = .free := by
    intro r
    show ∀ l < 32, (getLane (atEnd (.load [])) l).hold = .free
    decide +kernel
  dsimp only
  and_intros <;> first | (intro l hl rec; rw [free _ l hl]; nofun) | decide +kernel

theorem witness_image_bytes (s : State) (write : State → Nat → Except (BitVec 8) State) (i : Nat) :
    write (orStays s write i) i = .ok (orStays s write (i + 1)) ∨
      ((∃ c, write (orStays s write i) i = .error c) ∧ orStays s write (i + 1) = orStays s write i) := by
  rw [orStays]
  cases write (orStays s write i) i with
  | ok t => exact .inl rfl
  | error c => exact .inr ⟨⟨c, rfl⟩, rfl⟩

theorem witness_gates : ExactGate [gate0] 1 gate0 ∧ LongestWaiting [] 3 0 ∧ SidestepGate [gate0] 3 0 gate0 ∧ codeKept withGate grp kern gate0 := by
  unfold ExactGate LongestWaiting SidestepGate codeKept; and_intros <;> decide +kernel

theorem witness_launch_bytes :
    rateAllows st 0 0 (4 * (signalsToRead st { launch1 .waiting with lrec := record2 }).length) = true ∧
    requestWaits st 0 0x50000 = false ∧ rateAllows st 0 0 4 = true ∧
    (readBytes (takeBytes st 0 0 4) 0 0x2000 4).toOption = some 0 ∧
    (writeBytes (lineRequest 0 0 none true (takeBytes st 0 0 4) 0x2000) 0 0x2000 4 0).toBool = true ∧
    smFind st.crews grp.crew = some crew7 ∧ crew7.live ≤ 1 ∧ (launch1 .running).chair = none ∧
    (launch1 .running).retired + 1 = recField (launch1 .running).lrec 128 32 ∧ recSignal (launch1 .running).lrec = 0 ∧
    recField record3 128 32 = 1 ∧
    (let lines := touchPop seated 0 32 (entryOf (raw 3))
     rateAllows seated 0 (dieOfCore 3) lines.bytes = true ∧
     (popList (linesRead (takeBytes seated 0 (dieOfCore 3) lines.bytes) 0 3 lines.reads) 0 (entryOf (raw 3)) 32).toOption.map (fun x => x.2)
       = some [9] ∧
     32 * 3 + 0 ∉ (seated.crews.filter fun e => e.2.core == some 3).flatMap fun e => e.2.slots) := by
  dsimp only; and_intros <;> decide +kernel

/-- Entry 0 with a token, of kind 0. -/
def token1 : BitVec 512 := BitVec.ofNat 512 (2 ^ 448)

theorem witness_bindings : requestWaits st 0 (entryVa st 0 5) = false ∧ bitsOf (entryOf (raw 5)).ksp 0 32 = 0 ∧
    (entryOf token1).kind = 0 ∧ bitsOf (entryOf token1).ksp 0 32 ≠ 0 ∧
    resourceEntry (writeEntry st 0 5 token1) 0 5 = .ok token1 ∧ requestWaits (writeEntry st 0 5 token1) 0 (entryVa st 0 5) = false := by
  and_intros <;> first | decide +kernel | exact ok_of (by decide +kernel)

/-- A plan that leaves the symbol of entry 40,000, which a `RES` has named, to a `RES`. -/
def farPlan : LoadPlan := { lplan with syms := [(40000, none)] }

theorem witness_treatment : planTreats partB.named (mimg 3) lplan = true ∧ partHeld runB partB = false ∧
    planTreats [40000] { mimg 3 with resSyms := 1 } farPlan = true ∧ symbolsFit { partB with named := [40000] } farPlan = false ∧
    imageOk { mimg 3 with resSyms := 1 } = true ∧
    planTreats [] (mimg 1) cplan.load = true ∧ partHeld fresh (newPartition body1 cplan) = false ∧
    requestWaits runB 0 (entryVa runB 0 5) = false ∧ requestWaits run_ 0 0x2000 = false := by and_intros <;> decide +kernel

theorem witness_queue_registers :
    (Meets st grp (.mma 1 7 8 0xE8 bare) true fun c => fragMoved c c.a (shapeA false c.ty 16 32) = false ∧
      fragMoved c c.b (shapeB c.ty 16 32) = false) ∧
    (Meets (ofGroup blocks) blocks (.mmabx 1 4 8 0xE8 (typed 21)) true fun c => fragMoved c c.a (shapeBlocks c.ty 16) = false ∧
      fragMoved c c.b (shapeBlocks c.ty 16) = false) ∧
    (Meets st grp (.accrd 8 7 1 (typed 16)) true fun c => ∀ l < 32, fragmentReads c.s c.k l ((getLane c.g l).win.toNat + c.d) 8 = false) := by
  unfold Meets Issues; dsimp only; and_intros <;> decide +kernel

/-- A sparse product of 16 by 16 by 48, a block product of run 3, a fold, with their operands of zeros. -/
theorem witness_products : (product 0).cycle ≠ (engine 0).cycle ∧ 8 * 5 + 8 ≤ 48 ∧ 48 % 48 = 0 ∧
    (List.replicate (16 * rowBytes 18 24 + 16 * (48 / 24 * 4)) (0 : Byte)).length = 16 * rowBytes 18 (48 / 2) + 16 * (48 / 24 * 4) ∧
    (List.replicate (16 * blockBytes 21) (0 : Byte)).length = 16 * blockBytes 21 ∧ tyIsBlock 21 = true ∧
    engineChoice (engineOf (.mmabx 21 4 16 16 (.frag []) (.frag []))) (smGet [] (engineOf (.mmabx 21 4 16 16 (.frag []) (.frag []))).engines 0)
      = some (0, { product 0 with kind := .mmabx 21 4 16 16 (.frag []) (.frag []), owned := none }) ∧
    (∀ q < 4, smWf 0 (tileOf grp (4 + q)).elems = true) ∧ smWf 0 (tileOf grp 4).xa = true ∧ smWf 0 (tileOf grp 4).xb = true := by
  and_intros <;> decide +kernel

theorem witness_peer_reads : 0x2000 % 128 + 4 ≤ 128 ∧ outsideWaits runB 0 0x2000 4 = false ∧
    channelWalk runB 0 0x2000 = .page 5 true false false ∧ lineLost runB partB 0x2000 = false := by and_intros <;> decide +kernel

end Sys2Proof.Tests
end

section
/-!
PROOFS. Lane instructions (spec/07_lane.md, and the compares of spec/09_bitfloat.md): what their statements say of operands, of
results and of completion, tied to the model's own functions.
-/
namespace Sys2Proof.Proofs

open Sys2Proof.Machine Sys2Proof.Claims

/-! ### Operands -/

theorem toOption_eq_some {ε α : Type} {e : Except ε α} {v : α} : e.toOption = some v ↔ e = .ok v := by
  cases e with
  | ok x => simp only [Except.toOption, Option.some.injEq, Except.ok.injEq]
  | error x => simp only [Except.toOption, reduceCtorEq]

/-- An operand of the statements has a value when the model reads it. -/
theorem val_eq_some {c : Ctx} {code : Nat} {t : BitVec 5} {v : Nat} : val c code t = some v ↔ readTy c code t = .ok v :=
  toOption_eq_some

theorem packed_eq_some {c : Ctx} {code v : Nat} : packed c code = some v ↔ readPacked c code c.ty = .ok v :=
  toOption_eq_some

theorem addend_eq_some {c : Ctx} {w v : Nat} : addend c w = some v ↔ readAddend c w = .ok v :=
  toOption_eq_some

theorem intOf_eq_some {c : Ctx} {code : Nat} {x : Int} :
    intOf c code = some x ↔ ∃ v, readTy c code c.ty = .ok v ∧ intVal c.ty v = x := by
  simp only [intOf, Option.map_eq_some_iff, val_eq_some]

theorem fltOf_eq_some {c : Ctx} {code : Nat} {x : FVal} :
    fltOf c code = some x ↔ ∃ v, readTy c code c.ty = .ok v ∧ fval (formatOf c.ty) v = x := by
  simp only [fltOf, Option.map_eq_some_iff, val_eq_some]

/-- R46: a register pair holds 64 bits. -/
theorem pair_lt (lo hi : Word) : lo.toNat + 2 ^ 32 * hi.toNat < 2 ^ 64 := by
  have := lo.isLt
  have := hi.isLt
  omega

theorem regValue_lt (ln : Lane) (slot w : Nat) : regValue ln slot w < 2 ^ w := by
  unfold regValue
  split
  · subst w; exact pair_lt _ _
  · exact Nat.mod_lt _ (Nat.two_pow_pos w)

theorem slotValue_lt (g : Group) (slot w : Nat) : slotValue g slot w < 2 ^ w := by
  unfold slotValue
  split
  · subst w; exact pair_lt _ _
  · exact Nat.mod_lt _ (Nat.two_pow_pos w)

/-- A source operand fits its width when every constant does. -/
theorem readLane_lt {c : Ctx} {code w v : Nat} {kst : Nat → Nat} (hk : ∀ k, kst k < 2 ^ w)
    (h : readLane c code w kst = .ok v) : v < 2 ^ w := by
  have hmod : ∀ x, x % 2 ^ w < 2 ^ w := fun x => Nat.mod_lt _ (Nat.two_pow_pos w)
  unfold readLane at h
  split at h
  case isTrue =>
    split at h
    case isTrue => cases h; exact regValue_lt _ _ _
    case isFalse => cases h
  case isFalse =>
    split at h
    case isTrue => cases h; exact hk _
    case isFalse =>
      split at h
      case isTrue =>
        cases hl : latchOf c.ln code with
        | some x => rw [hl] at h; cases h; exact hmod _
        | none => rw [hl] at h; cases h
      case isFalse =>
        split at h
        case isTrue => cases h; exact hmod _
        case isFalse =>
          split at h
          case isTrue => cases h; exact hmod _
          case isFalse =>
            split at h
            case isTrue => cases h
            case isFalse => cases h; exact slotValue_lt _ _ _

/-- R48, R70: a constant read at an integer type fits the type. -/
theorem constAt_lt_of_int {t : BitVec 5} (ht : tyIsInt t = true) (k : Nat) : constAt t k < 2 ^ tyBits t := by
  have hlt := Int.emod_lt_of_pos (constInt k) (Int.pow_pos (m := tyBits t) (show (0 : Int) < 2 by decide))
  have hcast : ((2 ^ tyBits t : Nat) : Int) = 2 ^ tyBits t := Int.natCast_pow 2 _
  rw [constAt, if_pos ht]
  omega

theorem readTy_lt_of_int {c : Ctx} {code v : Nat} {t : BitVec 5} (ht : tyIsInt t = true) (h : readTy c code t = .ok v) :
    v < 2 ^ tyBits t :=
  readLane_lt (constAt_lt_of_int ht) h

/-! ### Types -/

/-- R55, R57: the type of a sound encoding is one that its instruction accepts. -/
theorem ty_mem_of_legal {i : Instr} {c : Ctx} {types : List (BitVec 5)} (hl : legal i = true) (ht : c.ty = typeOf i)
    (hty : (shapeOf i).types = types) (hne : types.isEmpty = false) : c.ty ∈ types := by
  have hok : typeOk i = true := by
    simp only [legal, Bool.and_eq_true, and_assoc] at hl
    exact hl.1
  simpa only [typeOk, hty, hne, Bool.false_eq_true, ↓reduceIte, ← ht, List.contains_eq_mem, decide_eq_true_eq] using hok

theorem tyIsInt_of_mem_tyInt : ∀ t ∈ tyInt, tyIsInt t = true := by decide

theorem tyBits_pos_of_mem_tyInt : ∀ t ∈ tyInt, 0 < tyBits t := by decide

theorem tyBits_doubleType : ∀ t ∈ tyNarrow, tyBits (doubleType t) = 2 * tyBits t := by decide

theorem tyBits_of_mem_tyWide : ∀ t ∈ tyWide, tyBits t = 32 ∨ tyBits t = 64 := by decide

theorem formatOf_bits_of_mem_tyHalf : ∀ t ∈ tyHalf, (formatOf t).bits = 16 := by decide

/-- R55: the types of 64 bits. -/
theorem is64_eq : ∀ t : BitVec 5, is64 t = (tyBits t == 64) := by decide

/-! ### Results -/

/-- R148: an inactive lane of a compare takes no trap. -/
theorem pairIdle_hold (ln : Lane) (q q' cmb : Nat) : (pairIdle ln q q' cmb).hold = ln.hold := by
  unfold pairIdle; split <;> rfl

/-- R42, R46, R47: a result whose destination is allocated is written. -/
theorem writeLane_eq_written {c : Ctx} {rt : BitVec 5} (v : Nat) (hd : destInside c c.d rt = true) :
    writeLane c c.ln c.d rt v = .ok (written c rt v) := by
  unfold writeLane written regsWith
  by_cases h : 0x80 ≤ c.d
  · simp only [ge_iff_le, if_pos h]; rfl
  · have hr : regInside c.g c.ln c.d (tyBits rt) = true := by
      simpa only [destInside, ge_iff_le, h, decide_false, Bool.false_or] using hd
    simp only [ge_iff_le, if_neg h, if_pos hr]
    split <;> rfl

/-- R70: the range of an integer type is not empty. -/
theorem intMin_le_intMax (t : BitVec 5) : intMin t ≤ intMax t := by
  have hpos : ∀ n, (0 : Int) < 2 ^ n := fun _ => Int.pow_pos (by decide)
  have h1 := hpos (tyBits t - 1)
  have h2 := hpos (tyBits t)
  unfold intMin intMax
  split <;> omega

/-- R71: the two ways to write a clamp and a reduction. -/
theorem intFit_eq_fitted (t : BitVec 5) (sat : Bool) (x : Int) : intFit t sat x = fitted t sat x := by
  have hr := intMin_le_intMax t
  cases sat with
  | false => rfl
  | true =>
    have hclamp : (if x < intMin t then intMin t else if x > intMax t then intMax t else x) = max (intMin t) (min (intMax t) x) := by
      split
      · omega
      · split <;> omega
    simp only [intFit, fitted, if_true, hclamp]

/-! ### Completion -/

/-- One lane after an instruction that changes the lanes of E by `f` and the selected lanes outside E by `idle`. -/
def laneAfter (s : State) (k : Nat) (g : Group) (r : Run) (i : Instr) (f idle : Ctx → Lane) (l : Nat) (ln : Lane) : Lane :=
  if (setE g i).getLsbD l then f (ctx s k g r i l)
  else if (selectedMask g).getLsbD l then idle (ctx s k g r i l) else ln

/-- The state that a completion states changes each lane by `laneAfter`. -/
theorem afterLanes_eq (s : State) (k : Nat) (g : Group) (r : Run) (i : Instr) (f idle : Ctx → Lane) :
    afterLanes s k g r i f idle = putGroup s k (advance (mapLanes g (laneAfter s k g r i f idle)) r i) := rfl

/-- A lane instruction whose body answers in a lane of E changes the lane by its answer. -/
theorem laneStep_eq_laneAfter {i : Instr} {body : Ctx → Except (BitVec 8) Lane} {f idle : Ctx → Lane} {s : State} {k : Nat} {g : Group}
    {r : Run} {l : Nat} (ln : Lane) (h : (setE g i).getLsbD l = true → laneBody body (ctx s k g r i l) = .ok (f (ctx s k g r i l))) :
    laneStep i body idle s k g r l ln = laneAfter s k g r i f idle l ln := by
  unfold laneAfter
  by_cases he : (setE g i).getLsbD l = true
  · have hb := h he
    rw [if_pos he]
    refine (if_pos he).trans ?_
    simp only [ctx, setE] at hb ⊢
    rw [hb]
  · rw [if_neg he]
    exact if_neg he

/-- No lane's hold changes when neither an executing lane nor an inactive one changes its own. -/
theorem laneAfter_hold {s : State} {k : Nat} {g : Group} {r : Run} {i : Instr} {f idle : Ctx → Lane} {l : Nat}
    (hf : ∀ c, (f c).hold = c.ln.hold) (hidle : ∀ c, (idle c).hold = c.ln.hold) :
    (laneAfter s k g r i f idle l (getLane g l)).hold = (getLane g l).hold := by
  unfold laneAfter
  split
  · exact hf _
  · split
    · exact hidle _
    · rfl

/-- When the body of a lane instruction answers in every lane of E, and no answer takes a trap, the instruction completes with the
answers. -/
theorem laneChange_of_body {i : Instr} {body : Ctx → Except (BitVec 8) Lane} {f idle : Ctx → Lane} {ok : Ctx → Bool}
    (hexec : ∀ s, exec i s = execLaneWith i body idle s)
    (hbody : ∀ c, legal i = true → c.ty = typeOf i → ok c = true → body c = .ok (f c))
    (hf : ∀ c, (f c).hold = c.ln.hold) (hidle : ∀ c, (idle c).hold = c.ln.hold) : LaneChange i ok f idle := by
  intro s k g r hiss hl hok
  obtain ⟨hiss, hp⟩ := hiss
  have step : ∀ l < 32, laneStep i body idle s k g r l (getLane g l) = laneAfter s k g r i f idle l (getLane g l) := by
    refine fun l hlt => laneStep_eq_laneAfter _ fun he => ?_
    obtain ⟨hn, hc⟩ := hok l hlt he
    exact (if_pos hn).trans (hbody _ hl rfl hc)
  have quiet : passTrapped (advance (mapLanes g (laneAfter s k g r i f idle)) r i) = 0 := by
    rw [passTrapped_mapLanes _ _ _ _ fun l _ => laneAfter_hold hf hidle, hp]
  rw [hexec, execLaneWith_legal hiss hl, mapLanes_congr g step, settle_of_none quiet, afterLanes_eq]

/-- When the body of a lane instruction writes the value that is stated of its operands, the instruction completes with it. -/
theorem laneResult_of_body {i : Instr} {body : Ctx → Except (BitVec 8) Lane} {rt : BitVec 5} {value : Ctx → Option Nat}
    (hexec : ∀ s, exec i s = execLane i body s)
    (hbody : ∀ c v, legal i = true → c.ty = typeOf i → value c = some v → body c = writeLane c c.ln c.d rt v) :
    LaneResult i rt value := by
  refine laneChange_of_body hexec (fun c hl ht hok => ?_) (fun _ => rfl) fun _ => rfl
  obtain ⟨hd, hv⟩ := Bool.and_eq_true_iff.1 hok
  obtain ⟨v, hv⟩ := Option.isSome_iff_exists.1 hv
  rw [hbody c v hl ht hv, hv]
  exact writeLane_eq_written v hd

/-! ### Integer results -/

/-- R139: an instruction with two integer operands completes with the exact result fitted to the type; `sat` says that `.sat`
applies. -/
theorem laneResult_ofInts {i : Instr} {sat : Bool} {op : BitVec 5 → Bool → Int → Int → Nat} {exact : Ctx → Int → Int → Int}
    (hexec : ∀ s, exec i s = execLane i (laneIntBin op) s)
    (hop : ∀ c x y, op c.ty (satOf c) x y = intFit c.ty (sat && satOf c) (exact c x y)) :
    LaneResult i (typeOf i) (ofInts sat exact) := by
  refine laneResult_of_body hexec fun c v _ ht hv => ?_
  simp only [ofInts, Option.bind_eq_bind, Option.bind_eq_some_iff, intOf_eq_some, Option.some.injEq] at hv
  obtain ⟨x, ⟨a, ha, rfl⟩, y, ⟨b, hb, rfl⟩, rfl⟩ := hv
  rw [laneIntBin, ha, hb, ← ht, ← intFit_eq_fitted]
  exact congrArg (writeLane c c.ln c.d c.ty) (hop _ _ _)

/-- R139: an instruction with one integer operand completes with the exact result fitted to the type. -/
theorem laneResult_ofInt {i : Instr} {op : BitVec 5 → Bool → Int → Nat} {exact : Int → Int}
    (hexec : ∀ s, exec i s = execLane i (laneIntUn op) s)
    (hop : ∀ t sat x, op t sat x = intFit t sat (exact x)) : LaneResult i (typeOf i) (ofInt exact) := by
  refine laneResult_of_body hexec fun c v _ ht hv => ?_
  simp only [ofInt, Option.bind_eq_bind, Option.bind_eq_some_iff, intOf_eq_some, Option.some.injEq] at hv
  obtain ⟨x, ⟨a, ha, rfl⟩, rfl⟩ := hv
  rw [laneIntUn, ha, ← ht, ← intFit_eq_fitted]
  exact congrArg (writeLane c c.ln c.d c.ty) (hop _ _ _)

/-- R139: the lesser of two integers, fitted. -/
theorem opMin_eq (t : BitVec 5) (sat : Bool) (x y : Int) : opMin t sat x y = intFit t false (min x y) := by
  rw [opMin, Int.min_def]

/-- R139: the greater. -/
theorem opMax_eq (t : BitVec 5) (sat : Bool) (x y : Int) : opMax t sat x y = intFit t false (max x y) := by
  rw [opMax, Int.max_def]

/-- R139: the absolute value. -/
theorem opAbs_eq (t : BitVec 5) (sat : Bool) (x : Int) : opAbs t sat x = intFit t sat (max x (-x)) := by
  have habs : (x.natAbs : Int) = max x (-x) := by omega
  rw [opAbs, habs]

/-- R139, R140: the product and the addend are read one after the other and their exact sum is fitted. -/
theorem mad_completes (d a b : BitVec 8) (m : Mods) : LaneResult (.mad d a b m) (typeOf (.mad d a b m)) (fun c => do
    let x ← intOf c c.a
    let y ← intOf c c.b
    let z ← addend c (tyBits c.ty)
    some (fitted c.ty (extOf c.i).sat (x * y + intVal c.ty z))) := by
  refine laneResult_of_body (fun _ => rfl) fun c v _ ht hv => ?_
  simp only [Option.bind_eq_bind, Option.bind_eq_some_iff, intOf_eq_some, addend_eq_some, Option.some.injEq] at hv
  obtain ⟨x, ⟨a, ha, rfl⟩, y, ⟨b, hb, rfl⟩, z, hz, rfl⟩ := hv
  rw [ha, hb, hz, ← ht, ← intFit_eq_fitted]
  rfl

/-- Settles O1: each instruction reads its operands, fits the exact result of R139 and writes it. -/
theorem integerArithmetic : Obligations.IntegerArithmetic := by
  unfold Obligations.IntegerArithmetic
  intro d a b m
  refine ⟨?_, ?_, ?_, ?_, ?_, ?_, ?_, ?_, ?_⟩
  · exact laneResult_ofInts (fun _ => rfl) fun _ _ _ => rfl
  · exact laneResult_ofInts (fun _ => rfl) fun _ _ _ => rfl
  · exact laneResult_ofInts (fun _ => rfl) fun _ _ _ => rfl
  · exact laneResult_ofInts (fun _ => rfl) fun _ _ _ => rfl
  · exact mad_completes d a b m
  · exact laneResult_ofInts (fun _ => rfl) fun _ => opMin_eq _ _
  · exact laneResult_ofInts (fun _ => rfl) fun _ => opMax_eq _ _
  · exact laneResult_ofInt (fun _ => rfl) opAbs_eq
  · exact laneResult_ofInt (fun _ => rfl) fun _ _ _ => rfl

/-! ### Patterns -/

/-- R141: an instruction on the patterns of two operands completes with what it computes of them. -/
theorem laneResult_ofPatterns {i : Instr} {op : Nat → Nat → Nat → Nat} (hexec : ∀ s, exec i s = execLane i (laneBits op) s) :
    LaneResult i (typeOf i) (ofPatterns op) := by
  refine laneResult_of_body hexec fun c v _ ht hv => ?_
  simp only [ofPatterns, Option.bind_eq_bind, Option.bind_eq_some_iff, val_eq_some, Option.some.injEq] at hv
  obtain ⟨x, hx, y, hy, rfl⟩ := hv
  rw [laneBits, hx, hy, ← ht]
  rfl

/-- R142: a shift completes with the pattern that is stated of every pattern of its width. -/
theorem laneResult_ofShift {i : Instr} {op exact : Nat → Nat → Nat → Nat} (hexec : ∀ s, exec i s = execLane i (laneShift op) s)
    (hty : (shapeOf i).types = tyInt) (hop : ∀ w x n, 0 < w → x < 2 ^ w → op w x n = exact w x n) :
    LaneResult i (typeOf i) (ofShift exact) := by
  refine laneResult_of_body hexec fun c v hl ht hv => ?_
  have hmem : c.ty ∈ tyInt := ty_mem_of_legal hl ht hty rfl
  simp only [ofShift, Option.bind_eq_bind, Option.bind_eq_some_iff, val_eq_some, Option.some.injEq] at hv
  obtain ⟨x, hx, n, hn, rfl⟩ := hv
  rw [laneShift, hx, readN32, hn, ← ht,
    ← hop _ _ _ (tyBits_pos_of_mem_tyInt _ hmem) (readTy_lt_of_int (tyIsInt_of_mem_tyInt _ hmem) hx)]
  rfl

/-- An instruction on the pattern of one operand completes with the pattern that is stated. -/
theorem laneResult_ofPattern {i : Instr} {rt : BitVec 5} {body : Ctx → Except (BitVec 8) Lane} {exact : Nat → Nat → Nat}
    (hexec : ∀ s, exec i s = execLane i body s)
    (hbody : ∀ c x, c.ty = typeOf i → readTy c c.a c.ty = .ok x → body c = writeLane c c.ln c.d rt (exact (tyBits c.ty) x)) :
    LaneResult i rt (ofPattern exact) := by
  refine laneResult_of_body hexec fun c v _ ht hv => ?_
  simp only [ofPattern, Option.bind_eq_bind, Option.bind_eq_some_iff, val_eq_some, Option.some.injEq] at hv
  obtain ⟨x, hx, rfl⟩ := hv
  exact hbody c x ht hx

/-- R144: a widening instruction completes with the exact result reduced modulo 2^(2w). -/
theorem laneResult_atDouble {i : Instr} {op : Int → Int → Int} (hexec : ∀ s, exec i s = execLane i (laneWiden op) s)
    (hty : (shapeOf i).types = tyNarrow) : LaneResult i (doubleType (typeOf i)) (atDouble op) := by
  refine laneResult_of_body hexec fun c v hl ht hv => ?_
  have hmem : c.ty ∈ tyNarrow := ty_mem_of_legal hl ht hty rfl
  simp only [atDouble, Option.bind_eq_bind, Option.bind_eq_some_iff, intOf_eq_some, Option.some.injEq] at hv
  obtain ⟨x, ⟨a, ha, rfl⟩, y, ⟨b, hb, rfl⟩, rfl⟩ := hv
  rw [laneWiden, ha, hb, ← ht, ← tyBits_doubleType _ hmem]
  rfl

/-- R142: the copies that shift in are those of bit w - 1. -/
theorem testBit_top_iff {w x : Nat} (hw : 0 < w) (hx : x < 2 ^ w) : x.testBit (w - 1) = true ↔ 2 ^ w ≤ 2 * x := by
  have hpow : 2 ^ w = 2 * 2 ^ (w - 1) := by rw [Nat.mul_comm, Nat.two_pow_pred_mul_two hw]
  constructor
  · intro h
    have := Nat.ge_two_pow_of_testBit h
    omega
  · intro h
    exact Nat.testBit_of_two_pow_le_and_two_pow_add_one_gt (by omega) (by rw [Nat.sub_add_cancel hw]; exact hx)

/-- R142: the arithmetic shift. -/
theorem opSar_eq (w x n : Nat) (hw : 0 < w) (hx : x < 2 ^ w) : opSar w x n = arithShift w x (min n (w - 1)) := by
  simp only [opSar, arithShift, ge_iff_le, testBit_top_iff hw hx]

/-- Settles O2: each instruction reads its patterns, computes the result of R141 to R144 and writes it. -/
theorem logicAndShifts : Obligations.LogicAndShifts := by
  unfold Obligations.LogicAndShifts
  intro d a b m
  refine ⟨?_, ?_, ?_, ?_, ?_, ?_, ?_, ?_, ?_, ?_, ?_, ?_, ?_, ?_⟩
  · exact laneResult_ofPatterns fun _ => rfl
  · exact laneResult_ofPatterns fun _ => rfl
  · exact laneResult_ofPatterns fun _ => rfl
  · exact laneResult_ofPatterns fun _ => rfl
  · exact laneResult_ofPattern (fun _ => rfl) fun c x ht hx => by rw [hx, ht]; rfl
  · exact laneResult_ofShift (fun _ => rfl) rfl fun _ _ _ _ _ => rfl
  · exact laneResult_ofShift (fun _ => rfl) rfl fun _ _ _ _ _ => rfl
  · exact laneResult_ofShift (fun _ => rfl) rfl opSar_eq
  · exact laneResult_ofShift (fun _ => rfl) rfl fun _ _ _ _ _ => rfl
  · exact laneResult_ofPattern (fun _ => rfl) fun c x ht hx => by rw [laneCount, hx]; rfl
  · exact laneResult_ofPattern (fun _ => rfl) fun c x ht hx => by rw [laneCount, hx]; rfl
  · exact laneResult_ofPattern (fun _ => rfl) fun c x ht hx => by rw [hx, ht]; rfl
  · exact laneResult_atDouble (fun _ => rfl) rfl
  · exact laneResult_atDouble (fun _ => rfl) rfl

/-! ### Moves, selection, register numbers -/

/-- R145: `MOV` completes with the pattern of its operand. -/
theorem mov_completes (d a : BitVec 8) (m : Mods) : LaneResult (.mov d a m) (typeOf (.mov d a m)) (fun c => val c c.a c.ty) := by
  refine laneResult_of_body (fun _ => rfl) fun c v _ ht hv => ?_
  rw [val_eq_some.1 hv, ← ht]
  rfl

/-- R146: `MOVI` completes with its immediate. -/
theorem movi_completes (d : BitVec 8) (imm : BitVec 16) (m : Mods) :
    LaneResult (.movi d imm m) (typeOf (.movi d imm m)) (fun c => some (immediate c.i imm)) := by
  refine laneResult_of_body (fun _ => rfl) fun c v _ ht hv => ?_
  rw [← Option.some.inj hv, ← ht]

/-- R147: the guard fields select as the statement says. -/
theorem selectorOf_eq (c : Ctx) : selectorOf c = selects c := by
  unfold selectorOf selects extOf
  cases (modsOf c.i).ext with
  | none => rfl
  | some e =>
    cases h : e.ge with
    | false => simp only [Option.getD_some, h, Bool.not_false, Bool.true_or, Bool.false_eq_true, ↓reduceIte]
    | true => simp only [Option.getD_some, h, Bool.not_true, Bool.false_or, ↓reduceIte]

/-- R147: `SEL` completes with the pattern of the operand that is selected. -/
theorem sel_completes (d a b : BitVec 8) (m : Mods) :
    LaneResult (.sel d a b m) (typeOf (.sel d a b m)) (fun c => val c (if selects c then c.a else c.b) c.ty) := by
  refine laneResult_of_body (fun _ => rfl) fun c v _ ht hv => ?_
  rw [selectorOf_eq, val_eq_some.1 hv, ← ht]
  rfl

/-- R149: a register number that the statement accepts is the one that the model uses. -/
theorem indirect_of_numbered {c : Ctx} (h : numbered c = true) : indirect c = .ok (readUniN32 c c.a) := by
  simp only [numbered, Bool.and_eq_true, Bool.or_eq_true, decide_eq_true_eq, bne_iff_ne, beq_iff_eq] at h
  obtain ⟨hin, heven⟩ := h
  refine if_neg ?_
  simp only [is64_eq, Bool.or_eq_true, Bool.and_eq_true, decide_eq_true_eq, beq_iff_eq]
  omega

/-- R149: `RGET` completes with the value of the register. -/
theorem rget_completes (d a : BitVec 8) (m : Mods) : LaneResult (.rget d a m) (typeOf (.rget d a m))
    (fun c => if numbered c then some (regAt c.ln (readUniN32 c c.a) (tyBits c.ty)) else none) := by
  refine laneResult_of_body (fun _ => rfl) fun c v _ ht hv => ?_
  obtain ⟨hn, hv⟩ := Option.ite_none_right_eq_some.1 hv
  rw [indirect_of_numbered hn, ← ht, ← Option.some.inj hv]
  rfl

/-- R46: a value of 32 or 64 bits enters its registers as it is. -/
theorem widen_of_wide {t : BitVec 5} (ht : 32 ≤ tyBits t) (v : Nat) : widen t v = BitVec.ofNat 64 (v % 2 ^ tyBits t) := by
  simp only [widen, Nat.not_lt.2 ht, decide_false, Bool.false_and, Bool.false_eq_true, ↓reduceIte]

theorem setWidth_widen_of_wide {t : BitVec 5} (ht : 32 ≤ tyBits t) (v : Nat) : (widen t v).setWidth 32 = BitVec.ofNat 32 v := by
  rw [widen_of_wide ht]
  apply BitVec.eq_of_toNat_eq
  simp only [BitVec.toNat_setWidth, BitVec.toNat_ofNat]
  rw [Nat.mod_mod_of_dvd _ (Nat.pow_dvd_pow 2 (show 32 ≤ 64 by omega)), Nat.mod_mod_of_dvd v (Nat.pow_dvd_pow 2 ht)]

theorem extractLsb'_widen_of_pair {t : BitVec 5} (ht : tyBits t = 64) (v : Nat) :
    (widen t v).extractLsb' 32 32 = BitVec.ofNat 32 (v / 2 ^ 32) := by
  rw [widen_of_wide (by omega), ht]
  apply BitVec.eq_of_toNat_eq
  simp only [BitVec.extractLsb'_toNat, BitVec.toNat_ofNat, Nat.shiftRight_eq_div_pow]
  omega

/-- R149: the registers after `RPUT`: the low word of the value, and the high word at 64 bits. -/
theorem regsWith_of_wide {t : BitVec 5} (ht : t ∈ tyWide) (rs : SMap Word) (n v : Nat) : regsWith rs n t v =
    if is64 t then smSet 0 (smSet 0 rs n (BitVec.ofNat 32 v)) (n + 1) (BitVec.ofNat 32 (v / 2 ^ 32))
    else smSet 0 rs n (BitVec.ofNat 32 v) := by
  unfold regsWith
  rw [is64_eq]
  rcases tyBits_of_mem_tyWide t ht with h | h
  · rw [setWidth_widen_of_wide (Nat.le_of_eq h.symm), h]
    rfl
  · rw [setWidth_widen_of_wide (show 32 ≤ tyBits t by omega), extractLsb'_widen_of_pair h, h]
    rfl

/-- R149: `RPUT` completes with its value in the register and in `b0`. -/
theorem rput_completes (a b : BitVec 8) (m : Mods) : LaneChange (.rput a b m) (fun c => numbered c && (val c c.b c.ty).isSome)
    (fun c => latched { c.ln with regs := regsWith c.ln.regs (readUniN32 c c.a) c.ty ((val c c.b c.ty).getD 0) }
      (some (BitVec.ofNat 64 ((val c c.b c.ty).getD 0)))) (fun c => c.ln) := by
  refine laneChange_of_body (fun _ => rfl) (fun c hl ht hok => ?_) (fun _ => rfl) fun _ => rfl
  obtain ⟨hn, hv⟩ := Bool.and_eq_true_iff.1 hok
  obtain ⟨v, hv⟩ := Option.isSome_iff_exists.1 hv
  rw [indirect_of_numbered hn, val_eq_some.1 hv, hv, regsWith_of_wide (ty_mem_of_legal hl ht rfl rfl)]
  cases is64 c.ty <;> rfl

/-- Settles O3: each instruction reads its value as R145 to R147 and R149 say and writes it. -/
theorem movesAndSelection : Obligations.MovesAndSelection := by
  unfold Obligations.MovesAndSelection
  intro d a b imm m
  exact ⟨mov_completes d a m, movi_completes d imm m, sel_completes d a b m, rget_completes d a m, rput_completes a b m⟩

/-! ### Predicate pairs -/

/-- R148: the combine table of an executing lane. -/
theorem writePair_active (ln : Lane) (q q' cmb : Nat) (c : Bool) : writePair ln q q' cmb true c = pairSet ln q q' cmb c := rfl

/-- R29: a predicate written with the value it reads stays. -/
theorem setPred_lanePred (ln : Lane) {q : Nat} (hq : q < 16) : setPred ln.preds q (lanePred ln q) = ln.preds := by
  apply BitVec.eq_of_getLsbD_eq
  intro j hj
  by_cases h : j ≠ q ∨ q = 0
  · exact setPred_other _ _ hj h
  · obtain ⟨hjq, hne⟩ := not_or.1 h
    rw [Decidable.not_not.1 hjq, setPred_same _ _ hq hne]
    rw [lanePred, Nat.mod_eq_of_lt hq, beq_eq_false_iff_ne.2 hne, Bool.false_or]

/-- R148: the combine table of an inactive lane: `.unc` clears the pair, every other type writes back what it read. -/
theorem writePair_idle (ln : Lane) {q q' : Nat} (cmb : Nat) (hq : q < 16) (hq' : q' < 16) :
    writePair ln q q' cmb false false = pairIdle ln q q' cmb := by
  by_cases h : cmb = 1
  · simp only [writePair, combine, pairIdle, h, Bool.false_eq_true, ↓reduceIte]
  · simp only [writePair, combine, pairIdle, h, Bool.false_eq_true, ↓reduceIte, setPred_lanePred ln hq, setPred_lanePred ln hq']

/-- R43: the partner of a predicate is a predicate. -/
theorem partner_lt {q : Nat} (h : q < 16) : partner q < 16 := by
  unfold partner
  split <;> omega

theorem predOf_lt (c : Ctx) : predOf c < 16 := Nat.mod_lt _ (by omega)

/-- R148: an inactive lane of a compare. -/
theorem idleCompare_eq : idleCompare = fun c => pairIdle c.ln (predOf c) (partner (predOf c)) (cmbOf c) :=
  funext fun c => writePair_idle c.ln _ (predOf_lt c) (partner_lt (predOf_lt c))

/-- R175: an inactive lane of a packed compare. -/
theorem idlePackedCompare_eq : idlePackedCompare = fun c =>
    pairIdle (pairIdle c.ln (predOf c) ((predOf c + 1) % 16) (cmbOf c)) ((predOf c + 2) % 16) ((predOf c + 3) % 16) (cmbOf c) := by
  have hmod : ∀ n, n % 16 < 16 := fun n => Nat.mod_lt _ (by omega)
  funext c
  rw [← writePair_idle _ _ (predOf_lt c) (hmod _), ← writePair_idle _ _ (hmod _) (hmod _)]
  rfl

/-! ### Conditions -/

/-- R148: the relation of two integers that a condition names. -/
def intMeets (cond : Cond) (x y : Int) : Bool :=
  match cond with
  | .eq => decide (x = y)
  | .ne => decide (x ≠ y)
  | .lt => decide (x < y)
  | .le => decide (x ≤ y)
  | .gt => decide (y < x)
  | .ge => decide (y ≤ x)

/-- R174: the orders that meet a condition; unordered meets `.ne` alone. -/
def orderMeets (cond : Cond) (o : Option Ordering) : Bool :=
  match cond with
  | .eq => o == some .eq
  | .ne => o != some .eq
  | .lt => o == some .lt
  | .le => o == some .lt || o == some .eq
  | .gt => o == some .gt
  | .ge => o == some .gt || o == some .eq

theorem condHolds_eq_orderMeets (cond : Cond) (o : Option Ordering) : condHolds cond o = orderMeets cond o := by
  cases o with
  | none => cases cond <;> rfl
  | some x => cases x <;> cases cond <;> rfl

theorem condHolds_compare (cond : Cond) (x y : Int) : condHolds cond (some (compare x y)) = intMeets cond x y := by
  have hlt : compare x y = .lt ↔ x < y := Int.compare_eq_lt
  have heq : compare x y = .eq ↔ x = y := Int.compare_eq_eq
  have hgt : compare x y = .gt ↔ y < x := Int.compare_eq_gt
  rw [Bool.eq_iff_iff]
  cases cond with
  | eq => simp only [condHolds, intMeets, beq_iff_eq, decide_eq_true_eq, heq]
  | ne => simp only [condHolds, intMeets, bne_iff_ne, ne_eq, decide_eq_true_eq, heq]
  | lt => simp only [condHolds, intMeets, beq_iff_eq, decide_eq_true_eq, hlt]
  | le => simp only [condHolds, intMeets, bne_iff_ne, ne_eq, decide_eq_true_eq, hgt, Int.not_lt]
  | gt => simp only [condHolds, intMeets, beq_iff_eq, decide_eq_true_eq, hgt]
  | ge => simp only [condHolds, intMeets, bne_iff_ne, ne_eq, decide_eq_true_eq, hlt, Int.not_lt]

/-! ### Compares -/

/-- R148: a compare completes with the pair of the condition that its order gives. -/
theorem compareResult_of_order {i : Instr} {order : Ctx → Except (BitVec 8) (Option Ordering)} {cond : Cond} {holds : Ctx → Option Bool}
    (hexec : ∀ s, exec i s = execLaneWith i (laneCompare order cond) idleCompare s)
    (horder : ∀ c v, holds c = some v → ∃ o, order c = .ok o ∧ condHolds cond o = v) : CompareResult i holds := by
  refine laneChange_of_body (fun s => idleCompare_eq ▸ hexec s) (fun c _ _ hok => ?_) (fun _ => rfl) fun _ => pairIdle_hold _ _ _ _
  obtain ⟨v, hv⟩ := Option.isSome_iff_exists.1 hok
  obtain ⟨o, ho, rfl⟩ := horder c v hv
  rw [laneCompare, ho, hv]
  exact congrArg (fun ln => Except.ok (shiftLatches ln none)) (writePair_active _ _ _ _ _)

/-- R148: a compare of integers completes. -/
theorem compareResult_onInts {i : Instr} (cond : Cond)
    (hexec : ∀ s, exec i s = execLaneWith i (laneCompare intOrder cond) idleCompare s) : CompareResult i (onInts (intMeets cond)) := by
  refine compareResult_of_order hexec fun c v hv => ?_
  simp only [onInts, Option.bind_eq_bind, Option.bind_eq_some_iff, intOf_eq_some, Option.some.injEq] at hv
  obtain ⟨x, ⟨a, ha, rfl⟩, y, ⟨b, hb, rfl⟩, rfl⟩ := hv
  exact ⟨some (compare (intVal c.ty a) (intVal c.ty b)), by rw [intOrder, ha, hb]; rfl, condHolds_compare _ _ _⟩

/-- R174: a compare of floating-point operands completes. -/
theorem compareResult_onFloats {i : Instr} (cond : Cond)
    (hexec : ∀ s, exec i s = execLaneWith i (laneCompare floatOrder cond) idleCompare s) :
    CompareResult i (onFloats (orderMeets cond)) := by
  refine compareResult_of_order hexec fun c v hv => ?_
  simp only [onFloats, Option.bind_eq_bind, Option.bind_eq_some_iff, fltOf_eq_some, Option.some.injEq] at hv
  obtain ⟨x, ⟨a, ha, rfl⟩, y, ⟨b, hb, rfl⟩, rfl⟩ := hv
  exact ⟨fCompare (fval (formatOf c.ty) a) (fval (formatOf c.ty) b), by rw [floatOrder, ha, hb]; rfl, condHolds_eq_orderMeets _ _⟩

/-- R64: a pattern is read from the bits of its format alone. -/
theorem fval_mod {f : Format} {n : Nat} (h : f.bits ≤ n) (x : Nat) : fval f (x % 2 ^ n) = fval f x := by
  simp only [fval, Nat.mod_mod_of_dvd x (Nat.pow_dvd_pow 2 h)]

/-- R80: element 0 is the low half. -/
theorem halfOf_zero (x : Nat) : halfOf x 0 = x % 2 ^ 16 := by
  rw [halfOf, bitsOf, Nat.mul_zero, Nat.pow_zero, Nat.div_one]

/-- R80: element 1, read at a format of 16 bits, is the high half. -/
theorem fval_halfOf_one {f : Format} (h : f.bits = 16) (x : Nat) : fval f (halfOf x 1) = fval f (x / 2 ^ 16) :=
  fval_mod (Nat.le_of_eq h) _

/-- R175: a packed compare completes with one pair for each half. -/
theorem packedCompareResult_of_cond {i : Instr} (cond : Cond)
    (hexec : ∀ s, exec i s = execLaneWith i (lanePackedCompare cond) idlePackedCompare s) (hty : (shapeOf i).types = tyHalf) :
    PackedCompareResult i (orderMeets cond) := by
  refine laneChange_of_body (fun s => idlePackedCompare_eq ▸ hexec s) (fun c hl ht hok => ?_) (fun _ => rfl) fun _ => by simp only [pairIdle_hold]
  have hbits := formatOf_bits_of_mem_tyHalf _ (ty_mem_of_legal hl ht hty rfl)
  obtain ⟨v, hv⟩ := Option.isSome_iff_exists.1 hok
  rw [hv]
  simp only [onHalves, Option.bind_eq_bind, Option.bind_eq_some_iff, packed_eq_some, Option.some.injEq] at hv
  obtain ⟨a, ha, b, hb, rfl⟩ := hv
  simp only [← halfOf_zero, ← fval_halfOf_one hbits, ← condHolds_eq_orderMeets, lanePackedCompare, ha, hb]
  rfl

theorem integerCompares : IntegerCompares := fun _ _ _ _ _ =>
  ⟨compareResult_onInts .eq fun _ => rfl, compareResult_onInts .ne fun _ => rfl, compareResult_onInts .lt fun _ => rfl,
    compareResult_onInts .le fun _ => rfl, compareResult_onInts .gt fun _ => rfl, compareResult_onInts .ge fun _ => rfl⟩

theorem floatCompares : FloatCompares := fun _ _ _ _ _ =>
  ⟨compareResult_onFloats .eq fun _ => rfl, compareResult_onFloats .ne fun _ => rfl, compareResult_onFloats .lt fun _ => rfl,
    compareResult_onFloats .le fun _ => rfl, compareResult_onFloats .gt fun _ => rfl, compareResult_onFloats .ge fun _ => rfl⟩

theorem packedCompares : PackedCompares := fun _ _ _ _ _ =>
  ⟨packedCompareResult_of_cond .eq (fun _ => rfl) rfl, packedCompareResult_of_cond .ne (fun _ => rfl) rfl,
    packedCompareResult_of_cond .lt (fun _ => rfl) rfl, packedCompareResult_of_cond .le (fun _ => rfl) rfl,
    packedCompareResult_of_cond .gt (fun _ => rfl) rfl, packedCompareResult_of_cond .ge (fun _ => rfl) rfl⟩

/-- Settles O4: each compare finds the order of its operands and writes the pairs that R148, R174 and R175 say. -/
theorem compares : Obligations.Compares := by
  unfold Obligations.Compares
  exact ⟨integerCompares, floatCompares, packedCompares⟩

end Sys2Proof.Proofs
end
